-- ==== Sys2Proof/Word.lean ====
section
/-! DEFINITION. The words of the part, and the type of a sparse map. -/

namespace Sys2Proof

/-- A value moved between ports (03_tile_isa.md R71): 64 bits. -/
abbrev Word := BitVec 64

/-- One byte of memory. -/
abbrev Byte := BitVec 8

/-- A sparse map from numbers: pairs with strictly rising keys, none holding the map's default value. What an
unlisted key reads as is an argument of the operations in Machine/Maps.lean. -/
abbrev SMap (α : Type) := List (Nat × α)

end Sys2Proof
end

