-- ==== Sys2Proof/Syntax.lean ====
section
/-! DEFINITION. The commands of the block: one constructor for each row of spec/opcode_table.json, with the operands
a sender gives. `lti` is a logical tile index (R12) and `sg` the bits [119:112] of the word that holds the move (R68:
SGOP, SGID, SGK, SGEN). -/

namespace Sys2Proof

/-- A frame on the CAN bus that is no request to this node: a request to node 0 (a broadcast), a request frame shorter than its message,
a frame with a 29-bit identifier, a classical or a remote frame, a frame that ends in an error frame (R352, R353). -/
inductive CanFrame where | broadcast | short | foreign | error
  deriving DecidableEq, Repr

/-- A client of this package's hub (R360). -/
inductive HubClient where | firmware | mailbox | zdp
  deriving DecidableEq, Repr

/-- The path a dictionary request comes by (R338): hub firmware, the BAR0 mailbox, ZDP, or a Twill management message,
which acts as Serge supervisor when `serge` holds. `can` is a frame that ZDP does not take as a request to this node; `away` a
request of a client of this hub to another package (R360). -/
inductive Path where
  | firmware
  | mailbox
  | zdp
  | twill (serge : Bool)
  | can (frame : CanFrame)
  | away (client : HubClient) (dst : BitVec 6)
  deriving DecidableEq, Repr

/-- A request as it reaches a memory controller (R245): one access inside one 64 B line. `pa` is its first byte,
`data` the bytes of a write (empty for a read), `path` the mesh path it arrives by, which ends in an arrival port. -/
structure MemReq where
  path : Nat
  pa : Nat
  len : Nat
  write : Bool
  cxid : BitVec 12
  serge : Bool
  lc : Bool
  det : Bool
  data : List Byte
  deriving DecidableEq, Repr

/-- A master's beacon (R314). -/
structure BeaconMsg where
  master : BitVec 6
  prio : BitVec 8
  period : BitVec 32
  generation : BitVec 64
  members : BitVec 64
  nextSet : BitVec 64
  refused : BitVec 64
  e : BitVec 4
  sfn : BitVec 64
  deriving DecidableEq, Repr

/-- What a configuration request addresses (R317 to R320); `unlisted` is any register of a capability that R317 does not list. -/
inductive PciReg where
  | ids | classCode | command | bar (n : BitVec 2) | msixControl | bar2Size | powerState | deviceControl | deviceControl2 | correctableStatus
  | headerType | interruptPin | deviceCapabilities | linkCapabilities | linkSpeeds | bar2Sizes | unlisted | other
  deriving DecidableEq, Repr

/-- A failing target of a self-test (R402): scope of the test, target number, signature obtained and expected, and for a controller
whether the failing memory is its ownership SRAM (R401). -/
structure TestFail where
  scope : BitVec 4
  target : BitVec 14
  sig : Word
  expected : Word
  owner : Bool
  deriving DecidableEq, Repr

/-- The activity counters of one microsecond (R368): for a region, matrix cell-cycles by compute class (0 FP8, 1 BF16, 2 FP16, 3 F19,
4 FP64, 5 INT8), vector groups by format code, tile-store lines and conversion-unit lines; for a channel, bursts and turnarounds; Twill
flits and PCI Express traffic. -/
structure Activity where
  cells : List (Nat × Nat × Nat)
  groups : List (Nat × Nat × Nat)
  storeLines : List (Nat × Nat)
  cvLines : List (Nat × Nat)
  bursts : List (Nat × Nat)
  turnarounds : List (Nat × Nat)
  flits : Nat
  pcie : Nat
  deriving DecidableEq, Repr

def Activity.zero : Activity :=
  { cells := [], groups := [], storeLines := [], cvLines := [], bursts := [], turnarounds := [], flits := 0, pcie := 0 }

/-- What a parity or tile-store check finds (R390, R394). `retires` is a failure that retires the tile, for a cause of R456; the table has
no row for the others (assumption 123): the entry of a cache, victim cache, loop buffer, prediction table or TLB is invalidated, by
its place, a single-bit error of a tile-store word is corrected as it is read, a word of the tile store becomes uncorrectable. -/
inductive ParityFault where
  | retires (cause : BitVec 8)
  | line (code : Bool) (n : Nat)
  | victim (n : Nat)
  | loopBuffer (pc : Nat)
  | prediction (k : Nat)
  | tlb (code : Bool) (n : Nat)
  | clusterTlb (n : Nat)
  | storeBit (off : BitVec 20)
  | storeWord (off : BitVec 20)
  deriving DecidableEq, Repr

/-- What training sets on a lane, and its eye margins by kind (R256): delay, receiver reference voltage, drive; a byte for each of the
four margins. The widths are the model's (assumption 115). -/
structure LaneSet where
  delay : BitVec 16
  vref : BitVec 8
  drive : BitVec 8
  margins : BitVec 32
  deriving DecidableEq, Repr

/-- Settings of zero. -/
def LaneSet.zero : LaneSet := { delay := 0, vref := 0, drive := 0, margins := 0 }

/-- What the reset sequence finds (R256, R257, R396, R413, R445 to R451): the straps, failing physical tiles, faulty dies, dies
without transit; channels that do not train, the settings and eye margins that training makes by channel and the pass limit of each
margin kind, channels whose record fails the verify; whether another source cuts the sequence short; whether the regenerated key pair
differs from the certificate (R425); what firmware loads at step 7 (R413): the granules it assigns to 0x000, the handler table address and
the latch of a tile's Serge world, the Calico RAM by 65,536 × cluster + offset; and what an external programmer or EXTEST has written to the
flash, by offset (R417, R451). -/
structure BringUp where
  recov : Bool
  nodeId : BitVec 3
  failTiles : List Nat
  failDies : List Nat
  noTransit : List Nat
  untrained : List Nat
  passLimit : List Nat
  lanes : List (Nat × List LaneSet)
  verifyFails : List Nat
  cut : Bool
  identMismatch : Bool
  fwGranules : List Nat
  latchS : List (Nat × BitVec 52 × List Word)
  calicoRam : List (Nat × Byte)
  programmed : List (Nat × List Byte)
  deriving DecidableEq, Repr

/-- The commands; those without operands stand last. -/
inductive Instr where
  /-- FRAME_IN_EDGE (R40). -/
  | frameInEdge (at_ : Nat)
  /-- WEDGE (R60). -/
  | wedge (lti : BitVec 14)
  /-- ISSUE_WORD (R71). -/
  | issueWord (lti : BitVec 14)
  /-- REGISTER_WRITE (R71). -/
  | registerWrite (lti : BitVec 14) (port : BitVec 12) (x : Word) (sg : BitVec 8)
  /-- AL_ADD (R81). -/
  | alAdd (lti : BitVec 14) (alu : Bool) (b : Word) (sg : BitVec 8)
  /-- AL_ADC (R81). -/
  | alAdc (lti : BitVec 14) (alu : Bool) (b : Word) (sg : BitVec 8)
  /-- AL_SUB (R81). -/
  | alSub (lti : BitVec 14) (alu : Bool) (b : Word) (sg : BitVec 8)
  /-- AL_SBC (R81). -/
  | alSbc (lti : BitVec 14) (alu : Bool) (b : Word) (sg : BitVec 8)
  /-- AL_AND (R81). -/
  | alAnd (lti : BitVec 14) (alu : Bool) (b : Word) (sg : BitVec 8)
  /-- AL_OR (R81). -/
  | alOr (lti : BitVec 14) (alu : Bool) (b : Word) (sg : BitVec 8)
  /-- AL_XOR (R81). -/
  | alXor (lti : BitVec 14) (alu : Bool) (b : Word) (sg : BitVec 8)
  /-- AL_ANDN (R81). -/
  | alAndn (lti : BitVec 14) (alu : Bool) (b : Word) (sg : BitVec 8)
  /-- AL_SHL (R81). -/
  | alShl (lti : BitVec 14) (alu : Bool) (b : Word) (sg : BitVec 8)
  /-- AL_SHR (R81). -/
  | alShr (lti : BitVec 14) (alu : Bool) (b : Word) (sg : BitVec 8)
  /-- AL_SAR (R81). -/
  | alSar (lti : BitVec 14) (alu : Bool) (b : Word) (sg : BitVec 8)
  /-- AL_CMP (R81). -/
  | alCmp (lti : BitVec 14) (alu : Bool) (b : Word) (sg : BitVec 8)
  /-- AL_MIN (R81). -/
  | alMin (lti : BitVec 14) (alu : Bool) (b : Word) (sg : BitVec 8)
  /-- AL_MAX (R81). -/
  | alMax (lti : BitVec 14) (alu : Bool) (b : Word) (sg : BitVec 8)
  /-- AL_MINU (R81). -/
  | alMinu (lti : BitVec 14) (alu : Bool) (b : Word) (sg : BitVec 8)
  /-- AL_MAXU (R81). -/
  | alMaxu (lti : BitVec 14) (alu : Bool) (b : Word) (sg : BitVec 8)
  /-- AL_RESULT (R81). -/
  | alResult (lti : BitVec 14) (alu : Bool)
  /-- MUL_MUL (R82). -/
  | mulMul (lti : BitVec 14) (b : Word) (sg : BitVec 8)
  /-- MUL_MULU (R82). -/
  | mulMulu (lti : BitVec 14) (b : Word) (sg : BitVec 8)
  /-- MUL_MULSU (R82). -/
  | mulMulsu (lti : BitVec 14) (b : Word) (sg : BitVec 8)
  /-- MUL_PRODUCT (R82). -/
  | mulProduct (lti : BitVec 14)
  /-- DIV_DIV (R83). -/
  | divDiv (lti : BitVec 14) (b : Word) (sg : BitVec 8)
  /-- DIV_DIVU (R83). -/
  | divDivu (lti : BitVec 14) (b : Word) (sg : BitVec 8)
  /-- DIV_COMPLETE (R83). -/
  | divComplete (lti : BitVec 14)
  /-- LSU_LD (R85). -/
  | lsuLd (lti : BitVec 14) (k : BitVec 2) (off : Word) (sg : BitVec 8)
  /-- LSU_ST (R85). -/
  | lsuSt (lti : BitVec 14) (off : Word) (sg : BitVec 8)
  /-- LSU_PF (R113). -/
  | lsuPf (lti : BitVec 14) (off : Word) (sg : BitVec 8)
  /-- LSU_FENCE (R85). -/
  | lsuFence (lti : BitVec 14) (x : Word) (sg : BitVec 8)
  /-- LOAD_RESULT (R127). -/
  | loadResult (lti : BitVec 14) (k : BitVec 2)
  /-- STORE_HANDOFF (R119). -/
  | storeHandoff (lti : BitVec 14)
  /-- STORE_PERFORMED (R127). -/
  | storePerformed (lti : BitVec 14)
  /-- CACHE_LINE_FILL (R110). -/
  | cacheLineFill (lti : BitVec 14) (code : Bool)
  /-- TLB_WALK_COMPLETE (R270). -/
  | tlbWalkComplete (lti : BitVec 14) (code : Bool)
  /-- ASYNC_DATA_ABORT (R458). -/
  | asyncDataAbort (lti : BitVec 14)
  /-- DETERMINISTIC_OVERLOAD (R129). -/
  | deterministicOverload (lti : BitVec 14)
  /-- BR_J (R86). -/
  | brJ (lti : BitVec 14) (target : Word) (sg : BitVec 8)
  /-- BR_JR (R86). -/
  | brJr (lti : BitVec 14) (target : Word) (sg : BitVec 8)
  /-- BR_CALL (R86). -/
  | brCall (lti : BitVec 14) (target : Word) (sg : BitVec 8)
  /-- BR_CALLR (R86). -/
  | brCallr (lti : BitVec 14) (target : Word) (sg : BitVec 8)
  /-- BR_CONDITIONAL (R86). -/
  | brConditional (lti : BitVec 14) (cond : BitVec 4) (target : Word) (sg : BitVec 8)
  /-- CB_COMPARE_BRANCH (R87). -/
  | cbCompareBranch (lti : BitVec 14) (cond : BitVec 3) (b : Word) (sg : BitVec 8)
  /-- LOOP_START (R88). -/
  | loopStart (lti : BitVec 14) (x : Word) (sg : BitVec 8)
  /-- LOOP_BRK (R89). -/
  | loopBrk (lti : BitVec 14) (x : Word) (sg : BitVec 8)
  /-- LIB_CALL (R90). -/
  | libCall (lti : BitVec 14) (x : Word) (sg : BitVec 8)
  /-- WS_FSET (R96). -/
  | wsFset (lti : BitVec 14) (x : Word) (sg : BitVec 8)
  /-- WS_FCLR (R96). -/
  | wsFclr (lti : BitVec 14) (x : Word) (sg : BitVec 8)
  /-- WS_COUNTER_WRITE (R96). -/
  | wsCounterWrite (lti : BitVec 14) (n : BitVec 5) (x : Word) (sg : BitVec 8)
  /-- SYS_FEND (R52). -/
  | sysFend (lti : BitVec 14) (x : Word) (sg : BitVec 8)
  /-- FRAME_END_DRAINED (R52). -/
  | frameEndDrained (lti : BitVec 14)
  /-- SYS_PHINT (R376). -/
  | sysPhint (lti : BitVec 14) (x : Word) (sg : BitVec 8)
  /-- SYS_CINV (R117). -/
  | sysCinv (lti : BitVec 14) (x : Word) (sg : BitVec 8)
  /-- CACHE_INVALIDATE_COMPLETE (R117). -/
  | cacheInvalidateComplete (lti : BitVec 14)
  /-- SYS_ICPATCH (R122). -/
  | sysIcpatch (lti : BitVec 14) (x : Word) (sg : BitVec 8)
  /-- SYS_ICFLUSH (R123). -/
  | sysIcflush (lti : BitVec 14) (x : Word) (sg : BitVec 8)
  /-- ICFLUSH_COMPLETE (R123). -/
  | icflushComplete (lti : BitVec 14)
  /-- SYS_XRET (R236). -/
  | sysXret (lti : BitVec 14) (x : Word) (sg : BitVec 8)
  /-- SYS_NI (R231). -/
  | sysNi (lti : BitVec 14) (x : Word) (sg : BitVec 8)
  /-- NI_WINDOW_EXPIRE (R231). -/
  | niWindowExpire (lti : BitVec 14)
  /-- SYS_TRAP (R224). -/
  | sysTrap (lti : BitVec 14) (x : Word) (sg : BitVec 8)
  /-- SYS_TLBS (R275). -/
  | sysTlbs (lti : BitVec 14) (x : Word) (sg : BitVec 8)
  /-- SYS_HOSTIRQ (R334). -/
  | sysHostirq (lti : BitVec 14) (x : Word) (sg : BitVec 8)
  /-- HOSTIRQ_SENT (R334). -/
  | hostirqSent (lti : BitVec 14)
  /-- XTB_WRITE (R221). -/
  | xtbWrite (lti : BitVec 14) (serge : Bool) (x : Word) (sg : BitVec 8)
  /-- HANDLER_TABLE_LATCHED (R221). -/
  | handlerTableLatched (lti : BitVec 14) (serge : Bool)
  /-- SYS_CCFG_WRITE (R115). -/
  | sysCcfgWrite (lti : BitVec 14) (x : Word) (sg : BitVec 8)
  /-- INTERRUPT_ENTRY (R225). -/
  | interruptEntry (lti : BitVec 14)
  /-- VX_VL_WRITE (R134). -/
  | vxVlWrite (lti : BitVec 14) (x : Word) (sg : BitVec 8)
  /-- VX_ADD (R146). -/
  | vxAdd (lti : BitVec 14) (x : Word) (sg : BitVec 8)
  /-- VX_SUB (R146). -/
  | vxSub (lti : BitVec 14) (x : Word) (sg : BitVec 8)
  /-- VX_MUL (R146). -/
  | vxMul (lti : BitVec 14) (x : Word) (sg : BitVec 8)
  /-- VX_FMA (R146). -/
  | vxFma (lti : BitVec 14) (x : Word) (sg : BitVec 8)
  /-- VX_FMS (R146). -/
  | vxFms (lti : BitVec 14) (x : Word) (sg : BitVec 8)
  /-- VX_FNMA (R146). -/
  | vxFnma (lti : BitVec 14) (x : Word) (sg : BitVec 8)
  /-- VX_MIN (R146). -/
  | vxMin (lti : BitVec 14) (x : Word) (sg : BitVec 8)
  /-- VX_MAX (R146). -/
  | vxMax (lti : BitVec 14) (x : Word) (sg : BitVec 8)
  /-- VX_ABS (R146). -/
  | vxAbs (lti : BitVec 14) (x : Word) (sg : BitVec 8)
  /-- VX_NEG (R146). -/
  | vxNeg (lti : BitVec 14) (x : Word) (sg : BitVec 8)
  /-- VX_RCPE (R149). -/
  | vxRcpe (lti : BitVec 14) (x : Word) (sg : BitVec 8)
  /-- VX_RSQE (R149). -/
  | vxRsqe (lti : BitVec 14) (x : Word) (sg : BitVec 8)
  /-- VX_AND (R146). -/
  | vxAnd (lti : BitVec 14) (x : Word) (sg : BitVec 8)
  /-- VX_OR (R146). -/
  | vxOr (lti : BitVec 14) (x : Word) (sg : BitVec 8)
  /-- VX_XOR (R146). -/
  | vxXor (lti : BitVec 14) (x : Word) (sg : BitVec 8)
  /-- VX_SHL (R148). -/
  | vxShl (lti : BitVec 14) (x : Word) (sg : BitVec 8)
  /-- VX_SHR (R148). -/
  | vxShr (lti : BitVec 14) (x : Word) (sg : BitVec 8)
  /-- VX_SAR (R148). -/
  | vxSar (lti : BitVec 14) (x : Word) (sg : BitVec 8)
  /-- VX_MOV (R146). -/
  | vxMov (lti : BitVec 14) (x : Word) (sg : BitVec 8)
  /-- VX_CMP (R150). -/
  | vxCmp (lti : BitVec 14) (x : Word) (sg : BitVec 8)
  /-- VX_MAND (R150). -/
  | vxMand (lti : BitVec 14) (x : Word) (sg : BitVec 8)
  /-- VX_MOR (R150). -/
  | vxMor (lti : BitVec 14) (x : Word) (sg : BitVec 8)
  /-- VX_MXOR (R150). -/
  | vxMxor (lti : BitVec 14) (x : Word) (sg : BitVec 8)
  /-- VX_MANDN (R150). -/
  | vxMandn (lti : BitVec 14) (x : Word) (sg : BitVec 8)
  /-- VX_MPOP (R150). -/
  | vxMpop (lti : BitVec 14) (x : Word) (sg : BitVec 8)
  /-- VX_MFIRST (R150). -/
  | vxMfirst (lti : BitVec 14) (x : Word) (sg : BitVec 8)
  /-- VX_RSUM (R151). -/
  | vxRsum (lti : BitVec 14) (x : Word) (sg : BitVec 8)
  /-- VX_RMAX (R151). -/
  | vxRmax (lti : BitVec 14) (x : Word) (sg : BitVec 8)
  /-- VX_RMIN (R151). -/
  | vxRmin (lti : BitVec 14) (x : Word) (sg : BitVec 8)
  /-- VX_PERM (R152). -/
  | vxPerm (lti : BitVec 14) (x : Word) (sg : BitVec 8)
  /-- VX_ILV (R152). -/
  | vxIlv (lti : BitVec 14) (x : Word) (sg : BitVec 8)
  /-- VX_DLVE (R152). -/
  | vxDlve (lti : BitVec 14) (x : Word) (sg : BitVec 8)
  /-- VX_DLVO (R152). -/
  | vxDlvo (lti : BitVec 14) (x : Word) (sg : BitVec 8)
  /-- VX_ROT (R152). -/
  | vxRot (lti : BitVec 14) (x : Word) (sg : BitVec 8)
  /-- VX_BFLY (R152). -/
  | vxBfly (lti : BitVec 14) (x : Word) (sg : BitVec 8)
  /-- VX_PACK (R153). -/
  | vxPack (lti : BitVec 14) (x : Word) (sg : BitVec 8)
  /-- VX_UNPACK (R153). -/
  | vxUnpack (lti : BitVec 14) (x : Word) (sg : BitVec 8)
  /-- VX_LD (R154). -/
  | vxLd (lti : BitVec 14) (x : Word) (sg : BitVec 8)
  /-- VX_ST (R154). -/
  | vxSt (lti : BitVec 14) (x : Word) (sg : BitVec 8)
  /-- VX_GTH (R154). -/
  | vxGth (lti : BitVec 14) (x : Word) (sg : BitVec 8)
  /-- VX_SCT (R154). -/
  | vxSct (lti : BitVec 14) (x : Word) (sg : BitVec 8)
  /-- VX_EXT (R158). -/
  | vxExt (lti : BitVec 14) (x : Word) (sg : BitVec 8)
  /-- VX_INS (R158). -/
  | vxIns (lti : BitVec 14) (x : Word) (sg : BitVec 8)
  /-- VX_OP_START (R141). -/
  | vxOpStart (lti : BitVec 14)
  /-- VX_OP_COMPLETE (R142). -/
  | vxOpComplete (lti : BitVec 14)
  /-- VECTOR_DATA_ABORT (R155). -/
  | vectorDataAbort (lti : BitVec 14)
  /-- MX_MMA (R170). -/
  | mxMma (lti : BitVec 14) (x : Word) (sg : BitVec 8)
  /-- MX_DRAIN (R171). -/
  | mxDrain (lti : BitVec 14) (x : Word) (sg : BitVec 8)
  /-- MX_LUT (R166). -/
  | mxLut (lti : BitVec 14) (x : Word) (sg : BitVec 8)
  /-- MX_SAVE (R191). -/
  | mxSave (lti : BitVec 14) (x : Word) (sg : BitVec 8)
  /-- MX_RESTORE (R191). -/
  | mxRestore (lti : BitVec 14) (x : Word) (sg : BitVec 8)
  /-- MX_OP_START (R179). -/
  | mxOpStart (lti : BitVec 14) (unit : BitVec 2)
  /-- MX_MMA_COMPLETE (R180). -/
  | mxMmaComplete (lti : BitVec 14)
  /-- MX_DRAIN_COMPLETE (R185). -/
  | mxDrainComplete (lti : BitVec 14)
  /-- MX_LUT_COMPLETE (R166). -/
  | mxLutComplete (lti : BitVec 14)
  /-- MX_SAVE_COMPLETE (R191). -/
  | mxSaveComplete (lti : BitVec 14)
  /-- MX_RESTORE_COMPLETE (R191). -/
  | mxRestoreComplete (lti : BitVec 14)
  /-- MX_OVERFLOW_REPLAY (R187). -/
  | mxOverflowReplay (lti : BitVec 14)
  /-- CV_CVT (R201). -/
  | cvCvt (lti : BitVec 14) (x : Word) (sg : BitVec 8)
  /-- CV_NODE (R217). -/
  | cvNode (lti : BitVec 14) (x : Word) (sg : BitVec 8)
  /-- CV_MWU (R214). -/
  | cvMwu (lti : BitVec 14) (x : Word) (sg : BitVec 8)
  /-- CV_HPUSH (R205). -/
  | cvHpush (lti : BitVec 14) (x : Word) (sg : BitVec 8)
  /-- CV_SLOT (R206). -/
  | cvSlot (lti : BitVec 14) (x : Word) (sg : BitVec 8)
  /-- CV_OP_START (R203). -/
  | cvOpStart (lti : BitVec 14)
  /-- CV_OP_COMPLETE (R203). -/
  | cvOpComplete (lti : BitVec 14)
  /-- MESH_SEND (R301). -/
  | meshSend (lti : BitVec 14) (x : Word) (sg : BitVec 8)
  /-- MESH_PUT (R303). -/
  | meshPut (lti : BitVec 14) (x : Word) (sg : BitVec 8)
  /-- MESH_MAILBOX_WRITE (R300). -/
  | meshMailboxWrite (lti : BitVec 14) (n : BitVec 3) (x : Word) (sg : BitVec 8)
  /-- MESSAGE_DELIVERY (R302). -/
  | messageDelivery (lti : BitVec 14)
  /-- REMOTE_OP_COMPLETION (R304). -/
  | remoteOpCompletion (lti : BitVec 14) (tag : BitVec 12) (status : BitVec 4)
  /-- REMOTE_OP_TIMEOUT (R304). -/
  | remoteOpTimeout (lti : BitVec 14) (tag : BitVec 12)
  /-- LSU_DMA (R278). -/
  | lsuDma (lti : BitVec 14) (x : Word) (sg : BitVec 8)
  /-- DMA_DESCRIPTOR_READ (R278). -/
  | dmaDescriptorRead (lti : BitVec 14)
  /-- DMA_ACCEPT (R279). -/
  | dmaAccept (region : BitVec 8) (ch : BitVec 2)
  /-- DMA_START (R282). -/
  | dmaStart (region : BitVec 8) (ch : BitVec 2)
  /-- DMA_UNIT_PERFORMED (R282). -/
  | dmaUnitPerformed (region : BitVec 8) (ch : BitVec 2)
  /-- DMA_TRANSFER_COMPLETE (R280). -/
  | dmaTransferComplete (region : BitVec 8) (ch : BitVec 2)
  /-- DMA_UNIT_FAIL (R283). -/
  | dmaUnitFail (region : BitVec 8) (ch : BitVec 2)
  /-- DMA_EXPIRY (R285). -/
  | dmaExpiry (region : BitVec 8) (ch : BitVec 2)
  /-- HOT_PAGE_LOG_APPEND (R291). -/
  | hotPageLogAppend (gi : BitVec 21)
  /-- RESIDUE_FAULT (R390). -/
  | residueFault (lti : BitVec 14) (unit : BitVec 4)
  /-- PARITY_FAULT_RETIRE (R393). -/
  | parityFaultRetire (lti : BitVec 14) (fault : ParityFault)
  /-- SPARE_REMAP (R62). -/
  | spareRemap (cluster : BitVec 10)
  /-- DEVICE_FAULT (R397). -/
  | deviceFault (kind : BitVec 8)
  /-- MEM_REQUEST_ACCEPT (R245). -/
  | memRequestAccept (reqs : List MemReq)
  /-- BURST_SLOT (R246). -/
  | burstSlot (chan : BitVec 10) (flips : List (BitVec 32))
  /-- PARTIAL_WRITE_MERGE (R249). -/
  | partialWriteMerge (chan : BitVec 10) (flips : List (BitVec 32))
  /-- LC_READ_AGE_LIMIT (R247). -/
  | lcReadAgeLimit (chan : BitVec 10)
  /-- WRITE_AGE_LIMIT (R246). -/
  | writeAgeLimit (chan : BitVec 10)
  /-- REFRESH (R250). -/
  | memRefresh (chan : BitVec 10) (bank : BitVec 6)
  /-- PATROL_SCRUB (R255). -/
  | patrolScrub (chan : BitVec 10) (line : Nat) (flips : List (BitVec 32))
  /-- MARGINING_COMMAND (R259). -/
  | marginingCommand (path : Path) (rec : Word)
  /-- MARGINING_COMPLETE (R259). -/
  | marginingComplete (margins : List (BitVec 8 × BitVec 8))
  /-- REPAIR_COMMAND (R260). -/
  | repairCommand (path : Path) (rec : Word)
  /-- CONTEXT_ROOT_RECORDS (R264). -/
  | contextRootRecords (path : Path) (recs : List Word)
  /-- OWNERSHIP_RECORDS (R274). -/
  | ownershipRecords (path : Path) (recs : List Word)
  /-- SHOOTDOWN_REQUEST (R275). -/
  | shootdownRequest (path : Path) (v : BitVec 8)
  /-- DIE_ROUTE_WRITE (R296). -/
  | dieRouteWrite (path : Path) (sub : BitVec 8) (v : BitVec 8)
  /-- TWILL_FLIT_RECEIVE (R307). -/
  | twillFlitReceive (link : BitVec 3) (hdr : BitVec 256) (payload : List Byte)
  /-- TWILL_PUT_RECEIVE (R303). -/
  | twillPutReceive (link : BitVec 3) (hdr : BitVec 256) (payload : List Byte)
  /-- TWILL_MESSAGE_RECEIVE (R310). -/
  | twillMessageReceive (link : BitVec 3) (hdr : BitVec 256) (payload : List Byte)
  /-- TICK_FLIT_RECEIVE (R311). -/
  | tickFlitReceive (link : BitVec 3) (hdr : BitVec 256) (at_ : Nat)
  /-- BEACON (R314). -/
  | beacon (link : BitVec 3) (ttl : BitVec 6) (beacon : BeaconMsg)
  /-- JOIN (R314). -/
  | joinFlit (id : BitVec 6) (period : BitVec 32)
  /-- STATUS (R315). -/
  | statusFlit (id : BitVec 6)
  /-- LEAVE (R315). -/
  | leaveFlit (id : BitVec 6)
  /-- CANDIDATE (R313). -/
  | candidate (link : BitVec 3) (ttl : BitVec 6) (prio : BitVec 8) (id : BitVec 6)
  /-- MANAGEMENT_FLIT (R360). -/
  | managementFlit (link : BitVec 3) (hdr : BitVec 256) (payload : List Byte)
  /-- DEPARTURE_DECLARED (R315). -/
  | departureDeclared (id : BitVec 6)
  /-- ACK_TIMEOUT_RESEND (R307). -/
  | ackTimeoutResend (link : BitVec 3)
  /-- DELAY_MEASUREMENT (R311). -/
  | delayMeasurement (link : BitVec 3) (ps : BitVec 32)
  /-- LANE_FAILURE (R309). -/
  | laneFailure (link : BitVec 3) (lane : BitVec 4)
  /-- RETRAIN_COMPLETE (R309). -/
  | retrainComplete (link : BitVec 3)
  /-- LINK_FAILED (R309). -/
  | linkFailed (link : BitVec 3)
  /-- LINK_RETRAIN_COMMAND (R309). -/
  | linkRetrainCommand (path : Path) (sub : BitVec 8) (v : BitVec 32)
  /-- PCIE_CONFIG_REQUEST (R318). -/
  | pcieConfigRequest (reg : PciReg) (write : Bool) (v : Word)
  /-- BAR2_READ (R326). -/
  | bar2Read (off : Word) (len : BitVec 13)
  /-- BAR2_WRITE (R326). -/
  | bar2Write (off : Word) (data : List Byte)
  /-- BAR4_READ (R327). -/
  | bar4Read (off : BitVec 26) (len : BitVec 13)
  /-- BAR4_WRITE (R327). -/
  | bar4Write (off : BitVec 26) (data : List Byte)
  /-- H_CXID_WRITE (R325). -/
  | hCxidWrite (v : Word)
  /-- H_IRQST_CLEAR (R333). -/
  | hIrqstClear (v : Word) (causes : Word)
  /-- HOST_REQUEST_COMPLETION (R330). -/
  | hostRequestCompletion (tag : BitVec 10) (status : BitVec 3) (poisoned : Bool) (data : List Byte)
  /-- HOST_COMPLETION_TIMEOUT (R331). -/
  | hostCompletionTimeout (tag : BitVec 10)
  /-- READ (R341). -/
  | dictRead (path : Path) (idx : BitVec 16) (sub : BitVec 8) (tag : BitVec 8)
  /-- WRITE (R341). -/
  | dictWrite (path : Path) (idx : BitVec 16) (sub : BitVec 8) (tag : BitVec 8) (data : List Byte)
  /-- DOMAIN_WRITE_OPEN (R348). -/
  | domainWriteOpen (path : Path) (idx : BitVec 16) (sub : BitVec 8) (tag : BitVec 8) (size : BitVec 32)
  /-- DOMAIN_WRITE_SEGMENT (R348). -/
  | domainWriteSegment (path : Path) (idx : BitVec 16) (sub : BitVec 8) (tag : BitVec 8) (t : Bool) (last : Bool) (data : List Byte)
  /-- DOMAIN_READ_SEGMENT (R349). -/
  | domainReadSegment (path : Path) (idx : BitVec 16) (sub : BitVec 8) (tag : BitVec 8) (t : Bool)
  /-- ABORT (R348). -/
  | dictAbort (path : Path) (idx : BitVec 16) (sub : BitVec 8) (tag : BitVec 8)
  /-- DOMAIN_TRANSFER_TIMEOUT (R348). -/
  | domainTransferTimeout (path : Path) (write : Bool)
  /-- FRAME_TABLE_BASE_WRITE (R45). -/
  | frameTableBaseWrite (path : Path) (v : Word)
  /-- RESET_ARM (R362). -/
  | resetArm (path : Path) (v : BitVec 8)
  /-- RESET_FIRE (R362). -/
  | resetFire (path : Path) (v : BitVec 8)
  /-- SELF_TEST_COMMAND (R400). -/
  | selfTestCommand (path : Path) (rec : Word)
  /-- SELF_TEST_COMPLETE (R401). -/
  | selfTestComplete (fails : List TestFail)
  /-- FIRMWARE_IMAGE_COMMIT (R423). -/
  | firmwareImageCommit (path : Path) (image : List Byte)
  /-- FIRMWARE_STORE_COMPLETE (R423). -/
  | firmwareStoreComplete (ok : Bool)
  /-- ATTESTATION_NONCE (R426). -/
  | attestationNonce (path : Path) (nonce : List Byte)
  /-- ATTESTATION_SELECTION (R426). -/
  | attestationSelection (path : Path) (pairs : List (BitVec 24))
  /-- SVN_RAISE (R422). -/
  | svnRaise (path : Path) (v : BitVec 8)
  /-- PERSISTENT_FAULT_CLEAR (R403). -/
  | persistentFaultClear (path : Path) (v : BitVec 8)
  /-- TRACE_RING_WRITE (R407). -/
  | traceRingWrite (path : Path) (sub : BitVec 8) (v : Word)
  /-- PMU_MICROSECOND (R373). -/
  | pmuMicrosecond (activity : Activity)
  /-- CALIBRATION_MILLISECOND (R370). -/
  | calibrationMillisecond (readings : List (Option Nat))
  /-- DROOP_TRIP (R379). -/
  | droopTrip (die : BitVec 3)
  /-- DROOP_CLEAR (R379). -/
  | droopClear (die : BitVec 3)
  /-- THERMAL_SAMPLE (R380). -/
  | thermalSample (sensor : BitVec 8) (reading : BitVec 16)
  /-- THERMAL_TRIP (R383). -/
  | thermalTrip (sensor : BitVec 8) (reading : BitVec 16)
  /-- RESET_ASSERT (R412). -/
  | resetAssert (source : BitVec 3)
  /-- RESET_RELEASE (R413). -/
  | resetRelease (source : BitVec 3) (bring : BringUp)
  /-- GRANULE_CLEARED (R415). -/
  | granuleCleared (granule : BitVec 20)
  /-- PGOOD_TIMEOUT (R447). -/
  | pgoodTimeout (group : BitVec 4)
  /-- PGOOD_FALL (R447). -/
  | pgoodFall (group : BitVec 4)
  /-- SAMPLE_PRELOAD (R428). -/
  | samplePreload (shift : List Bool)
  /-- LINK_UP (R308). -/
  | linkUp (link : BitVec 3) (ps : BitVec 32)
  /-- ACKNOWLEDGEMENT_DUE (R307). -/
  | acknowledgementDue (link : BitVec 3)
  /-- MANAGEMENT_REQUEST_TIMEOUT (R360). -/
  | managementRequestTimeout (path : Path) (idx : BitVec 16) (sub : BitVec 8) (tag : BitVec 8)
  /-- SERVICE_REQUEST (R223). -/
  | serviceRequest (lti : BitVec 14) (code : BitVec 8)
  /-- HOST_REGISTER_WRITE (R322); without data it is a host read of BAR0 (assumption 122). -/
  | hostRegisterWrite (off : BitVec 18) (size : BitVec 4) (data : Option Word)
  /-- FLASH_WRITE_COMPLETE (R418). -/
  | flashWriteComplete (ok : Bool)
  /-- BUS_OFF (R352). -/
  | busOff (st : BitVec 2)
  /-- TICK_TIMER_EXPIRY (R39). -/
  | tickTimerExpiry
  /-- SUBSTITUTE_TICK (R40). -/
  | substituteTick
  /-- HOLDOVER_TICK (R41). -/
  | holdoverTick
  /-- TICK_GAP (R44). -/
  | tickGap
  /-- FRAME_OUT_FALL (R442). -/
  | frameOutFall
  /-- SPREAD_PEAK_CHANGE (R431). -/
  | spreadPeakChange
  /-- REPAIR_COMPLETE (R261). -/
  | repairComplete
  /-- SYSTEM_TICK_RELEASE (R311). -/
  | systemTickRelease
  /-- LEAVE_SYSTEM (R41). -/
  | leaveSystem
  /-- BEACON_SILENCE (R313). -/
  | beaconSilence
  /-- ELECTION_TIMEOUT (R313). -/
  | electionTimeout
  /-- HOT_RESET (R319). -/
  | hotReset
  /-- MB_GO (R358). -/
  | mbGo
  /-- FRAME_TABLE_VALIDATION_DONE (R49). -/
  | frameTableValidationDone
  /-- RESET_ARM_EXPIRY (R362). -/
  | resetArmExpiry
  /-- ATTESTATION_SIGNED (R426). -/
  | attestationSigned
  /-- HEARTBEAT (R357). -/
  | heartbeat
  /-- EMERGENCY (R356). -/
  | emergency
  /-- MEMORY_SLOT_LIMIT_STEP (R375). -/
  | memorySlotLimitStep
  /-- THERMAL_CEILING_UPDATE (R381). -/
  | thermalCeilingUpdate
  /-- THROTTLE_N_FALL (R385). -/
  | throttleNFall
  /-- THROTTLE_N_RISE (R385). -/
  | throttleNRise
  /-- TAP_RESET (R428). -/
  | tapReset
  /-- BYPASS (R428). -/
  | tapBypass
  /-- IDCODE (R428). -/
  | tapIdcode
  /-- EXTEST (R428). -/
  | tapExtest
  /-- CLAMP (R428). -/
  | tapClamp
  /-- HIGHZ (R428). -/
  | tapHighz
  /-- FRAME_OUT_RISE (R442). -/
  | frameOutRise
  /-- TICK_FLIT_SEND (R311). -/
  | tickFlitSend
  /-- ERROR_LOG_APPEND (R403). -/
  | errorLogAppend
  /-- TIMESTAMP_WRAP (R361). -/
  | timestampWrap
  deriving DecidableEq, Repr

end Sys2Proof
end

