-- ==== Sys2Proof/Decode.lean ====
section
/-! DEFINITION. Decoding of the commands' table words. The opcode table of this block gives no row any bits: a command
is named by its row and its operands, never by a word, so no word spells a command. -/

namespace Sys2Proof

/-- The command that a word of the opcode table spells: none, since no row of the table gives bits. -/
def decodeTableWord (_nbits _w : Nat) : Option Instr := none

end Sys2Proof
end

