-- ==== Sys2Proof/Machine/Bits.lean ====
section
/-! DEFINITION. Bit fields, byte order and saturation helpers (00_scope.md: bit 0 is the least significant, bytes are
little-endian). -/

namespace Sys2Proof.Machine

open Sys2Proof

/-- Bits [hi:lo] of x as a number. -/
def bitsOf (x : Nat) (hi lo : Nat) : Nat := (x >>> lo) % 2 ^ (hi + 1 - lo)

/-- Bits [hi:lo] of a 64-bit value as a number. -/
def wBits (x : Word) (hi lo : Nat) : Nat := bitsOf x.toNat hi lo

/-- Bit i of a 64-bit value. -/
def wBit (x : Word) (i : Nat) : Bool := x.getLsbD i

/-- 1 or 0. -/
def b2n (b : Bool) : Nat := if b then 1 else 0

/-- A flag as a 64-bit value shifted to bit i. -/
def bAt (b : Bool) (i : Nat) : Word := BitVec.ofNat 64 (b2n b * 2 ^ i)

/-- A number as a word. -/
abbrev wOf (n : Nat) : Word := BitVec.ofNat 64 n

/-- n bytes of x, lowest first. -/
def leBytes : Nat → Nat → List Byte
  | 0, _ => []
  | n + 1, x => BitVec.ofNat 8 x :: leBytes n (x / 256)

/-- The number that bytes, lowest first, spell. -/
def leNat : List Byte → Nat
  | [] => 0
  | b :: bs => b.toNat + 256 * leNat bs

/-- A w-bit pattern as a signed integer. -/
def sInt (w : Nat) (x : Nat) : Int := if x % 2 ^ w < 2 ^ (w - 1) then (x % 2 ^ w : Nat) else (x % 2 ^ w : Nat) - (2 ^ w : Nat)

/-- The low w bits of an integer. -/
def uBits (w : Nat) (x : Int) : Nat := (x % (2 ^ w : Nat)).toNat

/-- Sign extension of the low w bits to 64. -/
def sext64 (w : Nat) (x : Nat) : Word := BitVec.ofInt 64 (sInt w x)

/-- Division rounded up. -/
def ceilDiv (a b : Nat) : Nat := (a + b - 1) / b

/-- x clamped to [lo, hi]. -/
def clampI (lo hi x : Int) : Int := if x < lo then lo else if hi < x then hi else x

/-- Adds n to a saturating counter of the given limit. -/
def satAdd (limit a n : Nat) : Nat := if limit < a + n then limit else a + n

/-- Adds 1 to a saturating 32-bit count (R351, R367). -/
def sat32 (a : BitVec 32) : BitVec 32 := BitVec.ofNat 32 (satAdd (2 ^ 32 - 1) a.toNat 1)

/-- Integer x shifted right by n with round half to even (R187, R217). -/
def shrRne (x : Int) (n : Nat) : Int :=
  let d : Int := (2 ^ n : Nat)
  let q := x / d
  let r := x % d
  if 2 * r > d then q + 1 else if 2 * r = d then q + q % 2 else q

/-- Replaces element i of a list. -/
def lSet {α : Type} : List α → Nat → α → List α
  | [], _, _ => []
  | _ :: l, 0, v => v :: l
  | a :: l, n + 1, v => a :: lSet l n v

/-- The list without its element i. -/
def lDel {α : Type} : List α → Nat → List α
  | [], _ => []
  | _ :: l, 0 => l
  | a :: l, n + 1 => a :: lDel l n

/-- Index of the first element that passes. -/
def lFind {α : Type} (p : α → Bool) : List α → Option Nat
  | [] => none
  | a :: l => if p a then some 0 else (lFind p l).map (· + 1)

/-- Cuts a list into pieces of n; `fuel` bounds the number of pieces. -/
def lChunks {α : Type} (n : Nat) : Nat → List α → List (List α)
  | 0, _ => []
  | f + 1, l => if l.isEmpty then [] else l.take n :: lChunks n f (l.drop n)

/-- Number of set bits below n. -/
def popCount (n x : Nat) : Nat := ((List.range n).filter fun i => x.testBit i).length

end Sys2Proof.Machine
end

