-- ==== Sys2Proof/Machine/Float.lean ====
section
/-! DEFINITION. Number formats (R192 to R199), exact values and the one rounding of R147, R196 and R198. A finite value
is (−1)^s × m × 2^e exactly. -/

namespace Sys2Proof.Machine

open Sys2Proof

/-- An unpacked value. `sig` on a NaN says it was signalling. -/
inductive FV where
  | nan (sig : Bool)
  | inf (s : Bool)
  | fin (s : Bool) (m : Nat) (e : Int)
  deriving DecidableEq, Repr

/-- A binary storage format: exponent and fraction widths, bias, and whether it is E4M3 (no infinities). -/
structure FFmt where
  ew : Nat
  fw : Nat
  bias : Nat
  e4m3 : Bool
  deriving DecidableEq, Repr

def fp64 : FFmt := ⟨11, 52, 1023, false⟩
def fp32 : FFmt := ⟨8, 23, 127, false⟩
def f19 : FFmt := ⟨8, 10, 127, false⟩
def bf16 : FFmt := ⟨8, 7, 127, false⟩
def fp16 : FFmt := ⟨5, 10, 15, false⟩
def e4m3 : FFmt := ⟨4, 3, 7, true⟩
def e5m2 : FFmt := ⟨5, 2, 15, false⟩
/-- M48: the FP32 exponent with 39 fraction bits (R197). -/
def m48 : FFmt := ⟨8, 39, 127, false⟩

/-- Bits of a format. -/
def fWidth (f : FFmt) : Nat := 1 + f.ew + f.fw

/-- R192, R193: the value of a bit pattern. -/
def fUnpack (f : FFmt) (x : Nat) : FV :=
  let fr := x % 2 ^ f.fw
  let ex := (x >>> f.fw) % 2 ^ f.ew
  let s := (x >>> (f.fw + f.ew)) % 2 = 1
  let top := 2 ^ f.ew - 1
  if f.e4m3 && decide (ex = top ∧ fr = 2 ^ f.fw - 1) then .nan false
  else if !f.e4m3 && decide (ex = top) then
    (if fr = 0 then .inf s else .nan (decide (fr < 2 ^ (f.fw - 1))))
  else if ex = 0 then .fin s fr (1 - (f.bias : Int) - f.fw)
  else .fin s (2 ^ f.fw + fr) ((ex : Int) - f.bias - f.fw)

/-- R193: the canonical NaN of a format. -/
def fNan (f : FFmt) : Nat :=
  if f.e4m3 then 0x7F else (2 ^ f.ew - 1) * 2 ^ f.fw + 2 ^ (f.fw - 1)

/-- The bit pattern of an infinity. -/
def fInf (f : FFmt) (s : Bool) : Nat := b2n s * 2 ^ (f.ew + f.fw) + (2 ^ f.ew - 1) * 2 ^ f.fw

/-- The bit pattern of the largest finite value. -/
def fMax (f : FFmt) (s : Bool) : Nat :=
  b2n s * 2 ^ (f.ew + f.fw) + (if f.e4m3 then 2 ^ (f.ew + f.fw) - 2 else (2 ^ f.ew - 1) * 2 ^ f.fw - 1)

/-- Rounding modes: R135's codes, and the stochastic one with its word u of 24 bits (R213). -/
inductive RMode where
  | rne | rtz | rup | rdn | sr (u : Nat)
  deriving DecidableEq, Repr

/-- The rounding code of R135. -/
def rmOf (n : Nat) : RMode := if n = 0 then .rne else if n = 1 then .rtz else if n = 2 then .rup else .rdn

/-- m × 2^−k to an integer under a mode, with whether it was inexact (R198, R213). -/
def roundNat (rm : RMode) (s : Bool) (m : Nat) (k : Nat) : Nat × Bool :=
  let q := m >>> k
  let r := m % 2 ^ k
  let half := 2 ^ k
  let up :=
    match rm with
    | .rne => decide (2 * r > half) || (decide (2 * r = half) && decide (q % 2 = 1))
    | .rtz => false
    | .rup => !s && decide (r ≠ 0)
    | .rdn => s && decide (r ≠ 0)
    | .sr u => decide (2 ^ 24 ≤ (r * 2 ^ 24) / 2 ^ k + u)
  (if up then q + 1 else q, decide (r ≠ 0))

/-- m × 2^e on the grid of step 2^g: the multiple, and whether it was inexact. -/
def roundGrid (rm : RMode) (s : Bool) (m : Nat) (e g : Int) : Nat × Bool :=
  if g ≤ e then (m * 2 ^ (e - g).toNat, false) else roundNat rm s m (g - e).toNat

/-- What a rounding raised: overflow, tiny and inexact, inexact. -/
structure FFlags where
  of : Bool
  uf : Bool
  nx : Bool
  deriving DecidableEq, Repr

def noFlags : FFlags := ⟨false, false, false⟩

/-- floor(log2 m) of a non-zero number. -/
def lg (m : Nat) : Nat := Nat.log2 m

/-- R147, R198: rounds a non-zero finite value once. `fp8` saturates at the largest finite value. Tininess is detected
after rounding: the value rounded with an unbounded exponent lies below the smallest normal. -/
def fRound (f : FFmt) (rm : RMode) (s : Bool) (m : Nat) (e : Int) : Nat × FFlags :=
  let sgn := b2n s * 2 ^ (f.ew + f.fw)
  if m = 0 then (sgn, noFlags) else
  let emin : Int := 1 - (f.bias : Int)
  let ex : Int := (lg m : Int) + e
  let g : Int := (if ex < emin then emin else ex) - f.fw
  let (q, nx) := roundGrid rm s m e g
  let (qu, _) := roundGrid rm s m e (ex - f.fw)
  let tiny := decide ((lg qu : Int) + (ex - f.fw) < emin)
  -- q × 2^g; q may have carried into the next binade
  let (q, g) := if q = 2 ^ (f.fw + 1) then (2 ^ f.fw, g + 1) else (q, g)
  let code : Nat := if q < 2 ^ f.fw then q else (g + f.fw - emin + 1).toNat * 2 ^ f.fw + (q - 2 ^ f.fw)
  let maxCode := fMax f false
  if decide (code ≤ maxCode) then (sgn + code, ⟨false, tiny && nx, nx⟩)
  else
    let toMax := f.e4m3 || decide (f = e5m2) ||
      (match rm with | .rtz => true | .rup => s | .rdn => !s | _ => false)
    (if toMax then fMax f s else fInf f s, ⟨true, false, true⟩)

/-- The largest magnitude of the format as a pair m, e. -/
def fMaxVal (f : FFmt) : Nat × Int :=
  match fUnpack f (fMax f false) with
  | .fin _ m e => (m, e)
  | _ => (0, 0)

/-- Packs any value into a format; an overflow of a finite value follows R198. -/
def fPack (f : FFmt) (rm : RMode) (v : FV) : Nat × FFlags :=
  match v with
  | .nan _ => (fNan f, noFlags)
  | .inf s => (if f.e4m3 then fNan f else fInf f s, noFlags)
  | .fin s m e => fRound f rm s m e

/-- Sign of a value. -/
def fvNeg : FV → Bool
  | .nan _ => false
  | .inf s => s
  | .fin s _ _ => s

def fvIsSnan : FV → Bool
  | .nan b => b
  | _ => false

def fvIsNan : FV → Bool
  | .nan _ => true
  | _ => false

/-- −v. -/
def fvOpp : FV → FV
  | .nan b => .nan b
  | .inf s => .inf (!s)
  | .fin s m e => .fin (!s) m e

/-- A finite value as a signed integer multiple of 2^g, g at most its exponent. -/
def fvScaled (s : Bool) (m : Nat) (e g : Int) : Int :=
  let a : Int := (m * 2 ^ (e - g).toNat : Nat)
  if s then -a else a

/-- The exact sum under IEEE 754 rules, and whether the operation is invalid. A zero sum is +0, or −0 when rounding
toward −∞; a sum of two zeros of one sign keeps it. -/
def fvAdd (rm : RMode) (a b : FV) : FV × Bool :=
  match a, b with
  | .nan x, .nan y => (.nan false, x || y)
  | .nan x, _ => (.nan false, x)
  | _, .nan y => (.nan false, y)
  | .inf s, .inf t => if s = t then (.inf s, false) else (.nan false, true)
  | .inf s, .fin _ _ _ => (.inf s, false)
  | .fin _ _ _, .inf t => (.inf t, false)
  | .fin s m e, .fin t n h =>
    let g := if e ≤ h then e else h
    let z := fvScaled s m e g + fvScaled t n h g
    if z = 0 then
      (if m = 0 && n = 0 && s == t then (.fin s 0 g, false) else (.fin (rm == .rdn) 0 g, false))
    else (.fin (decide (z < 0)) z.natAbs g, false)

/-- The exact product, and whether it is invalid. -/
def fvMul (a b : FV) : FV × Bool :=
  match a, b with
  | .nan x, .nan y => (.nan false, x || y)
  | .nan x, _ => (.nan false, x)
  | _, .nan y => (.nan false, y)
  | .inf s, .inf t => (.inf (s != t), false)
  | .inf s, .fin t n _ => if n = 0 then (.nan false, true) else (.inf (s != t), false)
  | .fin s m _, .inf t => if m = 0 then (.nan false, true) else (.inf (s != t), false)
  | .fin s m e, .fin t n h => (.fin (s != t) (m * n) (e + h), false)

/-- Multiplies by 2^k exactly. -/
def fvShift (a : FV) (k : Int) : FV :=
  match a with
  | .fin s m e => .fin s m (e + k)
  | v => v

/-- Order of two values that are not NaN: a < b. −0 equals +0. -/
def fvLt (a b : FV) : Bool :=
  match a, b with
  | .nan _, _ => false
  | _, .nan _ => false
  | .inf s, .inf t => s && !t
  | .inf s, .fin _ _ _ => s
  | .fin _ _ _, .inf t => !t
  | .fin s m e, .fin t n h =>
    let g := if e ≤ h then e else h
    decide (fvScaled s m e g < fvScaled t n h g)

/-- Equality of values, −0 equal to +0, a NaN equal to nothing. -/
def fvEq (a b : FV) : Bool := !fvIsNan a && !fvIsNan b && !fvLt a b && !fvLt b a

/-- |a| ≥ |b| for values that are not NaN. -/
def fvAbs : FV → FV
  | .inf _ => .inf false
  | .fin _ m e => .fin false m e
  | v => v

/-- The exact value of an integer. -/
def fvOfInt (x : Int) : FV := .fin (decide (x < 0)) x.natAbs 0

/-- R147 min and max: the non-NaN operand when one is a NaN, −0 below +0; invalid only for a signalling NaN. -/
def fvMin (a b : FV) : FV × Bool :=
  let nv := fvIsSnan a || fvIsSnan b
  (if fvIsNan a then (if fvIsNan b then .nan false else b)
   else if fvIsNan b then a
   else if fvLt a b then a else if fvLt b a then b else if fvNeg a then a else b, nv)

def fvMax (a b : FV) : FV × Bool :=
  let nv := fvIsSnan a || fvIsSnan b
  (if fvIsNan a then (if fvIsNan b then .nan false else b)
   else if fvIsNan b then a
   else if fvLt b a then a else if fvLt a b then b else if fvNeg a then b else a, nv)

/-- Rounds a value to an integer; none for NaN or infinity. -/
def fvToInt (rm : RMode) (v : FV) : Option (Int × Bool) :=
  match v with
  | .fin s m e =>
    let (q, nx) := roundGrid rm s m e 0
    some (if s then -(q : Int) else q, nx)
  | _ => none

/-- Accumulator formats (R195, R196): significand width and exponent width, leading bit explicit. -/
structure AccFmt where
  sw : Nat
  ew : Nat
  bias : Nat
  deriving DecidableEq, Repr

def a48 : AccFmt := ⟨37, 10, 511⟩
def a96 : AccFmt := ⟨82, 13, 4095⟩

/-- R195: the canonical NaN. -/
def accNan (f : AccFmt) : Nat := (2 ^ f.ew - 1) * 2 ^ f.sw + 2 ^ (f.sw - 1)

/-- R195: the value of an accumulator encoding; any other encoding counts as the canonical NaN. -/
def accUnpack (f : AccFmt) (x : Nat) : FV :=
  let sig := x % 2 ^ f.sw
  let ex := (x >>> f.sw) % 2 ^ f.ew
  let s := (x >>> (f.sw + f.ew)) % 2 = 1
  let top := 2 ^ f.ew - 1
  if ex = 0 then (if sig = 0 then .fin s 0 0 else .nan false)
  else if ex = top then (if sig = 0 then .inf s else .nan false)
  else if sig < 2 ^ (f.sw - 1) then .nan false
  else .fin s sig ((ex : Int) - f.bias - (f.sw - 1))

/-- R195, R196: rounds to the explicit significand, nearest even; below the smallest normal a zero of the same sign;
beyond the largest exponent an infinity (R189). -/
def accPack (f : AccFmt) (v : FV) : Nat :=
  match v with
  | .nan _ => accNan f
  | .inf s => b2n s * 2 ^ (f.sw + f.ew) + (2 ^ f.ew - 1) * 2 ^ f.sw
  | .fin s m e =>
    let sg := b2n s * 2 ^ (f.sw + f.ew)
    if m = 0 then sg else
    let ex : Int := (lg m : Int) + e
    let (q, _) := roundGrid .rne s m e (ex - (f.sw - 1))
    let (q, ex) := if q = 2 ^ f.sw then (2 ^ (f.sw - 1), ex + 1) else (q, ex)
    let code : Int := ex + f.bias
    if code < 1 then sg
    else if (2 ^ f.ew - 1 : Nat) ≤ code then sg + (2 ^ f.ew - 1) * 2 ^ f.sw
    else sg + code.toNat * 2 ^ f.sw + q

/-- R195: what a restore loads for an encoding: itself when canonical, else the canonical NaN. -/
def accCanon (f : AccFmt) (x : Nat) : Nat :=
  let y := x % 2 ^ (1 + f.sw + f.ew)
  match accUnpack f y with
  | .nan _ => accNan f
  | _ => y

/-- The largest r with r² ≤ n, by bits from 2^k down. -/
def isqrtFrom : Nat → Nat → Nat → Nat
  | 0, n, r => if (r + 1) * (r + 1) ≤ n then r + 1 else r
  | k + 1, n, r =>
    let t := r + 2 ^ (k + 1)
    isqrtFrom k n (if t * t ≤ n then t else r)

/-- Integer square root. -/
def isqrt (n : Nat) : Nat := isqrtFrom (lg n / 2 + 1) n 0

/-- R149: the exact 1 / A rounded toward zero to 12 significant bits, with whether it is inexact. -/
def rcp12 (m : Nat) (e : Int) : Nat × Int × Bool :=
  -- 1 / (m 2^e) = (2^k / m) 2^(−k−e)
  let k := lg m + 13
  let q := 2 ^ k / m
  let sh := lg q - 11
  (q >>> sh, (sh : Int) - k - e, decide (m * ((q >>> sh) <<< sh) ≠ 2 ^ k))

/-- R149: 1 / √A rounded toward zero to 12 significant bits. -/
def rsq12 (m : Nat) (e : Int) : Nat × Int × Bool :=
  -- make the exponent even: A = m 2^e; 1/√A = √(2^(2k) / m) 2^(−k − e/2)
  let (m, e) := if e % 2 = 0 then (m, e) else (2 * m, e - 1)
  let k := lg m + 30
  let q := isqrt (2 ^ (2 * k) / m)
  let sh := lg q - 11
  let r := (q >>> sh) <<< sh
  (q >>> sh, (sh : Int) - k - e / 2, decide (r * r * m ≠ 2 ^ (2 * k)))

end Sys2Proof.Machine
end

