-- ==== Sys2Proof/Machine/Elementary.lean ====
section
/-! DEFINITION. The functions of Calico's vector routines (R92), in fixed point with 400 fraction bits, and the results that their
stated accuracy allows. -/

namespace Sys2Proof.Machine

open Sys2Proof

/-- ln 2 in units of 2^−400. -/
def ln2Fix : Int :=
  0xb17217f7d1cf79abc9e3b39803f2f6af40f343267298b62d8a0d175b8baafa2be7b876206debac98559552fb4afa1b10ed2e

/-- π / 2 in units of 2^−400. -/
def halfPiFix : Int :=
  0x1921fb54442d18469898cc51701b839a252049c1114cf98e804177d4c76273644a29410f31c6809bbdf2a33679a7486366056

/-- The product of two numbers in units of 2^−400. -/
def fixMul (a b : Int) : Int := a * b / (2 ^ 400 : Nat)

/-- (−1)^s × m × 2^e in units of 2^−400. -/
def fixOf (s : Bool) (m : Nat) (e : Int) : Int :=
  let k := e + 400
  let a : Int := if 0 ≤ k then ((m * 2 ^ k.toNat : Nat) : Int) else ((m >>> (-k).toNat : Nat) : Int)
  if s then -a else a

/-- The exponential series of r from the term t of index n on. -/
def expSeries (r : Int) : Nat → Nat → Int → Int
  | 0, _, _ => 0
  | k + 1, n, t => t + expSeries r k (n + 1) (fixMul t r / (n + 1))

/-- The series of sine (from t = r, n = 1) and cosine (from t = 1, n = 0); r2 is r². -/
def trigSeries (r2 : Int) : Nat → Nat → Int → Int
  | 0, _, _ => 0
  | k + 1, n, t => t + trigSeries r2 k (n + 2) (-(fixMul t r2) / ((n + 1) * (n + 2)))

/-- The series of the inverse hyperbolic tangent from the power t = z^n on; z2 is z². -/
def atanhSeries (z2 : Int) : Nat → Nat → Int → Int
  | 0, _, _ => 0
  | k + 1, n, t => t / n + atanhSeries z2 k (n + 2) (fixMul t z2)

/-- A real number, close to (−1)^neg × m × 2^e. -/
structure Near where
  neg : Bool
  m : Nat
  e : Int
  deriving DecidableEq, Repr

/-- A number in units of 2^−400. -/
def nearFix (a : Int) : Near := ⟨decide (a < 0), a.natAbs, -400⟩

/-- e^a of a number in units of 2^−400, as a multiple of 2^−400 and a power of 2. -/
def expFix (a : Int) : Nat × Int :=
  let k := a / ln2Fix
  ((expSeries (a - k * ln2Fix) 90 0 (2 ^ 400 : Nat)).toNat, clampI (-4000) 4000 k)

def nearExp (s : Bool) (m : Nat) (e : Int) : Near :=
  let r := expFix (fixOf s m e)
  ⟨false, r.1, r.2 - 400⟩

/-- The natural logarithm of m × 2^e, m > 0. -/
def nearLog (m : Nat) (e : Int) : Near :=
  let one : Int := (2 ^ 400 : Nat)
  let y : Int := (m * 2 ^ (400 - lg m) : Nat)
  let z := (y - one) * one / (y + one)
  nearFix (((lg m : Int) + e) * ln2Fix + 2 * atanhSeries (fixMul z z) 140 1 z)

/-- Sine or cosine, the angle reduced by multiples of π / 2. -/
def nearTrig (cosine s : Bool) (m : Nat) (e : Int) : Near :=
  let a := fixOf s m e
  let q := a / halfPiFix
  let r := a - q * halfPiFix
  let r2 := fixMul r r
  let sn := trigSeries r2 60 1 r
  let cs := trigSeries r2 60 0 (2 ^ 400 : Nat)
  match (q % 4).toNat, cosine with
  | 0, false => nearFix sn
  | 0, true => nearFix cs
  | 1, false => nearFix cs
  | 1, true => nearFix (-sn)
  | 2, false => nearFix (-sn)
  | 2, true => nearFix (-cs)
  | _, false => nearFix (-cs)
  | _, true => nearFix sn

/-- 1 / (m × 2^e), m > 0. -/
def nearRecip (s : Bool) (m : Nat) (e : Int) : Near :=
  let k := lg m + 130
  ⟨s, 2 ^ k / m, -k - e⟩

/-- 1 / √(m × 2^e), m > 0. -/
def nearRsqrt (m : Nat) (e : Int) : Near :=
  let (m, e) := if e % 2 = 0 then (m, e) else (2 * m, e - 1)
  let k := lg m + 130
  ⟨false, isqrt (2 ^ (2 * k) / m), -k - e / 2⟩

/-- e^(x_j) divided by the sum of e^(x_i), of numbers in units of 2^−400. -/
def nearSoftmax (xs : List Int) (j : Nat) : Near :=
  let top := xs.foldl (fun a x => if a < x then x else a) (xs.getD 0 0)
  let ex := fun (x : Int) =>
    let r := expFix (x - top)
    r.1 >>> (-r.2).toNat
  let sum := xs.foldl (fun a x => a + ex x) 0
  ⟨false, ex (xs.getD j 0) * 2 ^ 400 / sum, -400⟩

/-- R92: the element that routine r gives for element j of its inputs; `second` is the cosine of `sincos32`. None where the function
has no finite value there: the manual states no result. -/
def calicoReal (r : BitVec 8) (xs : List FV) (second : Bool) (j : Nat) : Option Near :=
  if r = 0x20 then
    if xs.all fun x => match x with | .fin _ _ _ => true | _ => false then
      some (nearSoftmax (xs.map fun x => match x with | .fin s m e => fixOf s m e | _ => 0) j)
    else none
  else match xs.getD j (.nan false) with
    | .fin s m e =>
      if r = 0x10 then some (nearExp s m e)
      else if r = 0x12 then some (nearTrig second s m e)
      else if m = 0 then none
      else if r = 0x14 then some (nearRecip s m e)
      else if s then none
      else if r = 0x11 then some (nearLog m e)
      else some (nearRsqrt m e)
    | _ => none

/-- R92: an encoding within k units in the last place of a real number; `pick` says which. None beyond the largest finite value. -/
def withinUlp (f : FFmt) (k pick : Nat) (x : Near) : Option Nat :=
  let (c, fl) := fRound f .rtz false x.m x.e
  if fl.of then none
  else
    let (lo, n) : Int × Nat := if fl.nx then ((c : Int) - k + 1, 2 * k) else ((c : Int) - k, 2 * k + 1)
    let y := lo + (pick % n : Nat)
    let neg := if y = 0 then decide (pick / n % 2 = 1) else x.neg != decide (y < 0)
    some (b2n neg * 2 ^ (f.ew + f.fw) + y.natAbs)

/-- R92: the accuracy of a routine in units in the last place. -/
def calicoUlp (r : BitVec 8) : Nat := if r = 0x20 then 2 else 1

end Sys2Proof.Machine
end

