-- ==== Sys2Proof/Config.lean ====
section
/-! DEFINITION. What the spec leaves to the silicon, the firmware or a published standard: constants without a body,
so that no proof can rest on a number the model's author picked. -/

namespace Sys2Proof.Config

/-- FREE VALUE number n of a run (assumption 7): a value the manual leaves open after which the machine goes on. -/
opaque freeValue : Nat → BitVec 64

/-- Byte n of the Calico ROM of a cluster (R34): the contents are the vendor's (assumption 9). -/
opaque calicoRom : Nat → BitVec 8

/-- ROM offset, in words, of the first word of Calico routine r (R90; assumption 9). -/
opaque calicoEntry : BitVec 8 → BitVec 12

/-- Result byte j that Calico routine r gives for an element, on the bytes it depends on, where its function has no finite value: the manual
states no result there, and fixes it for identical inputs (R92, R13; assumption 9). -/
opaque calicoByte : BitVec 8 → List (BitVec 8) → Nat → BitVec 8

/-- Which of the encodings within the accuracy of R92 result k (1 the cosine) of Calico routine r is, on the bytes that it depends on
(assumption 9). -/
opaque calicoPick : BitVec 8 → List (BitVec 8) → Nat → Nat

/-- Element e of a bank that was replayed over changed operands (R190: undefined), from the operand bytes as they were and as they are
(assumption 13). -/
opaque replayed : List (BitVec 8) → List (BitVec 8) → Nat → BitVec 96

/-- Byte n of hub space as a Serge-world read finds it (R32, contents not given; assumption 11). -/
opaque hubSpace : Nat → BitVec 8

/-- Value of an unpublished object (R339: 0xE000 to 0xFFFF, Serge world only; assumption 11). -/
opaque vendorObject : BitVec 16 → BitVec 8 → BitVec 64

/-- Fused values and those of the running image (R361, R364, R425; assumption 8). -/
opaque serialNumber : BitVec 64
opaque bootRomVersion : BitVec 32
opaque certificate : List (BitVec 8)
opaque identityKey : BitVec 256
opaque vendorKeyHash : BitVec 2 → List (BitVec 8)

/-- Core setpoint of a die in mV, fused at manufacture (R444; assumption 8). -/
opaque coreSetpoint : Nat → BitVec 16

/-- Coefficients of the power estimate, carried in the firmware image, in units of 2^−32 W for one count (R368; assumption 14): of a matrix
cell-cycle of a class, a vector group of a format, and of the other counters in their order. -/
opaque cellWeight : Nat → Nat
opaque groupWeight : Nat → Nat
opaque otherWeight : Nat → Nat

/-- Leakage power of die d, 8 the rest of the package, in units of 2^−32 W, looked up from the latest sensor readings and the rail
setpoints in mV (R368; assumption 14). -/
opaque leakage : Nat → List (BitVec 16) → List Nat → Nat

/-- Serial number of a stack (R257; assumption 8). -/
opaque stackSerial : Nat → BitVec 64

/-- SHA-256 (R419, R420, R427), as published (assumption 15). -/
opaque sha256 : List (BitVec 8) → List (BitVec 8)

/-- SLH-DSA-SHA2-128s verification of FIPS 205 (R420): public key, message, signature (assumption 15). -/
opaque slhVerify : List (BitVec 8) → List (BitVec 8) → List (BitVec 8) → Bool

/-- SLH-DSA-SHA2-128s signature of the identity key (R425, R427; assumption 15). -/
opaque slhSign : List (BitVec 8) → List (BitVec 8)

/-- The cell of a land in the boundary register (R428): the register's layout is not in the manual (assumption 7). -/
opaque landCell : Nat → Nat

/-- Header digest of the running image (R427; assumption 8). -/
opaque imageHeaderDigest : List (BitVec 8)

end Sys2Proof.Config
end

