-- ==== Sys2Proof/Machine/Ecc.lean ====
section
/-! DEFINITION. The error-correcting code of stacked memory (R252, R253). -/

namespace Sys2Proof.Machine

open Sys2Proof

/-- R252: α times an element of GF(2^32). -/
def timesAlpha (x : BitVec 32) : BitVec 32 := (x <<< 1) ^^^ (if x.msb then 0x400007#32 else 0#32)

/-- R252: α^j times an element. -/
def timesAlphaPow : Nat → BitVec 32 → BitVec 32
  | 0, x => x
  | j + 1, x => timesAlpha (timesAlphaPow j x)

/-- R252: S0 of the error in the 18 symbols of a line. -/
def synS0 (e : List (BitVec 32)) : BitVec 32 := (e.take 18).foldl (fun a x => a ^^^ x) 0

/-- R252: S1 of the error. -/
def synS1 (e : List (BitVec 32)) : BitVec 32 :=
  (List.range 18).foldl (fun a j => a ^^^ timesAlphaPow j (e.getD j 0)) 0

/-- R253: what a read makes of a line. -/
inductive Ecc where | clean | corrected (j : Nat) | uncorrectable
  deriving DecidableEq, Repr

/-- R253: the controller acts on the syndromes S0 and S1. -/
def eccOfSyn (a b : BitVec 32) : Ecc :=
  if a = 0 ∧ b = 0 then .clean
  else if a = 0 ∨ b = 0 then .uncorrectable
  else match (List.range 18).find? fun j => timesAlphaPow j a == b with
    | some j => .corrected j
    | none => .uncorrectable

/-- R253: what a read makes of a line whose 18 symbols hold an error. A line is stored with syndromes of zero (`checkSymbols`), so
those of a read are those of its error. -/
def eccOf (e : List (BitVec 32)) : Ecc := if e.isEmpty then .clean else eccOfSyn (synS0 e) (synS1 e)

/-- R252: symbol j of a line: bit b is bit 16 b + j of the line. -/
def dataSymbol (line : List Byte) (j : Nat) : BitVec 32 :=
  (List.range 32).foldl (fun a b => a ||| (BitVec.ofNat 32 (b2n ((leNat line).testBit (16 * b + j))) <<< b)) 0

/-- Product of two elements of GF(2^32), the second taken bit by bit from bit n − 1 down. -/
def gfMul (x y : BitVec 32) : Nat → BitVec 32
  | 0 => 0
  | n + 1 => (gfMul x y n) ^^^ (if y.getLsbD n then timesAlphaPow n x else 0#32)

/-- The inverse of α^16 + α^17 in GF(2^32). -/
def checkInverse : BitVec 32 := 0x6DAD9241#32

/-- R252: the check symbols x_16 and x_17 of a line: with A and B the sums S0 and S1 over the data symbols, x_16 + x_17 = A and
α^16 x_16 + α^17 x_17 = B. -/
def checkSymbols (line : List Byte) : BitVec 32 × BitVec 32 :=
  let d := (List.range 16).map (dataSymbol line)
  let a := synS0 d
  let x17 := gfMul (synS1 d ^^^ timesAlphaPow 16 a) checkInverse 32
  (a ^^^ x17, x17)

/-- R252: the 18 symbols that a line is stored as. -/
def storedSymbols (line : List Byte) : List (BitVec 32) :=
  (List.range 16).map (dataSymbol line) ++ [(checkSymbols line).1, (checkSymbols line).2]

/-- Two errors of a line together. -/
def addErrors (e f : List (BitVec 32)) : List (BitVec 32) :=
  let x := (List.range 18).map fun j => e.getD j 0 ^^^ f.getD j 0
  if x.all fun v => v == 0 then [] else x

/-- R252, R253: bits of the 64 B line that are still wrong after the correction. -/
def residue (e : List (BitVec 32)) : Nat :=
  let fixed : Nat → BitVec 32 := fun j => e.getD j 0 ^^^ (if eccOf e = .corrected j then synS0 e else 0#32)
  (List.range 512).foldl (fun a n => a + b2n ((fixed (n % 16)).getLsbD (n / 16)) * 2 ^ n) 0

/-- A line as the controller delivers it. -/
def delivered (line : List Byte) (e : List (BitVec 32)) : List Byte := leBytes 64 (Nat.xor (leNat line) (residue e))

end Sys2Proof.Machine
end

