-- ==== Sys2Proof/Machine/Maps.lean ====
section
/-! DEFINITION. Operations of the sparse maps that hold memory, register files and per-unit state. `d` is what an
unlisted key reads as. -/

namespace Sys2Proof.Machine

open Sys2Proof

/-- The value at key k; the keys rise, so a key beyond k ends the search. -/
def smGet {α : Type} (d : α) : SMap α → Nat → α
  | [], _ => d
  | (i, v) :: m, k => if i = k then v else if k < i then d else smGet d m k

/-- Writes v at key k; the default value is held by no entry. -/
def smSet {α : Type} [DecidableEq α] (d : α) : SMap α → Nat → α → SMap α
  | [], k, v => if v = d then [] else [(k, v)]
  | (i, w) :: m, k, v =>
    if k < i then (if v = d then (i, w) :: m else (k, v) :: (i, w) :: m)
    else if k = i then (if v = d then m.filter fun e => decide (k < e.1) else (k, v) :: m)
    else (i, w) :: smSet d m k v

/-- The keys from `lo` up rise strictly and no entry holds the default. -/
def smWfFrom {α : Type} [DecidableEq α] (d : α) : Nat → SMap α → Bool
  | _, [] => true
  | lo, (i, v) :: m => decide (lo ≤ i) && decide (v ≠ d) && smWfFrom d (i + 1) m

/-- The canonical form of a sparse map. -/
abbrev smWf {α : Type} [DecidableEq α] (d : α) (m : SMap α) : Bool := smWfFrom d 0 m

/-- n values from key k. -/
def smRead {α : Type} (d : α) (m : SMap α) (k n : Nat) : List α := (List.range n).map fun i => smGet d m (k + i)

/-- Writes a run of values from key k. -/
def smWrite {α : Type} [DecidableEq α] (d : α) : SMap α → Nat → List α → SMap α
  | m, _, [] => m
  | m, k, v :: vs => smWrite d (smSet d m k v) (k + 1) vs

/-- Writes v at every key of [k, k + n). -/
def smFill {α : Type} [DecidableEq α] (d : α) (m : SMap α) (k n : Nat) (v : α) : SMap α :=
  (List.range n).foldl (fun m i => smSet d m (k + i) v) m

/-- Drops every entry whose key lies in [k, k + n). -/
def smDrop {α : Type} (m : SMap α) (k n : Nat) : SMap α := m.filter fun e => decide (e.1 < k ∨ k + n ≤ e.1)

/-- Changes every listed value. -/
def smMap {α : Type} [DecidableEq α] (d : α) (f : α → α) (m : SMap α) : SMap α :=
  (m.map fun e => (e.1, f e.2)).filter fun e => decide (e.2 ≠ d)

/-- Sum of a map's values. -/
def smSum (m : SMap Nat) : Nat := m.foldl (fun a e => a + e.2) 0

end Sys2Proof.Machine
end

