-- ==== Sys2Proof/Machine/State.lean ====
section
/-! DEFINITION. The state of the block: every piece of state the spec gives the part, as plain data, and its value
right after a full reset. INVENTORY.md lists each field with its rule. -/

namespace Sys2Proof.Machine

open Sys2Proof

/-- How a command can stop the model. -/
inductive Fault where
  /-- Raised by every meaning whose operand names a unit the part does not have (R11, R12: a logical index at or past
  10,240, a cluster at or past 640, a region at or past 160, a land group past 8). Safe: no such unit exists. -/
  | noSuchUnit
  deriving DecidableEq, Repr

/-- Why a command has no meaning. -/
inductive Refusal where
  /-- Raised by the dispatch for a row that has no meaning yet. Safe. -/
  | notModelled (mnemonic : String)
  deriving DecidableEq, Repr

/-- R219: the two worlds. -/
inductive World where | muslin | serge
  deriving DecidableEq, Repr

/-- R220: the three register banks of a tile. -/
inductive BankId where | primary | muslin | serge
  deriving DecidableEq, Repr

/-- What a tile does in the frame (R51 to R53, R235). -/
inductive Run where | idle | running | draining | ended | halted
  deriving DecidableEq, Repr

/-- A translation held by a TLB (R266, R269): level 0, 1 or 2 gives the page size. -/
structure TlbEntry where
  cxid : BitVec 12
  vpage : Nat
  level : Nat
  pbase : Nat
  w : Bool
  x : Bool
  u : Bool
  lc : Bool
  nc : Bool
  deriving DecidableEq, Repr

/-- R88, R109: an open loop level; addresses of its first and last word, iterations left, whether its first iteration
runs. -/
structure LoopLevel where
  start : Nat
  last : Nat
  count : BitVec 32
  first : Bool
  deriving DecidableEq, Repr

/-- A MUL product in flight (R82): value, cycles left, number of the word that triggered it. -/
structure Product where
  val : BitVec 128
  rem : Nat
  wid : Nat
  deriving DecidableEq, Repr

/-- A division in progress or abandoned, with its dividend (R73, R83, R84). -/
structure Division where
  signed : Bool
  n : Word
  wid : Nat
  deriving DecidableEq, Repr

/-- R220: one register bank. A result in flight carries its remaining cycles (R75, R233). `waited` is the address of a word whose
wait was satisfied before the word took the emulation trap: it stays satisfied (R100). -/
structure Bank where
  g : SMap Word
  flags : BitVec 4
  flagsNext : Option (BitVec 4)
  al0o : Word
  al0r : Word
  al1o : Word
  al1r : Word
  al0p : Option (Word × Nat)
  al1p : Option (Word × Nat)
  mulo : Word
  mullo : Word
  mulhi : Word
  mulp : List Product
  divo : Word
  divd : Word
  divq : Word
  divrem : Word
  divDz : Bool
  divRst : Bool
  div : Option Division
  divLast : Option Division
  lsuo : Word
  lsud : Word
  lsusz : BitVec 3
  r0 : Word
  r1 : Word
  r2 : Word
  r3 : Word
  link : Word
  cbo : Word
  cbtgt : Word
  loopEnd : Word
  loops : List LoopLevel
  limm : BitVec 52
  inlib : Bool
  libRet : Nat
  libNo : BitVec 8
  waited : Option Nat
  deriving DecidableEq, Repr

/-- R15, R85, R220: a bank at a tick. -/
def Bank.zero : Bank :=
  { g := [], flags := 0, flagsNext := none, al0o := 0, al0r := 0, al1o := 0, al1r := 0, al0p := none, al1p := none,
    mulo := 0, mullo := 0, mulhi := 0, mulp := [], divo := 0, divd := 0, divq := 0, divrem := 0, divDz := false,
    divRst := false, div := none, divLast := none, lsuo := 0, lsud := 0, lsusz := 3, r0 := 0, r1 := 0, r2 := 0,
    r3 := 0, link := 0, cbo := 0, cbtgt := 0, loopEnd := 0, loops := [], limm := 0, inlib := false, libRet := 0, libNo := 0,
    waited := none }

/-- R227: the record of a handler. -/
structure XRec where
  pc : Word
  st : Word
  cs : Word
  fa : Word
  deriving DecidableEq, Repr

/-- Exception state of a tile (R221, R227 to R232). -/
structure Exc where
  recM : XRec
  recS : XRec
  msh : Bool
  ssh : Bool
  fatal : Bool
  mpush : BitVec 16
  spush : BitVec 16
  xtbM : BitVec 52
  xtbS : BitVec 52
  xspM : Word
  xspS : Word
  latchM : SMap Word
  latchS : SMap Word
  latchPendM : Option (Word × Nat)
  latchPendS : Option (Word × Nat)
  latchedS : Bool
  ieM : BitVec 16
  ieS : BitVec 16
  ipM : BitVec 16
  ipS : BitVec 16
  ipInfo : SMap (Word × Word)
  niwin : BitVec 11
  niOvr : Bool
  niOpen : Option (Bool × Nat)
  spillReason : BitVec 8
  emu : BitVec 6
  owed : List (List Nat)
  actM : List (BitVec 6)
  actS : List (BitVec 6)
  deriving DecidableEq, Repr

/-- R227, R232: exception state after a full reset. -/
def Exc.zero : Exc :=
  { recM := ⟨0, 0, 0, 0⟩, recS := ⟨0, 0, 0, 0⟩, msh := false, ssh := false, fatal := false, mpush := 0, spush := 0,
    xtbM := 0, xtbS := 0, xspM := 0, xspS := 0, latchM := [], latchS := [], latchPendM := none, latchPendS := none,
    latchedS := false, ieM := 0, ieS := 0, ipM := 0, ipS := 0, ipInfo := [], niwin := 256, niOvr := false,
    niOpen := none, spillReason := 0, emu := 0,
    owed := [], actM := [], actS := [] }

/-- How far the translation of an access has come (R128, R270). A translated access has its first n bytes from `pa`
and the others from `pa2`, on the next page; `c1` and `c2` tell whether the data cache is used for each. -/
inductive Trans where
  | walking
  | scratch
  | phys (pa : Nat) (pa2 : Nat) (n : Nat) (c1 : Bool) (c2 : Bool) (lc : Bool)
  | refused (reason : BitVec 8)
  deriving DecidableEq, Repr

/-- Who made an access, fixed at its issue: world, level, inside a Calico routine, register bank, data cache in use (R115). -/
structure Who where
  serge : Bool
  sup : Bool
  inlib : Bool
  bank : BankId
  den : Bool
  deriving DecidableEq, Repr

/-- A load in flight (R85). `overAt` is the limit that a refused request met, as R456 codes it (R129). `fwd` is data taken from the store buffer (R120), `noted` tells that the uncorrectable line it waited for
is counted and logged (R255). -/
structure Load where
  k : BitVec 2
  va : Nat
  size : Nat
  sx : Bool
  who : Who
  tr : Trans
  fwd : Option (List Byte)
  overload : Bool
  overAt : Nat
  noted : Bool
  wid : Nat
  seq : Nat
  deriving DecidableEq, Repr

/-- What a store-buffer entry is (R119). -/
inductive SbKind where | store | dma | send | put
  deriving DecidableEq, Repr

/-- A store-buffer entry, or an operation handed off and not yet performed. `skip`: a replayed effect that counts as done
(R63). `patch`: a store issued while the patch window was open for stores (R122, R123). -/
structure SbEntry where
  kind : SbKind
  who : Who
  va : Nat
  data : List Byte
  x : Word
  pa : Nat
  tr : Trans
  overload : Bool
  overAt : Nat
  skip : Bool
  patch : Bool
  wid : Nat
  seq : Nat
  deriving DecidableEq, Repr

/-- An asynchronous fault that is known and not yet taken (R458). -/
structure AsyncFault where
  vec : BitVec 6
  info : BitVec 8
  fa : Word
  seq : Nat
  deriving DecidableEq, Repr

/-- A cache line (R110). -/
structure CLine where
  addr : Nat
  way : Nat
  data : List Byte
  deriving DecidableEq, Repr

/-- A victim-cache line with its cache of origin (R114). -/
structure VLine where
  code : Bool
  addr : Nat
  data : List Byte
  deriving DecidableEq, Repr

/-- A line asked of stacked memory (R110, R113). -/
structure LineReq where
  code : Bool
  addr : Nat
  prefetch : Bool
  deriving DecidableEq, Repr

/-- Caches, prediction and code patching of a tile (R108 to R123). Lists of lines are most recently used first; the loop
buffer holds word + 1 at its address. -/
structure CacheSt where
  ien : Bool
  den : Bool
  pfen : Bool
  scr : BitVec 2
  sbase : BitVec 37
  scratch : SMap Byte
  dlines : List CLine
  ilines : List CLine
  vlines : List VLine
  reqs : List LineReq
  invalidating : List (BitVec 3 × Nat)
  loopBuf : SMap Nat
  pred : SMap (BitVec 2 × BitVec 52)
  patch : Option (Nat × Nat)
  patchStores : Bool
  flushing : List (Nat × Nat)
  deriving DecidableEq, Repr

/-- R104, R115: caches of an idle tile. -/
def CacheSt.zero : CacheSt :=
  { ien := true, den := true, pfen := true, scr := 0, sbase := 0, scratch := [], dlines := [], ilines := [],
    vlines := [], reqs := [], invalidating := [], loopBuf := [], pred := [], patch := none, patchStores := false,
    flushing := [] }

/-- How a started vector operation stands (R141, R142): the cycle of its start, and the registers (masks from 32 on) that a later
operation wrote before it was complete, as it read them (assumption 13), and whether it has left the engine, since a later one has
started (assumption 25). -/
structure VxRun where
  start : Word
  kept : List Nat
  keptV : SMap Byte
  keptM : SMap Bool
  left : Bool
  deriving DecidableEq, Repr

def VxRun.zero : VxRun := { start := 0, kept := [], keptV := [], keptM := [], left := false }

/-- A queued vector operation with the ports captured at its trigger (R136). -/
structure VxOp where
  op : Nat
  desc : Word
  vl : Nat
  sa : Word
  sb : Word
  sc : Word
  a : BitVec 20
  stride : BitVec 32
  k : BitVec 11
  d : Word
  calOpen : Bool
  started : Bool
  wid : Nat
  run : VxRun
  deriving DecidableEq, Repr

/-- Vector engine (R132, R144, R145). Register bytes lie at 2,048 × register + byte, mask bits at 2,048 × mask + bit. -/
structure Vx where
  v : SMap Byte
  m : SMap Bool
  vl : BitVec 12
  sa : Word
  sb : Word
  sc : Word
  a : BitVec 20
  stride : BitVec 32
  k : BitVec 11
  d : Word
  r : Word
  st : BitVec 7
  fe : BitVec 15
  queue : List VxOp
  deriving DecidableEq, Repr

/-- R134, R137, R145: vector engine at a tick. -/
def Vx.zero : Vx :=
  { v := [], m := [], vl := 2048, sa := 1, sb := 1, sc := 1, a := 0, stride := 0, k := 0, d := 0, r := 0, st := 0,
    fe := 0, queue := [] }

/-- How a started accumulation stands (R180, R181, R183): the cycle from which its steps issue, the open cycles it has had, 1 +
the last of them (0 none), the columns of A it has read from vector registers with their bytes, whether every step has issued, the flags it then has, and the
operand bytes it read (R190). -/
structure MxRun where
  t0 : Word
  opened : Nat
  last : Nat
  read : Nat
  bytes : SMap Byte
  issued : Bool
  flags : BitVec 5
  seen : List Byte
  deriving DecidableEq, Repr

def MxRun.zero : MxRun := { t0 := 0, opened := 0, last := 0, read := 0, bytes := [], issued := false, flags := 0, seen := [] }

/-- A held matrix operation with its captured ports (R172); from its start an mma keeps the lookup tables and a drain the
bank it reads (R179). -/
structure MxOp where
  op : Nat
  desc : Word
  aa : BitVec 20
  aks : BitVec 20
  ba : BitVec 20
  bks : BitVec 20
  asd : BitVec 20
  bsd : BitVec 20
  da : BitVec 20
  drs : BitVec 20
  cfg : BitVec 2
  calOpen : Bool
  snapKind : BitVec 2
  snap : SMap (BitVec 96)
  lutA : SMap (BitVec 16)
  lutB : SMap (BitVec 16)
  started : Bool
  wid : Nat
  run : MxRun
  deriving DecidableEq, Repr

/-- An accumulator bank (R175): `kind` as MX.bk codes it; element (r, c) at 16 r + c, or 4 r + c for A96. -/
structure MxBank where
  kind : BitVec 2
  vals : SMap (BitVec 96)
  ops : List MxOp
  listValid : Bool
  nrep : BitVec 2
  sadj : BitVec 16
  trigKind : BitVec 2
  trigCount : Nat
  deriving DecidableEq, Repr

/-- Matrix engine (R173, R174). -/
structure Mx where
  aa : BitVec 20
  aks : BitVec 20
  ba : BitVec 20
  bks : BitVec 20
  asd : BitVec 20
  bsd : BitVec 20
  da : BitVec 20
  drs : BitVec 20
  cfg : BitVec 2
  st : BitVec 5
  bankA : MxBank
  bankB : MxBank
  lutA : SMap (BitVec 16)
  lutB : SMap (BitVec 16)
  queue : List MxOp
  deriving DecidableEq, Repr

/-- R175: an empty bank. -/
def MxBank.zero : MxBank :=
  { kind := 0, vals := [], ops := [], listValid := false, nrep := 0, sadj := 0, trigKind := 0, trigCount := 0 }

/-- R173 to R175: matrix engine at a tick; `cfg` comes from object 0x2040. -/
def Mx.zero : Mx :=
  { aa := 0, aks := 0, ba := 0, bks := 0, asd := 0, bsd := 0, da := 0, drs := 0, cfg := 0, st := 0,
    bankA := MxBank.zero, bankB := MxBank.zero, lutA := [], lutB := [], queue := [] }

/-- A tensor slot (R204): running maximum, ring newest first, W − 1, GRAD. -/
structure Slot where
  amax : BitVec 32
  ring : List (BitVec 32)
  w : BitVec 4
  grad : Bool
  deriving DecidableEq, Repr

/-- R204: a cleared slot. -/
def Slot.zero : Slot := { amax := 0, ring := [], w := 0, grad := false }

/-- How a started conversion stands (R203): its source lines in the order in which it reads them (in registers or not, first byte,
length), how many it has read, their bytes (registers from 2^20 on), the first uncorrectable byte among them, and the cycles that a retry
still delays the next line (R392). -/
structure CvRun where
  plan : List (Bool × Nat × Nat)
  got : Nat
  bytes : SMap (Option Byte)
  bad : Option Nat
  stall : Nat
  deriving DecidableEq, Repr

def CvRun.zero : CvRun := { plan := [], got := 0, bytes := [], bad := none, stall := 0 }

/-- A held conversion operation (R203). -/
structure CvOp where
  op : Nat
  desc : Word
  sa : BitVec 20
  sb : BitVec 20
  da : BitVec 20
  sd : BitVec 36
  n : BitVec 21
  x : BitVec 32
  d : BitVec 32
  sren : Bool
  started : Bool
  wid : Nat
  run : CvRun
  deriving DecidableEq, Repr

/-- Conversion unit (R200, R204, R212). -/
structure Cv where
  sa : BitVec 20
  sb : BitVec 20
  da : BitVec 20
  sd : BitVec 36
  n : BitVec 21
  x : BitVec 32
  d : BitVec 32
  sren : Bool
  sel : BitVec 9
  xr : BitVec 16
  st : BitVec 6
  slots : SMap Slot
  slotsTick : SMap Slot
  ctr : SMap (BitVec 48)
  queue : List CvOp
  deriving DecidableEq, Repr

/-- R200: conversion unit after a full reset (SREN from object 0x2040 sub 3, default 1). -/
def Cv.zero : Cv :=
  { sa := 0, sb := 0, da := 0, sd := 0, n := 0, x := 0, d := 0, sren := true, sel := 0, xr := 0, st := 0,
    slots := [], slotsTick := [], ctr := [], queue := [] }

/-- An outstanding send or put (R301 to R304). -/
structure MeshOp where
  put : Bool
  x : Word
  pa : Nat
  lines : List Byte
  remote : Bool
  tag : BitVec 12
  cxid : BitVec 12
  serge : Bool
  live : Bool
  wid : Nat
  /-- The cycle in which it is due (R302). -/
  due : Word
  deriving DecidableEq, Repr

/-- A message that has arrived in the running cycle (R300): its place in the order of the cycle, its mailbox, its lines, and the bytes
that they replaced. -/
structure Arrival where
  key : Nat
  mb : Nat
  lines : List Byte
  old : List Byte
  deriving DecidableEq, Repr

/-- Mesh ports of a tile (R299, R300). `rc` counts the messages of a mailbox without wrapping; `arrived` are those of the cycle
`stamp`. -/
structure Mesh where
  pa : BitVec 44
  nak : Bool
  rto : Bool
  rdrop : Bool
  mb : SMap Word
  rc : SMap Nat
  out : List MeshOp
  stamp : Word
  arrived : List Arrival
  deriving DecidableEq, Repr

/-- R299: mesh ports at a tick. -/
def Mesh.zero : Mesh :=
  { pa := 0, nak := false, rto := false, rdrop := false, mb := [], rc := [], out := [], stamp := 0, arrived := [] }

/-- What the gap stages at a tile for the next frame (R98, R104); `line` is the physical address of the line that holds the first
word, when it may be fetched. -/
structure Staged where
  fault : BitVec 8
  loopen : Bool
  calen : Bool
  scr : BitVec 2
  cdis : Bool
  code : Nat
  xtbm : BitVec 52
  xspi : BitVec 52
  latch : SMap Word
  line : Option Nat
  deriving DecidableEq, Repr

/-- The changes made to one counter in one cycle (R93, R96): its number, its value after the moves to its port, the net sum,
and the tiles they are made for with the bit each held in WS.csat. -/
structure Bump where
  n : Nat
  base : BitVec 16
  net : Int
  who : List (Nat × Bool)
  deriving DecidableEq, Repr

/-- The changes of the running cycle to the flags and counters of a tile or a cluster (R17, R96; assumption 35): the cycle,
the tiles that have issued in it, the flags set, the clears by tile, the counters changed. -/
structure CycleOps where
  stamp : Word
  issued : List Nat
  sets : BitVec 32
  clrs : List (Nat × BitVec 32)
  bumps : List Bump
  deriving DecidableEq, Repr

def CycleOps.zero : CycleOps := { stamp := 0, issued := [], sets := 0, clrs := [], bumps := [] }

/-- Retries of one operation (R390, R393): its unit as R456 numbers it, 10 and 11 for a bank and 12 for a table or stream buffer of
the matrix engine; the number of its word, the chunk of a matrix operation, how often it has been retried. -/
structure Retry where
  unit : BitVec 4
  op : Nat
  chunk : Nat
  n : Nat
  deriving DecidableEq, Repr

/-- A tile, by logical index. `staged` is for the next frame, `hdr` the header of the running one; `replay`: it starts on the
spare when the copy of its store ends (R62, R395). `landed` is the cycle in which results in flight last came nearer (R10, R75), `resume` the cycles after a return that are none of theirs (R75,
R230),
`line0` the line of the first word: its address, its physical address and, for stacked memory, its bytes (R104, R125), `missedAt`
the word whose fetch last missed the instruction cache (R105), `frozen` the cycles left of a retry that freezes the tile (R391),
`unhandled` a program that an unhandled exception has ended (R239). -/
structure Tile where
  run : Run
  world : World
  sup : Bool
  det : Bool
  loopen : Bool
  calen : Bool
  pc : Nat
  endCyc : Word
  cur : BankId
  prim : Bank
  mban : Bank
  sban : Bank
  exc : Exc
  f : BitVec 24
  c : SMap (BitVec 16)
  thr : BitVec 16
  lostclr : BitVec 32
  csat : BitVec 32
  same : CycleOps
  held : BitVec 9
  libLast : BitVec 8
  cache : CacheSt
  sb : List SbEntry
  handed : List SbEntry
  loads : List Load
  fences : List (Nat × Nat)
  words : List (Nat × Nat × BitVec 8)
  nextWid : Nat
  nextSeq : Nat
  itlb : List TlbEntry
  dtlb : List TlbEntry
  fetchWalk : Bool
  /-- The walk of the fetch has met the limit of R129. -/
  fetchOver : Bool
  fetchFault : Option (BitVec 8)
  asyncs : List AsyncFault
  hostirqs : List (BitVec 6 × Nat × Nat)
  vx : Vx
  mx : Mx
  cv : Cv
  mesh : Mesh
  staged : Option Staged
  hdr : Option Staged
  replay : Bool
  line0 : Option (Nat × Nat × List Byte)
  landed : Word
  resume : Nat
  missedAt : Option Nat
  frozen : Nat
  unhandled : Bool
  effects : Nat
  skip : Nat
  late : Bool
  retry : List Retry
  retries : BitVec 24
  deriving DecidableEq, Repr

/-- A tile after a full reset (R15, R414): idle, all state 0 but where a field table says otherwise. -/
def Tile.zero : Tile :=
  { run := .idle, world := .muslin, sup := false, det := false, loopen := false, calen := false, pc := 0, endCyc := 0,
    cur := .primary, prim := Bank.zero, mban := Bank.zero, sban := Bank.zero, exc := Exc.zero, f := 0, c := [],
    thr := 0, lostclr := 0, csat := 0, same := CycleOps.zero, held := 0, libLast := 0, cache := CacheSt.zero, sb := [], handed := [],
    loads := [], fences := [], words := [], nextWid := 1, nextSeq := 0, itlb := [], dtlb := [], fetchWalk := false, fetchOver := false,
    fetchFault := none, asyncs := [], hostirqs := [], vx := Vx.zero, mx := Mx.zero, cv := Cv.zero, mesh := Mesh.zero,
    staged := none, hdr := none, replay := false, line0 := none, landed := 0, resume := 0, missedAt := none, frozen := 0,
    unhandled := false, effects := 0, skip := 0, late := false, retry := [], retries := 0 }

/-- R400: a tile after the logic self-test: every state reads 0. -/
def Tile.tested : Tile :=
  { Tile.zero with
    prim := { Bank.zero with lsusz := 0 }
    mban := { Bank.zero with lsusz := 0 }
    sban := { Bank.zero with lsusz := 0 }
    exc := { Exc.zero with niwin := 0 }
    cache := { CacheSt.zero with ien := false, den := false, pfen := false }
    vx := { Vx.zero with vl := 0, sa := 0, sb := 0, sc := 0 }
    cv := { Cv.zero with sren := false } }

/-- A cluster (R17, R18, R62, R396). Positions 0 to 15 are tiles, 16 the spare. -/
structure Cluster where
  f : BitVec 8
  c : SMap (BitVec 16)
  same : CycleOps
  l2 : List TlbEntry
  calico : Bool
  retired : List Nat
  spareFor : Option Nat
  spareBad : Bool
  copying : Option Nat
  unavailable : Bool
  deriving DecidableEq, Repr

/-- A cluster after reset: spare standing by, Calico RAM loaded (R413 step 7). -/
def Cluster.zero : Cluster :=
  { f := 0, c := [], same := CycleOps.zero, l2 := [], calico := true, retired := [], spareFor := none, spareBad := false, copying := none,
    unavailable := false }

/-- A recorded page of a descriptor translated at submission (R285): side, virtual page, physical base, size,
generation of each granule is looked up by granule. -/
structure RecPage where
  dst : Bool
  vpage : Nat
  level : Nat
  pbase : Nat
  lc : Bool
  deriving DecidableEq, Repr

/-- A DMA submission on its way to a channel, waiting there, or running (R278 to R288). -/
structure DmaJob where
  lti : Nat
  serge : Bool
  sup : Bool
  cxid : BitVec 12
  det : Bool
  src : Nat
  dst : Nat
  len : Nat
  sg : BitVec 8
  lc : Bool
  fie : Bool
  frec : Nat
  early : Bool
  pages : List RecPage
  gens : SMap (BitVec 32)
  frame : Nat
  next : Nat
  wid : Nat
  deriving DecidableEq, Repr

/-- A DMA channel (R279, R282). -/
structure DmaCh where
  arriving : List DmaJob
  waiting : List DmaJob
  run : Option DmaJob
  tlb : List TlbEntry
  /-- The mark of the last source read of stacked memory (R282): latency-critical or not. -/
  lcRead : Bool
  /-- Host address after the last write that left for a unit: the next one may go on with it (R330). -/
  wrEnd : Option (Nat × Nat)
  deriving DecidableEq, Repr

/-- An idle channel. -/
def DmaCh.zero : DmaCh := { arriving := [], waiting := [], run := none, tlb := [], lcRead := false, wrEnd := none }

/-- A region (R20, R21, R381). `hints` maps a target frame to the standing hint: 1 +
level + 16 × class, 0 without one. -/
structure Region where
  chans : SMap DmaCh
  hints : SMap Nat
  hintsNew : List (BitVec 9)
  qth : Nat
  deriving DecidableEq, Repr

/-- A region after reset. -/
def Region.zero : Region := { chans := [], hints := [], hintsNew := [], qth := 64 }

/-- A compute die (R23, R24, R372, R378, R379, R446, R447). -/
structure Die where
  fenced : Bool
  transit : Bool
  clamped : Bool
  trips : Nat
  qcur : Nat
  raised : Option Nat
  pwren : Bool
  clocks : Bool
  /-- The core setpoint in mV to which the droop thresholds refer: the one written, or 750 (R444). -/
  setpoint : BitVec 16
  deriving DecidableEq, Repr

/-- A die after reset. -/
def Die.zero : Die :=
  { fenced := false, transit := true, clamped := false, trips := 0, qcur := 64, raised := none, pwren := true,
    clocks := true, setpoint := 750 }

/-- A request at a memory controller (R245): its places in the order of acceptance (R248; a merged line takes those of its first and
last part), and where the mapping in effect at its acceptance puts it: line, bank of a rank, row (R244). A part of a line keeps the
bytes it replaced and whether the line has been read for it (R249); a read that a later write has overtaken in memory keeps the line
as it found it, with its error, and `parts`, a bit for each byte of it that a pending part had written (R248). -/
structure QReq where
  req : MemReq
  seq : Nat
  upto : Nat
  key : Nat
  bank : Nat
  row : Nat
  old : List Byte
  served : Bool
  snap : Option (List Byte × List (BitVec 32))
  parts : Nat
  deriving DecidableEq, Repr

/-- A memory channel (R245 to R261). `openRows` maps a bank of a rank to its open row, `refresh` a bank being refreshed to
the burst slots left; `agedRead` numbers the latency-critical reads that have waited 1 µs (R247); `lanes` is what training has set; `recent` tells which of the last slots served a non-deterministic request, newest at bit 0 (R375). `spareLane` is the lane whose
bits the spare lane carries (R256). -/
structure Chan where
  rq : List QReq
  wq : List QReq
  merges : List QReq
  agedRead : List Nat
  agedWrite : Bool
  openRows : SMap Nat
  batch : Nat
  refresh : SMap Nat
  nextSeq : Nat
  fenced : Bool
  spareLane : Option Nat
  lanes : List LaneSet
  out : Bool
  corrected : SMap Nat
  uncorrected : Nat
  recent : BitVec 8
  deriving DecidableEq, Repr

/-- A channel after reset. -/
def Chan.zero : Chan :=
  { rq := [], wq := [], merges := [], agedRead := [], agedWrite := false, openRows := [], batch := 0,
    refresh := [], nextSeq := 0, fenced := false, spareLane := none, lanes := [], out := false, corrected := [], uncorrected := 0,
    recent := 0 }

/-- A frame-table entry (R47). -/
structure FtEntry where
  en : Bool
  det : Bool
  wl : BitVec 2
  entry : Nat
  work : Nat
  rsv : Nat
  acc : Nat
  tsin : BitVec 48
  deriving DecidableEq, Repr

/-- R47: an entry of zeros. -/
def FtEntry.zero : FtEntry :=
  { en := false, det := false, wl := 0, entry := 0, work := 0, rsv := 0, acc := 0, tsin := 0 }

/-- An input range (R48). -/
structure FtInput where
  base : Nat
  len : Nat
  p2 : BitVec 2
  ph : BitVec 3
  deriving DecidableEq, Repr

/-- A frame table (R46 to R48). -/
structure FrameTable where
  ver : BitVec 8
  cxid : BitVec 12
  ilv : BitVec 2
  period : Nat
  nin : Nat
  entries : SMap FtEntry
  inputs : List FtInput
  deriving DecidableEq, Repr

/-- A request to the dictionary (R340): by its path, or for `src` the package that sent it over Twill (R360). Command 0xF0
stands for a whole domain write (open, segments and commit) of `data`. A `dead` request's response is discarded (R359). -/
structure DReq where
  path : Path
  cmd : BitVec 8
  t : Bool
  last : Bool
  idx : BitVec 16
  sub : BitVec 8
  tag : BitVec 8
  data : List Byte
  src : Option (BitVec 6)
  dead : Bool
  /-- The cycle in which it reached the dictionary (R344). -/
  stamp : Word
  deriving DecidableEq, Repr

/-- A value pending for a tick (R6): tick-latched write of an object. -/
structure TlWrite where
  idx : BitVec 16
  sub : BitVec 8
  v : Word
  deriving DecidableEq, Repr

/-- Frame control (02_frames.md). -/
structure Frames where
  cyc : Word
  fcyc : Word
  now : Nat
  lastTick : Nat
  ticked : Bool
  fnum : Word
  frel : Word
  source : BitVec 8
  ft : Option FrameTable
  ftPend : Option (Option FrameTable)
  ftPend2 : Option (Option FrameTable)
  ftBase : Word
  ftCode : BitVec 8
  ftIndex : BitVec 14
  validating : Option (Word × DReq)
  lastCx : BitVec 12
  ilv : Bool
  inGap : Bool
  /-- The cycle in which the gap began. -/
  gapCyc : Word
  inputs : List FtInput
  tl : List TlWrite
  tl2 : List TlWrite
  overruns : Nat
  lateTiles : Nat
  replays : Nat
  edgesIgnored : Nat
  substitutes : Nat
  ovr : SMap Nat
  wedgeK : BitVec 8
  holdover : BitVec 32
  wedgeRec : List Nat
  wedged : Bool
  holdovers : Nat
  sysPeriod : Nat
  frameOut : Bool
  frameOutDue : Bool
  spreadOn : Bool
  spreadPend : Option Bool
  shootReq : Bool
  shootNext : Bool
  shootDone : Bool
  deriving DecidableEq, Repr

/-- A pending change of a granule's owner (R274): at the next tick, and at the tick after it. -/
structure OwnChange where
  first : Nat
  count : Nat
  own : BitVec 12
  late : Bool
  deriving DecidableEq, Repr

/-- Memory, ownership and translation of the package (09_memory.md, 10_translation.md). -/
structure MemSys where
  /-- Stacked memory by DRAM place, tile stores and Calico RAM by physical address. -/
  mem : List Host.Cell
  /-- Uncorrectable stacked-memory lines by DRAM place, and tile-store words by physical address. -/
  bad : List Nat
  /-- Tile-store words that hold a single-bit error, by physical address (R394). -/
  soft : List Nat
  /-- The error in the 18 symbols of a stacked-memory line, by DRAM place (R252, R253). -/
  errs : SMap (List (BitVec 32))
  /-- Requests that a full queue holds in the mesh, in order of arrival (R245). -/
  held : List MemReq
  owner : SMap (BitVec 12)
  gen : SMap (BitVec 32)
  ownNext : List OwnChange
  ownNext2 : List OwnChange
  g : BitVec 32
  gWraps : BitVec 32
  shootdowns : Nat
  roots : SMap Nat
  rootsNext : List (BitVec 64)
  rootsNext2 : List (BitVec 64)
  q2102 : BitVec 16
  q4061 : BitVec 32
  q4071 : BitVec 32
  /-- Stack-local granules that the clearing after a reset has passed, by stack × 36,864 + granule (R415). -/
  cleared : SMap Bool
  chans : SMap Chan
  correctedReads : SMap Nat
  uncorrectableReads : SMap Nat
  lostPartial : Nat
  scrubHours : BitVec 16
  training : BitVec 8
  /-- Training records by channel (R257). -/
  trainRecs : List (List Byte)
  bringup : BitVec 64
  margining : Option (BitVec 64)
  marginReport : List Byte
  repair : Option (BitVec 64)
  /-- The row mapped onto the repair row of a bank, plus 1 (R260). -/
  repairsSoft : SMap Nat
  repairsHard : SMap Nat
  hotCount : SMap (BitVec 16)
  hotBase : Word
  hotM : BitVec 8
  hotT : BitVec 16
  hotK : BitVec 8
  hotHead : BitVec 32
  hotTail : BitVec 32
  hotDropped : Nat
  hotDue : List (BitVec 21 × BitVec 12 × Word × BitVec 16)
  hostBase : Word
  deriving DecidableEq, Repr

/-- A Twill flit that is kept: for replay (R307), for its turn to leave, or for its tile. `buf` is the link and the class of the receive
buffer it still holds (R308). -/
structure Flit where
  hdr : BitVec 256
  payload : List Byte
  buf : Option (Nat × Nat)
  deriving DecidableEq, Repr

/-- A Twill link (R305 to R309). `waiting` holds flits that wait for a credit or the replay buffer, `owe` credits to be
returned by class. -/
structure Link where
  status : BitVec 2
  lanes : BitVec 5
  failedLanes : BitVec 16
  delayPs : BitVec 32
  nextSeq : BitVec 12
  expSeq : BitVec 12
  replay : List Flit
  sinceAck : Nat
  resends : Nat
  credits : SMap Nat
  waiting : List Flit
  owe : SMap Nat
  crcFails : BitVec 32
  resendCount : BitVec 32
  retrains : BitVec 32
  degrades : BitVec 32
  ticksLost : BitVec 32
  dropped : BitVec 32
  /-- A failed link retrains at a command: it comes up afresh (R308, R309). -/
  afresh : Bool
  deriving DecidableEq, Repr

/-- A link after reset: down (R316). -/
def Link.zero : Link :=
  { status := 0, lanes := 0, failedLanes := 0, delayPs := 0, nextSeq := 0, expSeq := 0, replay := [], sinceAck := 0,
    resends := 0, credits := [], waiting := [], owe := [], crcFails := 0, resendCount := 0, retrains := 0, degrades := 0, ticksLost := 0,
    dropped := 0, afresh := false }

/-- A remote operation this package has sent (R304, R306): tag, source tile, flits not yet answered. -/
structure RemoteOp where
  tag : BitVec 12
  lti : Nat
  flits : Nat
  nak : Bool
  deriving DecidableEq, Repr

/-- Twill and membership (R305 to R316). -/
structure Twill where
  links : SMap Link
  routes : SMap (BitVec 8)
  dieRoutes : SMap (BitVec 8)
  id : BitVec 8
  prio : BitVec 8
  e : BitVec 8
  d : BitVec 32
  st : BitVec 2
  members : BitVec 64
  nextSet : BitVec 64
  announced : BitVec 64
  refused : BitVec 64
  master : BitVec 8
  masterPrio : BitVec 8
  gen : Word
  admissions : BitVec 32
  departures : BitVec 32
  missed : SMap Nat
  candidate : Bool
  admitAt : Option Word
  yielding : Bool
  sysE : Nat
  sfn : Word
  /-- The system frames whose tick flits have been seen, the newest first (R311). -/
  seen : List Word
  /-- The system frame whose tick flit this master has sent last (R311). -/
  sent : Option Word
  /-- The system ticks to release, by instant: instant and system frame number (R311). -/
  releases : List (Nat × Word)
  nextTag : BitVec 12
  remote : List RemoteOp
  /-- Messages held while the spare of their tile is filled (R302). -/
  held : List Flit
  /-- Flooded flits that this package has passed on in the frame (R313, R314): a beacon or not, its sender. -/
  flooded : List (Bool × BitVec 6)
  deriving DecidableEq, Repr

/-- A device request the host has not completed (R330, R331). -/
structure HostReq where
  tag : BitVec 10
  write : Bool
  lti : Option (Nat × Nat)
  dma : Option (Nat × Nat)
  addr : Nat
  len : Nat
  data : List Byte
  done : Option (Bool × List Byte)
  /-- It has left: at most 512 reads are outstanding (R317). -/
  sent : Bool
  deriving DecidableEq, Repr

/-- Host interface (12_host.md). -/
structure HostIf where
  cxid : BitVec 12
  b2base : BitVec 44
  b4pg : BitVec 8
  err : BitVec 8
  irqen : BitVec 9
  irqst : Word
  tdiv : BitVec 5
  msixTable : SMap (BitVec 128)
  msixPend : Word
  msixEn : Bool
  msixMask : Bool
  bme : Bool
  bars : SMap Word
  /-- R317: an advisory non-fatal error has been recorded (Correctable Error Status of AER, bit 13). -/
  advisory : Bool
  devCtl : BitVec 16
  d3 : Bool
  bar2Log : Nat
  cto : BitVec 4
  linkUp : Bool
  mbReq : SMap Byte
  mbRsp : SMap Byte
  mbBusy : Bool
  mbDone : Bool
  mbOvr : Bool
  /-- What the cycle `nowStamp` has set in H.ERR, H.IRQST and MB.ST: a clear of the cycle loses (R7, R329, R334, R358). -/
  nowStamp : Word
  nowErr : BitVec 8
  nowIrq : Word
  /-- The vectors whose message has left for a bit that the cycle has set (R333). -/
  nowSent : Word
  nowDone : Bool
  nowOvr : Bool
  reqs : List HostReq
  /-- Host requests held behind one for a store that is being copied (R324, R327). -/
  heldReqs : List Instr
  nextTag : BitVec 10
  deriving DecidableEq, Repr

/-- A domain transfer (R348, R349). One that is `closed` has ended and only answers repeats of its last segment. -/
structure DomXfer where
  idx : BitVec 16
  sub : BitVec 8
  closed : Bool
  size : Nat
  data : List Byte
  lastT : Option Bool
  lastRsp : List Byte
  pos : Nat
  /-- The package that opened it over Twill (R360). -/
  src : Option (BitVec 6)
  deriving DecidableEq, Repr

/-- A request that the hub has sent to another package (R360): its client, where to, and what tells its response; for a whole domain write
what is left to be sent after the next response, and the toggle of its next segment. -/
structure AwayReq where
  client : HubClient
  dst : BitVec 6
  idx : BitVec 16
  sub : BitVec 8
  tag : BitVec 8
  rest : Option (List Byte)
  t : Bool
  deriving DecidableEq, Repr

/-- Dictionary and ZDP (13_dictionary.md). `waiting` holds requests behind one that is still served (R344). Paths are numbered 0 firmware, 1 mailbox, 2 Twill, 3 ZDP. -/
structure Dict where
  nodeStored : BitVec 8
  nodeStrap : BitVec 8
  nodeUse : BitVec 8
  nomRate : BitVec 8
  datRate : BitVec 8
  heartbeat : BitVec 16
  zdp : SMap (BitVec 32)
  canSt : BitVec 2
  canStby : Bool
  /-- ZDP responses that wait for the bus (R355). -/
  canTx : List (List Byte)
  /-- Requests to other packages whose response is awaited (R360). -/
  away : List AwayReq
  emergencies : List (BitVec 16 × BitVec 16 × Word × BitVec 32)
  waiting : List DReq
  domW : SMap DomXfer
  domR : SMap DomXfer
  armed : Option Nat
  firing : Bool
  cause : BitVec 8
  tsWraps : BitVec 32
  f19t : Bool
  f19z : Bool
  sren : Bool
  cap : BitVec 16
  regulators : List Byte
  regulatorsStored : List Byte
  deriving DecidableEq, Repr

/-- A throttle event that has begun (R387). -/
structure Throttle where
  reason : BitVec 4
  scope : BitVec 2
  index : BitVec 8
  qmin : BitVec 7
  dur : BitVec 32
  start : Word
  fnum : Word
  count : BitVec 16
  deriving DecidableEq, Repr

/-- What a reason holds (R386): reason, scope, index, lowest ceiling. -/
structure Hold where
  reason : Nat
  scope : Nat
  index : Nat
  q : Nat
  deriving DecidableEq, Repr

/-- Power management (14_power.md); `p` is in units of 2^-16 W. Sensors 0 to 159 regions, 160 to 175 stacks, 176 and 177 hub. -/
structure Power where
  p : Nat
  meas : Nat
  gain : BitVec 32
  energy : Word
  telFail : Nat
  msSum : Nat
  msCount : Nat
  pm : Nat
  /-- Matrix power of each region in the last microsecond, as `pm` in units of 2^-32 W (R373, R377). -/
  regionPm : SMap Nat
  /-- p, pm and matrix powers of the last microsecond before the gap (R377). -/
  gapP : Nat
  gapPm : Nat
  gapRegion : SMap Nat
  /-- SYS.fnum at the start of the running microsecond (R387). -/
  usFnum : Word
  qc : Nat
  m : Nat
  qext : Nat
  throttleLow : Bool
  preload : Option Nat
  preloaded : Bool
  overRun : Nat
  underRun : Nat
  tthr : BitVec 8
  iLimit : BitVec 16
  qThrottle : BitVec 8
  railRaise : BitVec 8
  sensors : SMap (BitVec 16)
  hottest : BitVec 16
  stackLimit : SMap Bool
  thermQ1 : List Nat
  durations : SMap (BitVec 32)
  openEvents : List Throttle
  /-- Droop events that ended in the running millisecond (R387). -/
  droopEnded : List Throttle
  events : List Throttle
  eventsWritten : Nat
  eventsLost : Nat
  thermtrip : Bool
  /-- The counters of the last microsecond (R368), and what reasons have held in earlier cycles of the running one (R386). -/
  activity : Activity
  seen : List Hold
  deriving DecidableEq, Repr

/-- An error-log entry (R404). -/
structure LogEntry where
  code : BitVec 8
  sev : BitVec 3
  src : BitVec 4
  idx : BitVec 14
  d1 : BitVec 32
  d2 : Word
  fnum : Word
  time : Word
  /-- The cycle in which it was made (R403). -/
  cyc : Word
  deriving DecidableEq, Repr

/-- Logs, service, self-test and trace (15_reliability.md). Queue 0 is the hub's, queue 1 + d that of die d. -/
structure Reliab where
  log : List LogEntry
  written : Nat
  lost : Nat
  dropped : Nat
  queues : SMap (List LogEntry)
  onceMarks : List (BitVec 8 × Nat)
  persist : List LogEntry
  sparing : List Nat
  sparingPend : List Nat
  svc : BitVec 8
  overloads : Nat
  /-- Entries of caches, loop buffers, prediction tables and TLBs that a parity fault has invalidated (R389); no object reads it. -/
  parities : Nat
  retriesOk : Nat
  retiredTiles : Nat
  tsCorrections : Nat
  tsUncorrectable : Nat
  deviceFaults : Nat
  stRec : Option (BitVec 64)
  stStatus : BitVec 32
  stReport : List Byte
  traceMask : BitVec 32
  traceBase : Word
  traceExp : BitVec 8
  traceBytes : Nat
  traceOver : Nat
  traceDropped : Nat
  tracePos : Nat
  traceOwner : BitVec 12
  /-- Records that each die has made in the cycle `traceStamp`, 8 standing for the hub (R406; assumption 18). -/
  traceStamp : Word
  traceNow : SMap Nat
  deriving DecidableEq, Repr

/-- What a flash slot holds of an image (R417, R419, R420), with the SHA-256 of its header (R427). -/
structure Image where
  ver : BitVec 32
  digest : List Byte
  svn : BitVec 8
  key : BitVec 2
  revk : BitVec 4
  good : Bool
  deriving DecidableEq, Repr

/-- A copy of the slot directory (R417). -/
structure DirCopy where
  seq : BitVec 32
  active : Bool
  trial : Option Bool
  tried : Bool
  crc : BitVec 32
  deriving DecidableEq, Repr

/-- The records in flash beside the image slots, the directory and the sparing record (R369, R403, R417, R418): what a full reset loads. -/
structure Flash where
  nodeStored : BitVec 8
  nomRate : BitVec 8
  datRate : BitVec 8
  training : BitVec 8
  regulators : List Byte
  trainRecs : List (List Byte)
  persist : List LogEntry
  deriving DecidableEq, Repr

/-- A record on its way to the flash (R418). -/
inductive FlashWrite where
  | sparing (phys : Nat)
  | node (v : BitVec 8)
  | nomRate (v : BitVec 8)
  | datRate (v : BitVec 8)
  | training (v : BitVec 8)
  | regulators (l : List Byte)
  | trainRecs (l : List (List Byte))
  | persist (l : List LogEntry)
  deriving DecidableEq, Repr

/-- The flash of a device as delivered: the defaults of the objects (R361, R363, R364). -/
def Flash.zero : Flash :=
  { nodeStored := 127, nomRate := 2, datRate := 1, training := 0, regulators := [], trainRecs := [], persist := [] }

/-- Boot, security, test port (16_boot_security.md, 18_electrical.md). -/
structure Boot where
  asserted : List (BitVec 3)
  worst : BitVec 3
  inReset : Bool
  ready : Bool
  recovery : Bool
  dirSeq : BitVec 32
  active : Bool
  trial : Option Bool
  tried : Bool
  slot0 : Option Image
  slot1 : Option Image
  running : Image
  upSlot : Bool
  upPend : Bool
  upStoring : Option Image
  upFallbk : Bool
  upRes : BitVec 4
  upBuffer : Bool
  svn : BitVec 8
  revoked : BitVec 4
  attState : BitVec 8
  nonce : List Byte
  attReport : List Byte
  identOk : Bool
  pwrenMem : Bool
  tapIr : BitVec 3
  tapBoundary : List Bool
  tapTdo : List Bool
  /-- The two copies of the slot directory (R417); none is one that holds no directory. -/
  dirA : Option DirCopy
  dirB : Option DirCopy
  flash : Flash
  /-- Records being written to the flash, oldest first (R418). -/
  flashWrites : List FlashWrite
  /-- The flash may have been written through the SPI lands since the last sequence (R451). -/
  spiOpen : Bool
  /-- Power groups whose PGOOD did not rise in the running sequence (R447). -/
  pgFail : List Nat
  deriving DecidableEq, Repr

/-- What the package sends to the outside world (INVENTORY.md, Host interface). -/
inductive OutMsg where
  | msix (v : BitVec 6)
  | completion (status : BitVec 3) (poisoned : Bool) (data : List Byte)
  | hostWrite (addr : Nat) (data : List Byte)
  | hostRead (tag : BitVec 10) (addr : Nat) (len : Nat)
  | dictRsp (path : Nat) (data : List Byte)
  | zdp (id : BitVec 11) (esi : Bool) (data : List Byte)
  | flit (link : BitVec 3) (hdr : BitVec 256) (payload : List Byte)
  | tdo (bits : List Bool)
  | smbusRaise (die : BitVec 3) (up : Bool)
  /-- VOUT_COMMAND to a die's core regulator, in mV (R444). -/
  | smbusVout (die : BitVec 3) (mv : BitVec 16)
  /-- What a memory controller answers to the sender of a request of MEM_REQUEST_ACCEPT: its path, its address, and a read's line, or
  none for a refused or uncorrectable one (R245, R253). -/
  | memAnswer (path : Nat) (pa : Nat) (line : Option (List Byte))
  deriving DecidableEq, Repr

/-- The whole block. -/
structure State where
  pending : List Instr
  freeCtr : Nat
  tiles : SMap Tile
  clusters : SMap Cluster
  regions : SMap Region
  dies : SMap Die
  fr : Frames
  ms : MemSys
  tw : Twill
  host : HostIf
  dict : Dict
  pw : Power
  rel : Reliab
  boot : Boot
  outbox : List OutMsg
  deriving DecidableEq, Repr

/-- R39, R50, R54: frame control before the first tick. -/
def Frames.zero : Frames :=
  { cyc := 0, fcyc := 0, now := 0, lastTick := 0, ticked := false, fnum := 0, frel := 0, source := 0,
    ft := none, ftPend := none, ftPend2 := none, ftBase := 0, ftCode := 0, ftIndex := 0,
    validating := none, lastCx := 0xFFF, ilv := false, inGap := false, gapCyc := 0, inputs := [], tl := [], tl2 := [], overruns := 0,
    lateTiles := 0, replays := 0, edgesIgnored := 0, substitutes := 0, ovr := [], wedgeK := 4, holdover := 0, wedgeRec := [], wedged := false,
    holdovers := 0, sysPeriod := 1000000, frameOut := false, frameOutDue := false, spreadOn := true,
    spreadPend := none, shootReq := false, shootNext := false, shootDone := false }

/-- R262, R292, R414, R415: memory after a full reset. -/
def MemSys.zero : MemSys :=
  { mem := [], bad := [], soft := [], errs := [], held := [], owner := [], gen := [], ownNext := [], ownNext2 := [], g := 0, gWraps := 0, shootdowns := 0,
    roots := [], rootsNext := [], rootsNext2 := [], q2102 := 0, q4061 := 0, q4071 := 0, cleared := [], chans := [],
    correctedReads := [], uncorrectableReads := [], lostPartial := 0, scrubHours := 24, training := 0, trainRecs := [], bringup := 0,
    margining := none, marginReport := [], repair := none, repairsSoft := [], repairsHard := [], hotCount := [],
    hotBase := 0, hotM := 12, hotT := 0, hotK := 10, hotHead := 0, hotTail := 0, hotDropped := 0, hotDue := [],
    hostBase := 0 }

/-- R316, R414: Twill after a full reset; routes default 0xF are unlisted. -/
def Twill.zero : Twill :=
  { links := [], routes := [], dieRoutes := [], id := 0, prio := 128, e := 4, d := 4000, st := 0, members := 0,
    nextSet := 0, announced := 0, refused := 0, master := 0xFF, masterPrio := 0, gen := 0, admissions := 0, departures := 0,
    missed := [], candidate := false, admitAt := none, yielding := false, sysE := 0, sfn := 0, seen := [], sent := none, releases := [],
    nextTag := 0, remote := [], held := [], flooded := [] }

/-- R319, R322, R358: host interface at its reset values. -/
def HostIf.zero : HostIf :=
  { cxid := 0xFFF, b2base := 0, b4pg := 0, err := 0, irqen := 0, irqst := 0, tdiv := 0, msixTable := [], msixPend := 0,
    msixEn := false, msixMask := false, bme := false, bars := [], advisory := false, devCtl := 0x2000, d3 := false, bar2Log := 41, cto := 0,
    linkUp := true, mbReq := [], mbRsp := [], mbBusy := false, mbDone := false, mbOvr := false, nowStamp := 0, nowErr := 0, nowIrq := 0, nowSent := 0,
    nowDone := false, nowOvr := false, reqs := [], heldReqs := [],
    nextTag := 0 }

/-- R361, R363: dictionary defaults. -/
def Dict.zero : Dict :=
  { nodeStored := 127, nodeStrap := 0, nodeUse := 127, nomRate := 2, datRate := 1, heartbeat := 1000, zdp := [],
    canSt := 0, canStby := false, canTx := [], away := [], emergencies := [], waiting := [], domW := [], domR := [], armed := none, firing := false,
    cause := 1, tsWraps := 0, f19t := false, f19z := false, sren := true, cap := 3000, regulators := [],
    regulatorsStored := [] }

/-- R372, R388: power management after a full reset. -/
def Power.zero : Power :=
  { p := 0, meas := 0, gain := 65536, energy := 0, telFail := 0, msSum := 0, msCount := 0, pm := 0, regionPm := [],
    gapP := 0, gapPm := 0, gapRegion := [], usFnum := 0,
    qc := 64, m := 8, qext := 64, throttleLow := false, preload := none, preloaded := false,
    overRun := 0, underRun := 0, tthr := 100, iLimit := 450, qThrottle := 16, railRaise := 1,
    sensors := [], hottest := 100, stackLimit := [], thermQ1 := [], durations := [], openEvents := [], droopEnded := [], events := [],
    eventsWritten := 0, eventsLost := 0, thermtrip := false, activity := Activity.zero, seen := [] }

/-- R364, R403, R409: logs after a full reset of a whole device (service level 3). -/
def Reliab.zero : Reliab :=
  { log := [], written := 0, lost := 0, dropped := 0, queues := [], onceMarks := [], persist := [], sparing := [],
    sparingPend := [], svc := 3, overloads := 0, parities := 0, retriesOk := 0, retiredTiles := 0, tsCorrections := 0,
    tsUncorrectable := 0, deviceFaults := 0, stRec := none, stStatus := 0, stReport := [], traceMask := 0,
    traceBase := 0, traceExp := 28, traceBytes := 0, traceOver := 0, traceDropped := 0, tracePos := 0,
    traceOwner := 0xFFF, traceStamp := 0, traceNow := [] }

/-- The valid image that the part is delivered with (assumption 5). -/
def Image.factory : Image := { ver := 0, digest := Config.imageHeaderDigest, svn := 0, key := 0, revk := 0, good := true }

/-- R413, R417, R424: boot state at READY with a valid image in slot 0 (assumption 5). -/
def Boot.zero : Boot :=
  { asserted := [], worst := 0, inReset := false, ready := true, recovery := false, dirSeq := 0, active := false,
    trial := none, tried := false, slot0 := some Image.factory, slot1 := none,
    running := Image.factory,
    upSlot := false, upPend := false, upStoring := none, upFallbk := false, upRes := 0, upBuffer := false, svn := 0,
    revoked := 0, attState := 0, nonce := [], attReport := [], identOk := true, pwrenMem := true, tapIr := 1,
    tapBoundary := List.replicate 41 false, tapTdo := [], dirA := some { seq := 0, active := false, trial := none, tried := false, crc := 0xAF5ABDFC }, dirB := none,
    flash := Flash.zero, flashWrites := [], spiOpen := false, pgFail := [] }

/-- The block right after a full reset: READY, dictionary serving, emergency 0x0005 queued, before the first tick (R413, R414). -/
def State.reset : State :=
  { pending := [], freeCtr := 0, tiles := [], clusters := [], regions := [], dies := [], fr := Frames.zero,
    ms := MemSys.zero, tw := Twill.zero, host := HostIf.zero,
    dict := { Dict.zero with emergencies := [(5, 0, 0, 0)] }, pw := Power.zero,
    rel := Reliab.zero, boot := Boot.zero, outbox := [] }

end Sys2Proof.Machine
end

