-- ==== Sys2Proof/Machine/Ops.lean ====
section
/-! DEFINITION. The named operations over the state: units by number, free values, memory by physical address and its
checks, flags and counters, signals, the error log, interrupts to the host, emergencies and the trace. -/

namespace Sys2Proof.Machine

open Sys2Proof

/-! ## Units -/

def tileOf (s : State) (i : Nat) : Tile := smGet Tile.zero s.tiles i
def setTile (s : State) (i : Nat) (t : Tile) : State := { s with tiles := smSet Tile.zero s.tiles i t }
def modTile (s : State) (i : Nat) (f : Tile → Tile) : State := setTile s i (f (tileOf s i))
def clusterOf (s : State) (k : Nat) : Cluster := smGet Cluster.zero s.clusters k
def setCluster (s : State) (k : Nat) (c : Cluster) : State := { s with clusters := smSet Cluster.zero s.clusters k c }
def regionOf (s : State) (r : Nat) : Region := smGet Region.zero s.regions r
def setRegion (s : State) (r : Nat) (x : Region) : State := { s with regions := smSet Region.zero s.regions r x }
def dieOf (s : State) (d : Nat) : Die := smGet Die.zero s.dies d
def setDie (s : State) (d : Nat) (x : Die) : State := { s with dies := smSet Die.zero s.dies d x }
def chanOf (s : State) (c : Nat) : Chan := smGet Chan.zero s.ms.chans c
def setChan (s : State) (c : Nat) (x : Chan) : State :=
  { s with ms := { s.ms with chans := smSet Chan.zero s.ms.chans c x } }
def linkOf (s : State) (l : Nat) : Link := smGet Link.zero s.tw.links l
def setLink (s : State) (l : Nat) (x : Link) : State := { s with tw := { s.tw with links := smSet Link.zero s.tw.links l x } }
def dmaChOf (s : State) (r c : Nat) : DmaCh := smGet DmaCh.zero (regionOf s r).chans c
def setDmaCh (s : State) (r c : Nat) (x : DmaCh) : State :=
  let g := regionOf s r
  setRegion s r { g with chans := smSet DmaCh.zero g.chans c x }

/-- R18, R24, R66: a logical index is available when its die is in service and its cluster is not lost. -/
def idxAvail (s : State) (i : Nat) : Bool :=
  decide (i < 10240) && !(dieOf s (i / 1280)).fenced && !(clusterOf s (i / 16)).unavailable

/-- Runs f on a command that names a logical index, or faults when there is no such tile (R11). A tile whose die's clocks are
stopped does nothing (R383, R447). -/
def onTile (i : BitVec 14) (s : State) (f : Nat → State → State) : Host.Outcome State Fault Refusal :=
  if i.toNat < 10240 then .next (if (dieOf s (i.toNat / 1280)).clocks then f i.toNat s else s) else .fault .noSuchUnit

/-- R391: what a freeze of the tile holds: its engines and the landing of its results. -/
def onThawed (i : BitVec 14) (s : State) (f : Nat → State → State) : Host.Outcome State Fault Refusal :=
  onTile i s fun i s => if 0 < (tileOf s i).frozen then s else f i s

/-- The next free value of the run (assumption 7). -/
def takeFree (s : State) : Word × State := (Config.freeValue s.freeCtr, { s with freeCtr := s.freeCtr + 1 })

/-- R361: the µs timestamp since full reset, 64 bits wide (0x1030 sub 3): wraps × 2^32 + timestamp. -/
def timestamp (s : State) : Word := wOf (s.dict.tsWraps.toNat * 2 ^ 32 + (s.fr.now / 1000) % 2 ^ 32)

/-! ## What leaves the package -/

def emit (s : State) (m : OutMsg) : State := { s with outbox := s.outbox ++ [m] }

/-- R356: an emergency event is queued; a full queue of 16 counts it in 0x1012 (sixth count). -/
def emergency (code aux : Nat) (s : State) : State :=
  if 16 ≤ s.dict.emergencies.length then
    { s with dict := { s.dict with zdp := smSet 0 s.dict.zdp 5 (sat32 (smGet 0 s.dict.zdp 5)) } }
  else { s with dict := { s.dict with emergencies := s.dict.emergencies ++
      [(BitVec.ofNat 16 code, BitVec.ofNat 16 aux, s.fr.fnum, BitVec.ofNat 32 (s.fr.now / 1000))] } }

/-- R418: a record is to be written to the flash. -/
def flashQueue (w : FlashWrite) (s : State) : State := { s with boot := { s.boot with flashWrites := s.boot.flashWrites ++ [w] } }

/-- R403: the place of an entry in its queue: within a cycle tiles come in ascending logical index. -/
def insertEntry (e : LogEntry) : List LogEntry → List LogEntry
  | [] => [e]
  | x :: xs =>
    if x.cyc = e.cyc ∧ x.src = 0 ∧ e.src = 0 ∧ e.idx.toNat < x.idx.toNat then e :: x :: xs else x :: insertEntry e xs

/-- R403: puts an entry into a source's queue of 64; one that finds it full is dropped and counted in 0x6002. -/
def logTo (q : Nat) (e : LogEntry) (s : State) : State :=
  let l := smGet [] s.rel.queues q
  if 64 ≤ l.length then { s with rel := { s.rel with dropped := s.rel.dropped + 1 } }
  else { s with rel := { s.rel with queues := smSet [] s.rel.queues q (insertEntry e l) } }

/-- R404, R405: logs an event. `src` 0 to 3 belong to the die of `idx` where the code names a tile or cluster. -/
def logErr (code sev src idx d1 : Nat) (d2 : Word) (s : State) : State :=
  let q := if src = 0 then 1 + idx / 1280 else if src = 1 then 1 + idx / 80 else if src = 2 then 1 + idx / 128
           else if src = 3 then 1 + idx / 20 else 0
  logTo q { code := BitVec.ofNat 8 code, sev := BitVec.ofNat 3 sev, src := BitVec.ofNat 4 src,
            idx := BitVec.ofNat 14 idx, d1 := BitVec.ofNat 32 d1, d2 := d2, fnum := s.fr.fnum, time := timestamp s, cyc := s.fr.cyc } s

/-- R405: an entry made at most once for each index in each frame. -/
def logOnce (code sev src idx d1 : Nat) (d2 : Word) (s : State) : State :=
  let key := (BitVec.ofNat 8 code, idx)
  if s.rel.onceMarks.contains key then s
  else logErr code sev src idx d1 d2 { s with rel := { s.rel with onceMarks := key :: s.rel.onceMarks } }

/-! ## The host window -/

/-- What the running cycle has set in H.ERR, H.IRQST and MB.ST: that of an earlier cycle is gone (R7). -/
def hostNow (s : State) : HostIf :=
  if s.host.nowStamp = s.fr.cyc then s.host
  else { s.host with nowStamp := s.fr.cyc, nowErr := 0, nowIrq := 0, nowSent := 0, nowDone := false, nowOvr := false }

/-- R329: a bit of H.ERR is set. -/
def hostErr (bit : Nat) (s : State) : State :=
  let h := hostNow s
  { s with host := { h with err := h.err ||| (1#8 <<< bit), nowErr := h.nowErr ||| (1#8 <<< bit) } }

/-- R331: a device request fails: H.ERR.HOST and an error-log entry with the completion status. -/
def hostFail (status : Nat) (addr : Nat) (s : State) : State := logErr 0x32 3 4 0 status (wOf addr) (hostErr 7 s)

/-- R331, R405: a failure without a completion has no completion status: a free value (assumption 7). -/
def hostFailOpen (addr : Nat) (s : State) : State :=
  let (d, s) := takeFree s
  hostFail d.toNat addr s

/-- R290, R291: one 64 B unit of the host window is accessed; a counter that reaches the threshold makes an entry due. -/
def hostTouch (cx : BitVec 12) (x : Nat) (s : State) : State :=
  let g := x / 0x200000
  let n := smGet 0 s.ms.hotCount g
  if n = 0xFFFF then s
  else
    let due := decide (s.ms.hotT ≠ 0 ∧ n + 1 = s.ms.hotT)
    { s with ms := { s.ms with
      hotCount := smSet 0 s.ms.hotCount g (n + 1)
      hotDue := if due then s.ms.hotDue ++ [(BitVec.ofNat 21 g, cx, s.fr.fnum, s.ms.hotT)] else s.ms.hotDue } }

/-- R290: every 64 B unit that an access of n bytes touches is counted. -/
def hostTouches (cx : BitVec 12) (x n : Nat) (s : State) : State :=
  (List.range ((x % 64 + n + 63) / 64)).foldl (fun s j => hostTouch cx (x / 64 * 64 + 64 * j) s) s

/-- R36, R330, R331: a posted write to host memory; it fails while bus mastering is off. -/
def hostWriteOut (cx : BitVec 12) (x : Nat) (bs : List Byte) (s : State) : State :=
  let a := x + s.ms.hostBase.toNat
  let s := hostTouches cx x bs.length s
  if s.host.bme then emit s (.hostWrite a bs) else hostFailOpen a s

/-- R317: the reads of host memory that are outstanding. -/
def hostReadsOut (s : State) : Nat := (s.host.reqs.filter fun r => r.sent && r.done.isNone).length

/-- R317, R330, R331: a read of host memory for a tile's load or a DMA channel; it fails at once while bus mastering is off, and waits
while 512 are outstanding. -/
def hostReadOut (cx : BitVec 12) (lti dma : Option (Nat × Nat)) (x len : Nat) (s : State) : State :=
  let a := x + s.ms.hostBase.toNat
  let s := hostTouches cx x len s
  let r : HostReq :=
    { tag := s.host.nextTag, write := false, lti := lti, dma := dma, addr := a, len := len, data := [],
      done := if s.host.bme then none else some (false, []), sent := decide (hostReadsOut s < 512) }
  let s := { s with host := { s.host with reqs := s.host.reqs ++ [r], nextTag := s.host.nextTag + 1 } }
  if !s.host.bme then hostFailOpen a s else if r.sent then emit s (.hostRead r.tag a len) else s

/-- R317: a read that has waited leaves when another has ended. -/
def sendHostRead (s : State) : State :=
  match s.host.reqs.find? fun r => !r.sent && r.done.isNone with
  | none => s
  | some r =>
    if 512 ≤ hostReadsOut s || !s.host.bme then s
    else emit { s with host := { s.host with reqs := s.host.reqs.map fun x => if x = r then { x with sent := true } else x } }
      (.hostRead r.tag r.addr r.len)

/-! ## Physical addresses -/

/-- What a physical address names (R32, R34). -/
inductive PaClass where
  | stacked
  | store (i : Nat) (off : Nat)
  | pad (i : Nat)
  | calicoRom (k : Nat) (off : Nat)
  | calicoRam (k : Nat) (off : Nat)
  | hostWin (x : Nat)
  | hub (x : Nat)
  | reserved
  deriving DecidableEq, Repr

/-- R32, R34: the physical memory map. -/
def paClass (pa : Nat) : PaClass :=
  if pa < 0x12000000000 then .stacked
  else if pa < 0x80000000000 then .reserved
  else if pa < 0x80400000000 then
    let i := (pa - 0x80000000000) / 0x100000
    let off := pa % 0x100000
    if 10240 ≤ i then .reserved else if off < 0xC0000 then .store i off else .pad i
  else if pa < 0x8040A000000 then
    let k := (pa - 0x80400000000) / 0x40000
    let off := pa % 0x40000
    if off < 0x20000 then .calicoRom k off else if off < 0x30000 then .calicoRam k (off - 0x20000) else .reserved
  else if 0xA0000000000 ≤ pa && pa < 0xE0000000000 then .hostWin (pa - 0xA0000000000)
  else if 0xF0000000000 ≤ pa && pa < 0xF0010000000 then .hub (pa - 0xF0000000000)
  else .reserved

/-- Physical address of an offset in a logical index's tile store (R34). -/
def storePa (i off : Nat) : Nat := 0x80000000000 + i * 0x100000 + off

/-- R241: stack of a stacked-memory address. -/
def stackOf (glob : Bool) (p : Nat) : Nat :=
  if glob then bitsOf p 15 12 else 2 * (p / 0x2400000000) + bitsOf (p % 0x2400000000) 12 12

/-- R241: stack-local address. -/
def localOf (glob : Bool) (p : Nat) : Nat :=
  if glob then (p >>> 16) * 4096 + p % 4096
  else ((p % 0x2400000000) >>> 13) * 4096 + p % 4096

/-- Where DRAM keeps the byte an address names: stacks of 72 GiB one after another. -/
def dramKey (glob : Bool) (p : Nat) : Nat := stackOf glob p * 0x1200000000 + localOf glob p

/-- R242: global channel index of a stacked-memory address. -/
def chanIdx (glob : Bool) (p : Nat) : Nat :=
  let a := localOf glob p
  64 * stackOf glob p + 16 * bitsOf a 22 21 + bitsOf a 11 8

/-- R242: channel offset of a stack-local address. -/
def chanOffset (a : Nat) : Nat := a % 256 + 256 * (bitsOf a 20 12 + 512 * (a / 0x800000))

/-- R242: rank, bank and row of a channel offset. -/
def rankBankRow (o : Nat) : Nat × Nat × Nat :=
  let r := o % 402653184
  (o / 402653184, Nat.xor (bitsOf r 14 11) (bitsOf r 18 15), r / 32768)

/-- R258: a channel group of a stack is fenced: its die is, or one of its channels. -/
def groupFenced (s : State) (stack g : Nat) : Bool :=
  (dieOf s (stack / 2)).fenced ||
  s.ms.chans.any fun e => decide (e.1 / 64 = stack) && decide (e.1 % 64 / 16 = g) && e.2.fenced

/-- R258, R259, R400: a channel group of a stack is out: it is fenced, or one of its channels is out of service. -/
def groupOut (s : State) (stack g : Nat) : Bool :=
  groupFenced s stack g ||
  s.ms.chans.any fun e => decide (e.1 / 64 = stack) && decide (e.1 % 64 / 16 = g) && e.2.out

/-- R258: whether one of the channel groups passes whose failure makes the granule of an address unavailable under the
interleave in effect. -/
def anyGroup (s : State) (p : Nat) (out : Nat → Nat → Bool) : Bool :=
  if s.fr.ilv then (List.range 16).any fun k => out k (p / 0x2000000 % 4)
  else
    let d := p / 0x2400000000
    let g := (p % 0x2400000000) / 0x400000 % 4
    out (2 * d) g || out (2 * d + 1) g

/-- R258, R259, R400: an access to the granule of an address has the result of a reserved range. -/
def paFenced (s : State) (p : Nat) : Bool := anyGroup s p (groupOut s)

/-- R258: the granule of an address is unavailable, so that it is assigned to no context. -/
def granuleFenced (s : State) (p : Nat) : Bool := anyGroup s p (groupFenced s)

/-- R415: the stack-local granules that hold part of a granule under the interleave in effect, by stack × 36,864 + granule. -/
def localGranules (s : State) (g : Nat) : List Nat :=
  if s.fr.ilv then (List.range 16).map fun k => 36864 * k + g / 16
  else
    let d := g / 73728
    [36864 * (2 * d) + g % 73728 / 2, 36864 * (2 * d + 1) + g % 73728 / 2]

/-- R415: a granule is cleared once every stack-local granule that holds part of it is. -/
def granuleCleared (s : State) (g : Nat) : Bool := (localGranules s g).all fun l => smGet false s.ms.cleared l

/-- R272: owner of a granule of 2 MiB. -/
def ownerOf (s : State) (gr : Nat) : BitVec 12 := smGet 0xFFF s.ms.owner gr

/-- R48, R55: an input range of the frame protects the address. -/
def inputHit (s : State) (p : Nat) : Bool :=
  s.fr.inputs.any fun r => decide (r.base ≤ p ∧ p < r.base + r.len * 65536)

/-- R47: the entry of a logical index in the table in effect. -/
def entryOf (s : State) (i : Nat) : FtEntry :=
  match s.fr.ft with
  | some ft => smGet FtEntry.zero ft.entries i
  | none => FtEntry.zero

/-- R55: the block of a tile-store offset is protected. -/
def tsinHit (s : State) (i off : Nat) : Bool := (entryOf s i).tsin.getLsbD (off / 0x4000)

/-- R91: Calico's working set of a tile. -/
def inCalicoSet (t : Tile) (off : Nat) : Bool := t.calen && decide (0xB0000 ≤ off ∧ off < 0xC0000)

/-! ## Routes between dies (R296, R297) -/

/-- The die after d round the ring, clockwise or not. -/
def nextDie (cw : Bool) (d : Nat) : Nat := if cw then (d + 1) % 8 else (d + 7) % 8

/-- Steps from a to b round the ring. -/
def ringSteps (cw : Bool) (a b : Nat) : Nat := if cw then (b + 8 - a) % 8 else (a + 8 - b) % 8

/-- The first hub-bridged die from d, d itself counted: the odd ones are (R294). -/
def hubDie (cw : Bool) (d : Nat) : Nat := if d % 2 = 1 then d else nextDie cw d

/-- Dies strictly between a and b round the ring. -/
def between (cw : Bool) (a b : Nat) : List Nat :=
  (List.range (ringSteps cw a b - 1)).map fun k => if cw then (a + k + 1) % 8 else (a + 7 - k) % 8

/-- A route of code 1 to 4: bridge crossings and the dies it passes through. -/
def dieRoute (code a b : Nat) : Option (Nat × List Nat) :=
  let cw := decide (code = 1 ∨ code = 3)
  if code = 1 ∨ code = 2 then some (ringSteps cw a b, between cw a b)
  else if code = 3 ∨ code = 4 then
    let e := hubDie cw a
    let x := hubDie (!cw) b
    if e = x then none
    else some (ringSteps cw a e + 2 + ringSteps cw x b, ([e, x] ++ between cw a e ++ between cw x b).filter fun d => d != a && d != b)
  else none

/-- R296, R297: a route of at most 4 crossings that no die without transit lies on. -/
def routeServes (s : State) (code a b : Nat) : Bool :=
  match dieRoute code a b with
  | some (n, ds) => decide (n ≤ 4) && ds.all fun d => (dieOf s d).transit
  | none => false

/-- R294: the place on a die of its stop towards the die before it in the ring, the die after it, or the hub. -/
inductive Stop where | before | after | hub
  deriving DecidableEq, Repr

/-- R294: the stops of the eight dies. -/
def stopPlace (d : Nat) : Stop → Nat × Nat
  | .before => ([(0, 9), (0, 0), (0, 0), (7, 0), (7, 0), (7, 9), (7, 9), (0, 9)] : List (Nat × Nat)).getD d (0, 0)
  | .after => ([(7, 0), (7, 0), (7, 9), (7, 9), (0, 9), (0, 9), (0, 0), (0, 0)] : List (Nat × Nat)).getD d (0, 0)
  | .hub => ([(0, 0), (7, 9), (0, 0), (0, 9), (0, 0), (0, 0), (0, 0), (7, 0)] : List (Nat × Nat)).getD d (0, 0)

/-- Hops between two stops of a die. -/
def stopHops (d : Nat) (p q : Stop) : Nat :=
  let (x, y) := stopPlace d p
  let (u, v) := stopPlace d q
  (x - u) + (u - x) + (y - v) + (v - y)

/-- R295: hops on the hub's switch between the stops of two bridged dies. -/
def hubHops (e x : Nat) : Nat := if (e + 4) % 8 = x then 19 else 10

/-- R295, R296: the largest h of a route: 16 hops on the first and on the last die, and those on the way. -/
def routeHops (code a b : Nat) : Nat :=
  let cw := decide (code = 1 ∨ code = 3)
  let (p, q) := if cw then (Stop.before, Stop.after) else (Stop.after, Stop.before)
  let along := fun (u v : Nat) => ((between cw u v).map fun d => stopHops d p q).sum
  if code ≤ 2 then 32 + along a b
  else
    let e := hubDie cw a
    let x := hubDie (!cw) b
    32 + along a e + (if e = a then 0 else stopHops e p .hub) + hubHops e x + (if x = b then 0 else stopHops x .hub q) + along x b

/-- R296: the routes between two dies that serve, by code. -/
def servingRoutes (s : State) (a b : Nat) : List Nat := ([1, 2, 3, 4] : List Nat).filter fun c => routeServes s c a b

/-- R296: the default route: of the fewest crossings, then of the smaller largest h, then of the lower code. -/
def defaultRoute (s : State) (a b : Nat) : Option Nat :=
  let cost := fun (c : Nat) => (match dieRoute c a b with | some (n, _) => n | none => 99) * 1000 + routeHops c a b
  match servingRoutes s a b with
  | [] => none
  | c :: cs => some (cs.foldl (fun best c => if cost c < cost best then c else best) c)

/-- R296: the route between two dies that object 0x2120 sets, or the default one. -/
def routeCode (s : State) (a b : Nat) : Option Nat :=
  let c := (smGet 0 s.tw.dieRoutes (8 * a + b)).toNat
  if c = 0 then defaultRoute s a b else some c

/-- R297: no route joins the two dies. -/
def unreachable (s : State) (a : Option Nat) (b : Nat) : Bool :=
  match a with
  | none => false
  | some a => decide (a ≠ b) && (routeCode s a b).isNone

/-- Who accesses. `calOwn` names the tile whose Calico routine makes the access (R91), `die` the compute die that asks; `lc` is the
latency-critical mark (R247, R265). -/
structure Acc where
  write : Bool
  serge : Bool
  cxid : BitVec 12
  calOwn : Option Nat
  bar : Bool
  die : Option Nat
  lc : Bool := false
  deriving DecidableEq, Repr

/-- R34, R272: the window check of a tile store. -/
def windowOk (s : State) (a : Acc) : Bool :=
  a.serge || (match s.fr.ft with | some ft => ft.cxid == a.cxid | none => false)

/-- Key of a stacked line in `bad`, or of a tile-store word. -/
def badKey (s : State) (pa : Nat) : Nat :=
  match paClass pa with
  | .stacked => dramKey s.fr.ilv pa / 64 * 64
  | _ => pa / 8 * 8

/-- R24, R32, R258, R259, R297: an access to the byte has the result of a reserved range: no unit is there, or its unit is fenced,
unavailable, out of service or unreachable from the die that asks. -/
def reservedByte (s : State) (die : Option Nat) (pa : Nat) : Bool :=
  match paClass pa with
  | .stacked => paFenced s pa || unreachable s die (stackOf s.fr.ilv pa / 2)
  | .store i _ => !idxAvail s i || unreachable s die (i / 1280)
  | .pad i => !idxAvail s i || unreachable s die (i / 1280)
  | .calicoRom k _ => (dieOf s (k / 80)).fenced || unreachable s die (k / 80)
  | .calicoRam k _ => (dieOf s (k / 80)).fenced || unreachable s die (k / 80)
  | .hostWin _ => false
  | .hub _ => false
  | .reserved => true

/-- Why an access to one byte is refused, as XCS.INFO codes it (R223): 0x02 reserved, fenced or unavailable, 0x03
ownership or world, 0x05 Calico, 0x04 input protection, 0x07 uncorrectable. When several hold for a byte they are taken
in this order (assumption 21). -/
def byteRefusal (s : State) (a : Acc) (pa : Nat) : Option (BitVec 8) :=
  if reservedByte s a.die pa then some 2
  else match paClass pa with
    | .stacked =>
      if !a.serge && ownerOf s (pa / 0x200000) != a.cxid then some 3
      else if a.write && inputHit s pa then some 4
      else if !a.write && s.ms.bad.contains (badKey s pa) then some 7
      else none
    | .store i off =>
      if !windowOk s a then some 3
      else if inCalicoSet (tileOf s i) off && a.calOwn != some i then some 5
      else if a.write && tsinHit s i off then some 4
      else if !a.write && s.ms.bad.contains (badKey s pa) then some 7
      else none
    | .pad _ => if !windowOk s a then some 3 else none
    | .calicoRom _ _ => if a.write then some 3 else none
    | .calicoRam _ _ => if a.write && !a.serge then some 3 else none
    | .hostWin _ => if a.bar then some 2 else none
    | .hub _ => if a.bar then some 2 else if a.serge then none else some 3
    | .reserved => some 2

/-- R35: a single access is checked as a whole; the reason is that of the lowest refused byte. -/
def refusal (s : State) (a : Acc) (pa : Nat) : Nat → Option (BitVec 8)
  | 0 => none
  | n + 1 => match byteRefusal s a pa with
    | some r => some r
    | none => refusal s a (pa + 1) n

/-- Memory key of a byte that the sparse map holds. -/
def memKey (s : State) (pa : Nat) : Nat :=
  match paClass pa with
  | .stacked => dramKey s.fr.ilv pa
  | _ => pa

/-- R253: the error of the line at a DRAM place as a read delivers it; an uncorrectable line is delivered to nobody. -/
def lineErr (s : State) (k : Nat) : List (BitVec 32) := if s.ms.bad.contains k then [] else smGet [] s.ms.errs k

/-- R253: the byte of a line as a read delivers it. -/
def deliveredByte (e : List (BitVec 32)) (n : Nat) (b : Byte) : Byte :=
  match e with
  | [] => b
  | e => b ^^^ BitVec.ofNat 8 (residue e / 2 ^ (8 * n))

/-- R249: the bytes of a line that the parts of its pending merge have written, by bit. -/
def partMask (ch : Chan) (k : Nat) : Nat :=
  ch.merges.foldl (fun a m => if m.key = k then Nat.lor a ((2 ^ m.req.len - 1) * 2 ^ (m.req.pa % 64)) else a) 0

/-- R248, R253: the error that a read meets at a byte: none where it takes the byte from a pending part of the line. -/
def readErr (s : State) (pa : Nat) : List (BitVec 32) :=
  match lineErr s (badKey s pa) with
  | [] => []
  | e => if (partMask (chanOf s (chanIdx s.fr.ilv pa)) (badKey s pa)).testBit (pa % 64) then [] else e

/-- The byte at a physical address (R32, R34): windows past a store read 0, ROM and hub contents are the vendor's. -/
def readByte (s : State) (pa : Nat) : Byte :=
  match paClass pa with
  | .stacked => deliveredByte (readErr s pa) (pa % 64) (smGet 0 s.ms.mem (memKey s pa))
  | .store _ _ => smGet 0 s.ms.mem pa
  | .calicoRam _ _ => smGet 0 s.ms.mem pa
  | .calicoRom _ off => Config.calicoRom off
  | .hub x => Config.hubSpace x
  | _ => 0

def readBytes (s : State) (pa n : Nat) : List Byte := (List.range n).map fun j => readByte s (pa + j)

def readWord (s : State) (pa : Nat) : Word := wOf (leNat (readBytes s pa 8))

/-- Puts one byte into memory, unchecked; the window past a store and ROM discard it. -/
def putByte (s : State) (pa : Nat) (b : Byte) : State :=
  match paClass pa with
  | .stacked => { s with ms := { s.ms with mem := smSet 0 s.ms.mem (memKey s pa) b } }
  | .store _ _ => { s with ms := { s.ms with mem := smSet 0 s.ms.mem pa b } }
  | .calicoRam _ _ => { s with ms := { s.ms with mem := smSet 0 s.ms.mem pa b } }
  | _ => s

def putBytes : State → Nat → List Byte → State
  | s, _, [] => s
  | s, pa, b :: bs => putBytes (putByte s pa b) (pa + 1) bs

/-- R255, R405, R456: a corrected read is counted by channel, lane and stack, and logged once a frame for its channel. -/
def noteCorrected (s : State) (c j pa : Nat) : State :=
  let ch := chanOf s c
  let s := setChan s c { ch with corrected := smSet 0 ch.corrected j (satAdd (2 ^ 32 - 1) (smGet 0 ch.corrected j) 1) }
  let st := c / 64
  let s := { s with ms := { s.ms with correctedReads := smSet 0 s.ms.correctedReads st (smGet 0 s.ms.correctedReads st + 1) } }
  logOnce 0x20 1 2 c (j + 32 * b2n (decide (ch.spareLane = some j))) (wOf pa) s

/-- R255: counts an uncorrectable read of a channel. -/
def countUncorrectable (s : State) (c : Nat) : State :=
  let ch := chanOf s c
  let s := setChan s c { ch with uncorrected := satAdd (2 ^ 32 - 1) ch.uncorrected 1 }
  let st := c / 64
  { s with ms := { s.ms with uncorrectableReads := smSet 0 s.ms.uncorrectableReads st (smGet 0 s.ms.uncorrectableReads st + 1) } }

/-- R252, R253: the line at a DRAM place is stored with an error, or without one. -/
def setErr (s : State) (k : Nat) (e : List (BitVec 32)) : State :=
  let bad := s.ms.bad.filter fun x => x != k
  { s with ms := { s.ms with errs := smSet [] s.ms.errs k e, bad := if eccOf e = .uncorrectable then k :: bad else bad } }

/-- R255: the read of a stacked line by its address is counted when it is corrected. -/
def noteRead (s : State) (pa : Nat) : State :=
  match eccOf (lineErr s (badKey s pa)) with
  | .corrected j => noteCorrected s (chanIdx s.fr.ilv pa) j pa
  | _ => s

/-- R394, R405: a tile-store word with a single-bit error is corrected as it is read and written back: counted, and logged once a frame for
its tile. -/
def correctWord (s : State) (w : Nat) : State :=
  match paClass w with
  | .store i off =>
    logOnce 0x13 1 0 i 1 (wOf off) { s with
      ms := { s.ms with soft := s.ms.soft.filter fun x => x != w }
      rel := { s.rel with tsCorrections := s.rel.tsCorrections + 1 } }
  | _ => s

/-- R394: the tile-store words among n bytes that hold a single-bit error are corrected. -/
def correctWords (s : State) (pa n : Nat) : State :=
  (s.ms.soft.filter fun w => decide (w < pa + n ∧ pa < w + 8)).foldl correctWord s

/-- R255: the corrected lines of stacked memory that a read of n bytes meets are counted. -/
def noteLines (s : State) (pa n : Nat) : State :=
  if s.ms.errs.isEmpty || n = 0 then s
  else (List.range ((pa % 64 + n + 63) / 64)).foldl (fun s j =>
    match paClass (pa / 64 * 64 + 64 * j) with
    | .stacked => noteRead s (pa / 64 * 64 + 64 * j)
    | _ => s) s

/-- R255, R394: the corrected lines and tile-store words that a read of n bytes meets are counted. -/
def noteReads (s : State) (pa n : Nat) : State := correctWords (noteLines s pa n) pa n

/-- R248: a queued read of a line that is about to be written keeps the line as it stands. -/
def snapReads (s : State) (k : Nat) (c pa : Nat) : State :=
  let ch := chanOf s c
  if ch.rq.all fun q => q.key != k || q.snap.isSome then s
  else
    let line := readBytes { s with ms := { s.ms with errs := [] } } (pa / 64 * 64) 64
    let e := smGet [] s.ms.errs k
    setChan s c { ch with rq := ch.rq.map fun q => if q.key = k ∧ q.snap = none then { q with snap := some (line, e), parts := partMask ch k } else q }

/-- R242, R244: a request as its controller accepts it, under the interleave in effect: line, bank of a rank, row. -/
def asAccepted (s : State) (seq : Nat) (q : MemReq) : QReq :=
  let (rank, bank, row) := rankBankRow (chanOffset (localOf s.fr.ilv q.pa))
  { req := q, seq := seq, upto := seq, key := badKey s q.pa, bank := 16 * rank + bank, row := row, old := [], served := false,
    snap := none, parts := 0 }

/-- R249: the read of a line's merge has been served. -/
def mergeServed (ch : Chan) (k : Nat) : Bool := ch.merges.any fun m => m.key == k && m.served

/-- R249: a part of a line joins the merge of it that is pending. -/
def joinMerge (s : State) (c k pa : Nat) (cx : BitVec 12) (bs : List Byte) : State :=
  let ch := chanOf s c
  let q : QReq :=
    { asAccepted s ch.nextSeq
        { path := 0, pa := pa, len := bs.length, write := true, cxid := cx, serge := false, lc := false, det := false, data := bs } with
      old := if s.ms.bad.contains k then [] else smRead 0 s.ms.mem (k + pa % 64) bs.length
      served := mergeServed ch k }
  setChan s c { ch with nextSeq := ch.nextSeq + 1, merges := ch.merges ++ [q] }

/-- R249, R253: the line at an address is written back as it was delivered, without its error. -/
def rewriteLine (s : State) (k pa : Nat) : State :=
  match lineErr s k with
  | [] => s
  | _ => putBytes (setErr (noteRead s pa) k []) (pa / 64 * 64) (readBytes s (pa / 64 * 64) 64)

/-- Writes the part of an access that lies in one stacked line (R248, R249, R254): a whole line replaces the line, its error and a
pending merge of it; a part of an uncorrectable line is lost, counted and logged beside the uncorrectable read (R255); another part is merged with what the line
holds, and joins a merge that is pending. -/
def writeLine (s : State) (cx : BitVec 12) (pa : Nat) (bs : List Byte) : State :=
  let k := badKey s pa
  let c := chanIdx s.fr.ilv pa
  let s := snapReads s k c pa
  let ch := chanOf s c
  let merging := ch.merges.any fun m => m.key == k
  if bs.length = 64 then
    let s := if merging then setChan s c { ch with merges := ch.merges.filter fun m => m.key != k } else s
    putBytes (if s.ms.bad.contains k || !s.ms.errs.isEmpty then setErr s k [] else s) pa bs
  else if s.ms.bad.contains k then
    if merging then joinMerge s c k pa cx bs
    else
      let s := logErr 0x21 3 2 c cx.toNat (wOf pa) (countUncorrectable s c)
      logErr 0x23 3 2 c cx.toNat (wOf pa) { s with ms := { s.ms with lostPartial := s.ms.lostPartial + 1 } }
  else if merging then putBytes (joinMerge s c k pa cx bs) pa bs
  else putBytes (if s.ms.errs.isEmpty then s else rewriteLine s k pa) pa bs

/-- R394: a whole aligned tile-store word among n bytes written replaces what it held, its error with it. -/
def wholeWords (s : State) (pa n : Nat) : State :=
  let whole := fun (w : Nat) => decide (0x80000000000 ≤ w) && decide (pa ≤ w ∧ w + 8 ≤ pa + n)
  { s with ms := { s.ms with bad := s.ms.bad.filter fun w => !whole w, soft := s.ms.soft.filter fun w => !whole w } }

/-- Writes bytes that lie in tile-store words: a whole aligned word replaces what it held, a word written in part is read first (R394). -/
def writeStore (s : State) (pa : Nat) (bs : List Byte) : State :=
  putBytes (correctWords (wholeWords s pa bs.length) pa bs.length) pa bs

/-- Performs a granted write, cut at 64 B lines of stacked memory; one to the host window leaves as one write of its size (R330). `fuel`
bounds the number of pieces. -/
def performWrite (cx : BitVec 12) : Nat → State → Nat → List Byte → State
  | 0, s, _, _ => s
  | f + 1, s, pa, bs =>
    if bs.isEmpty then s
    else
      let n := 64 - pa % 64
      match paClass pa with
      | .stacked => performWrite cx f (writeLine s cx pa (bs.take n)) (pa + n) (bs.drop n)
      | .hostWin x => hostWriteOut cx x bs s
      | _ => performWrite cx f (writeStore s pa (bs.take n)) (pa + n) (bs.drop n)

/-- R254, R255: the uncorrectable lines among n bytes are counted and logged as reads of a context. -/
def noteBads (s : State) (cx : BitVec 12) (pa n : Nat) : State :=
  if s.ms.bad.isEmpty || n = 0 then s
  else (List.range ((pa % 64 + n + 63) / 64)).foldl (fun s j =>
    let a := pa / 64 * 64 + 64 * j
    match paClass a with
    | .stacked =>
      if s.ms.bad.contains (badKey s a) then
        logErr 0x21 3 2 (chanIdx s.fr.ilv a) cx.toNat (wOf a) (countUncorrectable s (chanIdx s.fr.ilv a)) else s
    | _ => s) s

/-- A checked write of a whole access (R35). -/
def checkedWrite (s : State) (a : Acc) (pa : Nat) (bs : List Byte) : Except (BitVec 8) State :=
  match refusal s { a with write := true } pa bs.length with
  | some r => .error r
  | none => .ok (performWrite a.cxid (bs.length + 1) s pa bs)

/-- A checked read of a whole access (R35). -/
def checkedRead (s : State) (a : Acc) (pa n : Nat) : Except (BitVec 8) (List Byte) :=
  match refusal s { a with write := false } pa n with
  | some r => .error r
  | none => .ok (readBytes s pa n)

/-- R394, R405: counts and logs an uncorrectable read of tile i's store. The manual gives no code for the reader: a free
value (assumption 7). -/
def noteStore (i off : Nat) (s : State) : State :=
  let (r, s) := takeFree s
  logErr 0x14 3 0 i r.toNat (wOf off) { s with rel := { s.rel with tsUncorrectable := s.rel.tsUncorrectable + 1 } }

/-- R254: counts and logs an uncorrectable read of stacked memory, or of a tile store. -/
def noteUncorrectable (s : State) (cx : BitVec 12) (pa : Nat) : State :=
  match paClass pa with
  | .stacked =>
    let c := chanIdx s.fr.ilv pa
    logErr 0x21 3 2 c cx.toNat (wOf pa) (countUncorrectable s c)
  | .store i off => noteStore i off s
  | _ => s

/-- The context that Muslin code of a frame runs in (R263), or 0 in the Serge world. -/
def cxidOf (s : State) (serge : Bool) : BitVec 12 :=
  if serge then 0 else match s.fr.ft with | some ft => ft.cxid | none => 0xFFF

/-- What a tile's code is as an accessor. -/
def accOf (s : State) (i : Nat) (serge inlib write : Bool) : Acc :=
  { write := write, serge := serge, cxid := cxidOf s serge, calOwn := if inlib then some i else none, bar := false,
    die := some (i / 1280) }

/-! ## Trace -/

/-- R406: the die in whose buffer a record waits, 8 the hub's: sources 0, 1, 3 and 8 name a tile, 2 a region, 6 a channel. -/
def traceDie (src idx : Nat) : Nat :=
  if src = 0 ∨ src = 1 ∨ src = 3 ∨ src = 8 then idx / 1280 else if src = 2 then idx / 20 else if src = 6 then idx / 128 else 8

/-- R406: the records that the dies have made in the running cycle. -/
def traceWaiting (s : State) : SMap Nat := if s.rel.traceStamp = s.fr.cyc then s.rel.traceNow else []

/-- R406: writes a trace record at its place in the ring, by an ordinary Serge-world write, which is refused where the ring is
protected (R55); a refused record keeps its place in the ring and counts as written (DESIGN CHOICE, assumption 132). The event code and
the two details are not given by the manual: free values (assumption 18). -/
def traceWrite (src idx : Nat) (s : State) : State :=
  let (e, s) := takeFree s
  let (d1, s) := takeFree s
  let (d2, s) := takeFree s
  let rec0 := leBytes 1 src ++ leBytes 1 e.toNat ++ leBytes 2 (idx % 2 ^ 14) ++ leBytes 4 d1.toNat
    ++ leBytes 8 s.fr.cyc.toNat ++ leBytes 8 s.fr.fnum.toNat ++ leBytes 8 d2.toNat
  let size := 2 ^ s.rel.traceExp.toNat
  let pa := s.rel.traceBase.toNat + 32 * s.rel.tracePos % size
  let a : Acc := { write := true, serge := true, cxid := 0, calOwn := none, bar := false, die := none }
  let s := match checkedWrite s a pa rec0 with | .ok s => s | .error _ => s
  { s with rel := { s.rel with
      tracePos := s.rel.tracePos + 1
      traceBytes := s.rel.traceBytes + 32
      traceOver := if size ≤ 32 * s.rel.tracePos then s.rel.traceOver + 1 else s.rel.traceOver } }

/-- R406: a trace record of a source when it is enabled and the ring is in place. A die buffers 4 KiB of records, which leave at the
end of the cycle; one that finds the buffer full is dropped and counted (assumption 18). -/
def trace (src idx : Nat) (s : State) : State :=
  if !s.rel.traceMask.getLsbD src || s.rel.traceOwner = 0xFFF then s
  else
    let d := traceDie src idx
    let w := traceWaiting s
    let n := smGet 0 w d
    let s := { s with rel := { s.rel with traceStamp := s.fr.cyc, traceNow := smSet 0 w d (n + 1) } }
    if 128 ≤ n then { s with rel := { s.rel with traceDropped := s.rel.traceDropped + 1 } } else traceWrite src idx s

/-- R333: the message of a vector leaves, or a masked one sets its pending bit. Messages need MSI-X and bus mastering. -/
def msixSend (v : Nat) (s : State) : State :=
  let masked := s.host.msixMask || (smGet (1#128 <<< 96) s.host.msixTable v).getLsbD 96
  if !s.host.msixEn || !s.host.bme then s
  else if masked then { s with host := { s.host with msixPend := s.host.msixPend ||| (1#64 <<< v) } }
  else trace 9 v (emit s (.msix (BitVec.ofNat 6 v)))

/-- R332, R333: a cause of vector v. Vectors 0 to 8 need their enable, 9 to 15 are never raised. -/
def raiseIrq (v : Nat) (s : State) : State :=
  if (v < 9 && !s.host.irqen.getLsbD v) || (9 ≤ v && decide (v < 16)) then s
  else
    let h := hostNow s
    let s := { s with host := { h with nowIrq := h.nowIrq ||| (1#64 <<< v) } }
    if s.host.irqst.getLsbD v then s
    else msixSend v { s with host := { s.host with irqst := s.host.irqst ||| (1#64 <<< v), nowSent := s.host.nowSent ||| (1#64 <<< v) } }

/-! ## Flags, counters and signals -/

/-- R93: flags F0 to F31 as logical index i sees them. -/
def flagsOf (s : State) (i : Nat) : BitVec 32 :=
  let c := clusterOf s (i / 16)
  (c.f ++ (tileOf s i).f)

/-- The record of the running cycle; one of an earlier cycle is empty. -/
def sameNow (s : State) (o : CycleOps) : CycleOps :=
  if o.stamp = s.fr.cyc then o else { CycleOps.zero with stamp := s.fr.cyc }

/-- R17, R96: the flags after a change in a cycle: a set wins over every clear of the cycle. -/
def flagsAfter (o : CycleOps) (f mask : BitVec 32) (set : Bool) : BitVec 32 :=
  if set then f ||| mask else f &&& ~~~(mask &&& ~~~o.sets)

/-- R17, R96: the record of the cycle after a change made for tile i. -/
def flagsNoted (o : CycleOps) (i : Nat) (mask : BitVec 32) (set : Bool) : CycleOps :=
  if set then { o with sets := o.sets ||| mask } else { o with clrs := (i, mask) :: o.clrs }

/-- R96: the clears a change makes lost, by tile: those that a set meets, or its own that meet a set. -/
def clearsLost (o : CycleOps) (i : Nat) (mask : BitVec 32) (set : Bool) : List (Nat × BitVec 32) :=
  (if set then o.clrs.map fun c => (c.1, c.2 &&& mask) else [(i, mask &&& o.sets)]).filter fun c => c.2 != 0

/-- R96: records lost clears in WS.lostclr of the tiles that issued them. -/
def noteLost (s : State) (l : List (Nat × BitVec 32)) : State :=
  l.foldl (fun s c => modTile s c.1 fun t => { t with lostclr := t.lostclr ||| c.2 }) s

/-- Sets or clears the flags of a mask for logical index i (R93, R96). -/
def changeFlags (s : State) (i : Nat) (mask : BitVec 32) (set : Bool) : State :=
  let own := mask &&& 0xFFFFFF
  let sh := mask &&& 0xFF000000
  let t := tileOf s i
  let o := sameNow s t.same
  let f := flagsAfter o (t.f.setWidth 32) own set
  let s := setTile s i { t with f := f.setWidth 24, same := flagsNoted o i own set }
  let s := noteLost s (clearsLost o i own set)
  if sh = 0 then s else
  let c := clusterOf s (i / 16)
  let o := sameNow s c.same
  let f := flagsAfter o (c.f ++ 0#24) sh set
  let s := setCluster s (i / 16) { c with f := f.extractLsb' 24 8, same := flagsNoted o i sh set }
  noteLost s (clearsLost o i sh set)

/-- R93: counter Cn as logical index i sees it. -/
def counterOf (s : State) (i n : Nat) : BitVec 16 :=
  if n < 24 then smGet 0 (tileOf s i).c n else smGet 0 (clusterOf s (i / 16)).c n

/-- The record of the cycle for counter n as logical index i sees it. -/
def sameOf (s : State) (i n : Nat) : CycleOps :=
  sameNow s (if n < 24 then (tileOf s i).same else (clusterOf s (i / 16)).same)

/-- Gives counter Cn a value and its record of the cycle. -/
def putCounter (s : State) (i n : Nat) (v : BitVec 16) (o : CycleOps) : State :=
  if n < 24 then modTile s i fun t => { t with c := smSet 0 t.c n v, same := o }
  else
    let c := clusterOf s (i / 16)
    setCluster s (i / 16) { c with c := smSet 0 c.c n v, same := o }

/-- R93, R96: the result of a cycle's changes to a counter, saturated. -/
def bumpValue (b : Bump) : BitVec 16 :=
  let x := (b.base.toNat : Int) + b.net
  if x < 0 then 0 else if 0xFFFF < x then 0xFFFF else BitVec.ofInt 16 x

/-- R93, R96: whether the net change of the cycle saturated the counter. -/
def bumpSat (b : Bump) : Bool :=
  let x := (b.base.toNat : Int) + b.net
  decide (x < 0) || decide (0xFFFF < x)

/-- R93: the saturation bits of the tiles for which the cycle's changes were made. -/
def noteSat (s : State) (b : Bump) : State :=
  b.who.foldl (fun s w => modTile s w.1 fun t =>
    { t with csat := if bumpSat b || w.2 then t.csat ||| (1#32 <<< b.n) else t.csat &&& ~~~(1#32 <<< b.n) }) s

/-- Puts the changes of a cycle to counter n in force. -/
def putBump (s : State) (i : Nat) (o : CycleOps) (b : Bump) : State :=
  noteSat (putCounter s i b.n (bumpValue b) { o with bumps := b :: o.bumps.filter fun x => x.n != b.n }) b

/-- R93, R96: a move to a counter's port, applied before the increments and decrements of its cycle. -/
def setCounter (s : State) (i n : Nat) (v : BitVec 16) : State :=
  let o := sameOf s i n
  match o.bumps.find? fun b => b.n == n with
  | some b => putBump s i o { b with base := v }
  | none => putCounter s i n v o

/-- R93, R96: an increment or decrement made for logical index i: the net sum of the cycle is applied, and then saturation,
which sets the counter's bit in WS.csat of the tiles it was made for. -/
def bumpCounter (s : State) (i n : Nat) (inc : Bool) : State :=
  let o := sameOf s i n
  let b := match o.bumps.find? fun b => b.n == n with
    | some b => b
    | none => { n := n, base := counterOf s i n, net := 0, who := [] }
  let who := if b.who.any fun w => w.1 == i then b.who else (i, (tileOf s i).csat.getLsbD n) :: b.who
  putBump s i o { b with net := b.net + (if inc then 1 else -1), who := who }

/-- R93: the counters whose net change in the running cycle, made for tile i, saturated. -/
def satNow (s : State) (i : Nat) (o : CycleOps) : BitVec 32 :=
  (sameNow s o).bumps.foldl (fun a b =>
    if bumpSat b && b.who.any fun w => w.1 == i then a ||| (1#32 <<< b.n) else a) 0

/-- R96: the flags whose clear made for tile i in the running cycle a set of the cycle has met. -/
def lostNow (s : State) (i : Nat) (o : CycleOps) : BitVec 32 :=
  let o := sameNow s o
  o.clrs.foldl (fun a c => if c.1 == i then a ||| (c.2 &&& o.sets) else a) 0

/-- Writes 1s to WS.lostclr (R7): a bit that the running cycle sets stays set. -/
def clearLost (s : State) (i : Nat) (mask : BitVec 32) : State :=
  let now := lostNow s i (clusterOf s (i / 16)).same ||| lostNow s i (tileOf s i).same
  modTile s i fun t => { t with lostclr := t.lostclr &&& ~~~mask ||| (t.lostclr &&& now) }

/-- Writes 1s to WS.csat (R7): a bit that the running cycle's net change sets stays set. -/
def clearSat (s : State) (i : Nat) (mask : BitVec 32) : State :=
  let drop := fun (o : CycleOps) => { o with
    bumps := o.bumps.map fun b => { b with
      who := b.who.map fun w => if w.1 == i && mask.getLsbD b.n then (w.1, false) else w } }
  let c := clusterOf s (i / 16)
  let now := satNow s i c.same ||| satNow s i (tileOf s i).same
  let s := setCluster s (i / 16) { c with same := drop c.same }
  modTile s i fun t => { t with csat := t.csat &&& ~~~mask ||| (t.csat &&& now), same := drop t.same }

/-- R17, R96: tile i issues: a new cycle of the tile, and of its cluster when the tile has issued in the running one or when
`again` says that the word has seen a change of it (assumption 35). -/
def beginCycle (s : State) (i : Nat) (again : Bool) : State :=
  let c := clusterOf s (i / 16)
  let o := sameNow s c.same
  let fresh : CycleOps := { CycleOps.zero with stamp := s.fr.cyc, issued := [i] }
  let s := setCluster s (i / 16) { c with
    same := if again || o.issued.contains i then fresh else { o with issued := i :: o.issued } }
  modTile s i fun t => { t with same := fresh }

/-- R63: an effect outside the tile is counted; on replay the first E are treated as done. -/
def withEffect (s : State) (i : Nat) (act : State → State) : State :=
  let t := tileOf s i
  let s' := setTile s i { t with effects := t.effects + 1 }
  if t.effects < t.skip then s' else act s'

/-- Makes the change a completion target names (R68: [0] SGOP, [5:1] SGID, [6] SGK, [7] SGEN; R280, R300). -/
def changeFor (s : State) (i : Nat) (sg : BitVec 8) : State :=
  let n := (sg.extractLsb' 1 5).toNat
  if !sg.getLsbD 7 then s
  else if sg.getLsbD 6 then bumpCounter s i n (sg.getLsbD 0)
  else changeFlags s i (1#32 <<< n) (sg.getLsbD 0)

/-- Makes the change of a word's signal. A change of a shared flag or counter is an effect (R63). -/
def changeTarget (s : State) (i : Nat) (sg : BitVec 8) : State :=
  if sg.getLsbD 7 && decide (24 ≤ (sg.extractLsb' 1 5).toNat) then withEffect s i fun s => changeFor s i sg
  else changeFor s i sg

/-- R95: an operation of word `wid` has completed; the last one fires the word's signal. -/
def opDone (s : State) (i wid : Nat) : State :=
  let t := tileOf s i
  match t.words.find? fun w => w.1 == wid with
  | none => s
  | some (_, n, sg) =>
    if n ≤ 1 then changeTarget (setTile s i { t with words := t.words.filter fun w => w.1 != wid }) i sg
    else setTile s i { t with words := t.words.map fun w => if w.1 == wid then (w.1, w.2.1 - 1, w.2.2) else w }

/-- The signal of word `wid` never fires (R83, R155, R458). -/
def opLost (s : State) (i wid : Nat) : State :=
  modTile s i fun t => { t with words := t.words.filter fun w => w.1 != wid }

/-! ## Banks -/

def bankOf (t : Tile) : Bank :=
  match t.cur with
  | .primary => t.prim
  | .muslin => t.mban
  | .serge => t.sban

def setBank (t : Tile) (b : Bank) : Tile :=
  match t.cur with
  | .primary => { t with prim := b }
  | .muslin => { t with mban := b }
  | .serge => { t with sban := b }

def modBank (t : Tile) (f : Bank → Bank) : Tile := setBank t (f (bankOf t))

/-- R80: g0 reads 0. -/
def gReg (b : Bank) (n : Nat) : Word := if n = 0 then 0 else smGet 0 b.g n

/-- R80: a write to g0 is discarded. -/
def setG (b : Bank) (n : Nat) (v : Word) : Bank := if n = 0 then b else { b with g := smSet 0 b.g n v }

def serge (t : Tile) : Bool := t.world == .serge

/-- R219: SYS.wl. -/
def wlOf (t : Tile) : Word := bAt t.sup 0 ||| bAt (serge t) 1

/-- What is left of a result in flight after d cycles: the value to write, and the rest (R10, R75, R81). -/
def landOne (d : Nat) (p : Option (Word × Nat)) (old : Word) : Word × Option (Word × Nat) :=
  match p with
  | none => (old, none)
  | some (v, n) => if n ≤ d then (v, none) else (old, some (v, n - d))

/-- R10, R75, R81: d cycles pass for the results in flight: AL0 and AL1 results whose cycles are over land, the flags of
the last word become visible, products come d cycles nearer. -/
def landAlu (d : Nat) (b : Bank) : Bank :=
  { b with
    al0r := (landOne d b.al0p b.al0r).1
    al0p := (landOne d b.al0p b.al0r).2
    al1r := (landOne d b.al1p b.al1r).1
    al1p := (landOne d b.al1p b.al1r).2
    flags := (match b.flagsNext with | some f => f | none => b.flags)
    flagsNext := none
    mulp := b.mulp.map fun p => { p with rem := p.rem - d } }

/-- R10: the cycles since results in flight last came nearer. Two words of one modelled cycle issue one cycle apart
(assumption 101). The cycles from a return to the resumed word, that of its issue with them, are none (R75, R230). -/
def cyclesPassed (s : State) (i : Nat) : Nat :=
  let t := tileOf s i
  let n := (s.fr.cyc - t.landed).toNat
  if t.resume = 0 then max 1 n else n - t.resume

/-- R82: a product is written into MUL.lo and MUL.hi; its word has one operation less to wait for. -/
def landProduct (i : Nat) (s : State) (p : Product) : State :=
  opDone (modTile s i fun t => modBank t fun b =>
    { b with mullo := p.val.extractLsb' 0 64, mulhi := p.val.extractLsb' 64 64 }) i p.wid

/-- R10, R75, R81, R82: an issue cycle begins for the tile's current bank: products whose cycles are over land, then the ALUs. -/
def landAll (s : State) (i : Nat) : State :=
  let d := cyclesPassed s i
  let ps := (bankOf (tileOf s i)).mulp
  let s := (ps.filter fun p => decide (p.rem ≤ d)).foldl (landProduct i) s
  modTile s i fun t =>
    { modBank t fun b => landAlu d { b with mulp := ps.filter fun p => decide (d < p.rem) } with
      landed := s.fr.cyc, resume := 0 }

/-- R82, R95: the products that become readable in the issue cycle that begins now have made their change in the cycle before. -/
def signalMuls (s : State) (i : Nat) : State :=
  let d := cyclesPassed s i
  let now := fun (p : Product) => decide (p.rem ≤ d) && p.wid != 0
  let ps := (bankOf (tileOf s i)).mulp.filter now
  let s := modTile s i fun t => modBank t fun b =>
    { b with mulp := b.mulp.map fun p => if now p then { p with wid := 0 } else p }
  ps.foldl (fun s p => opDone s i p.wid) s

/-- R391 to R393, R409: the operations of some retries are complete: those retries have succeeded. -/
def passRetry (s : State) (i : Nat) (p : Retry → Bool) : State :=
  let n := ((tileOf s i).retry.filter p).length
  if n = 0 then s
  else
    let s := modTile s i fun t => { t with retry := t.retry.filter fun r => !p r }
    { s with rel := { s.rel with retriesOk := s.rel.retriesOk + n } }

/-- R393: the retries of a product that is no longer in flight. -/
def productRetry (t : Tile) (r : Retry) : Bool :=
  r.unit == 4 && !(t.prim.mulp ++ t.mban.mulp ++ t.sban.mulp).any fun p => p.wid == r.op

/-- R82, R393: the oldest product lands in its cycle, three after its trigger; its retries have succeeded. -/
def landMul (s : State) (i : Nat) : State :=
  match (bankOf (tileOf s i)).mulp with
  | [] => s
  | p :: ps =>
    if p.rem ≤ cyclesPassed s i then
      let s := landProduct i (modTile s i fun t => modBank t fun b => { b with mulp := ps }) p
      passRetry s i (productRetry (tileOf s i))
    else s

/-- R393: the retries of a scalar unit, or of a Calico word, whose operation is over when the next word issues; a product's when it is no longer
in flight. -/
def scalarRetry (t : Tile) (r : Retry) : Bool :=
  [1, 2, 3, 9].contains r.unit ||
    productRetry t r

/-- R393: the retries of the engine operation of a word. -/
def engineRetry (units : List (BitVec 4)) (wid : Nat) (r : Retry) : Bool := units.contains r.unit && r.op == wid

/-- R60: the function is declared wedged: record, interrupt, emergency. -/
def declareWedged (s : State) (idx : Nat) : State :=
  raiseIrq 1 (emergency 1 idx { s with fr := { s.fr with wedged := true } })

/-- R399: the service level changes: interrupt, emergency, value. -/
def setService (s : State) (lvl : BitVec 8) : State :=
  if s.rel.svc = lvl then s
  else raiseIrq 8 (emergency 4 lvl.toNat { s with rel := { s.rel with svc := lvl } })

end Sys2Proof.Machine
end

