-- ==== Sys2Proof/Machine/Access.lean ====
section
/-! DEFINITION. Translation of virtual addresses: walks, TLBs, the checks of a leaf, and the checks of an access that a
tile makes at issue (10_translation.md, 08_exceptions.md R458). -/

namespace Sys2Proof.Machine

open Sys2Proof

/-- Bits of the page offset of a leaf of a level (R265). -/
def pageBits (level : Nat) : Nat := if level = 0 then 16 else if level = 1 then 21 else 30

/-- R265, R267: one table read of a walk: refused, uncorrectable or outside stacked memory ends the walk; the address of
an uncorrectable read is named. The read is marked latency-critical. -/
def walkRead (s : State) (die : Option Nat) (cx : BitVec 12) (serge : Bool) (pa : Nat) : Except (Option Nat) Nat :=
  match paClass pa with
  | .stacked =>
    (match checkedRead s { write := false, serge := serge, cxid := cx, calOwn := none, bar := false, die := die, lc := true } pa 8 with
     | .ok bs => .ok (leNat bs)
     | .error r => .error (if r = 7 then some pa else none))
  | _ => .error none

/-- R266: a table entry as a leaf of a level and virtual address. -/
def leafOf (cx : BitVec 12) (va level e : Nat) : TlbEntry :=
  { cxid := cx, vpage := va >>> pageBits level, level := level, pbase := bitsOf e 43 8 * 256, w := e.testBit 2,
    x := e.testBit 3, u := e.testBit 4, lc := e.testBit 5, nc := e.testBit 6 }

/-- R265 to R267: walks from the table of a level; `n` is the level the entry belongs to. -/
def walkFrom (s : State) (die : Option Nat) (cx : BitVec 12) (serge : Bool) (va : Nat) : Nat → Nat → Except (Option Nat) TlbEntry
  | n, table =>
    let idx := if n = 3 then bitsOf va 51 39 else if n = 2 then bitsOf va 38 30 else if n = 1 then bitsOf va 29 21
               else bitsOf va 20 16
    match walkRead s die cx serge (table + 8 * idx) with
    | .error x => .error x
    | .ok e =>
      let addr := bitsOf e 43 8 * 256
      if !e.testBit 0 then .error none
      else match n with
        | 0 => if e.testBit 1 && addr % 0x10000 = 0 then .ok (leafOf cx va 0 e) else .error none
        | m + 1 =>
          if e.testBit 1 then
            (if m = 2 then .error none
             else if addr % 2 ^ pageBits (m + 1) = 0 then .ok (leafOf cx va (m + 1) e) else .error none)
          else if addr % (if m = 0 then 256 else 4096) = 0 then walkFrom s die cx serge va m addr
          else .error none

/-- R264, R267: the walk of an address in a context; an error is a translation fault. -/
def walk (s : State) (die : Option Nat) (cx : BitVec 12) (serge : Bool) (va : Nat) : Except (Option Nat) TlbEntry :=
  let root := smGet 0 s.ms.roots cx.toNat
  if root = 0 then .error none else walkFrom s die cx serge va 3 (root - 1)

/-- R254: a walk that met an uncorrectable table read is counted and logged. -/
def noteWalk (s : State) (cx : BitVec 12) (bad : Option Nat) : State :=
  match bad with
  | some pa => noteUncorrectable s cx pa
  | none => s

/-- R265: the addresses of the table entries that a walk reads, from the table of a level. -/
def walkAddrs (s : State) (va : Nat) : Nat → Nat → List Nat
  | n, table =>
    let pa := table + 8 * (if n = 3 then bitsOf va 51 39 else if n = 2 then bitsOf va 38 30 else if n = 1 then bitsOf va 29 21
                           else bitsOf va 20 16)
    let e := leNat (readBytes s pa 8)
    match n with
    | 0 => [pa]
    | m + 1 => if e.testBit 0 && !e.testBit 1 then pa :: walkAddrs s va m (bitsOf e 43 8 * 256) else [pa]

/-- R255: the corrected lines that a walk's table reads meet are counted. -/
def countWalk (s : State) (cx : BitVec 12) (va : Nat) : State :=
  let root := smGet 0 s.ms.roots cx.toNat
  if s.ms.errs.isEmpty || root = 0 then s else (walkAddrs s va 3 (root - 1)).foldl (fun s pa => noteReads s pa 8) s

/-- Whether an entry translates an address of a context. -/
def tlbMatch (cx : BitVec 12) (va : Nat) (e : TlbEntry) : Bool := e.cxid == cx && e.vpage == va >>> pageBits e.level

def tlbFind (l : List TlbEntry) (cx : BitVec 12) (va : Nat) : Option TlbEntry := l.find? (tlbMatch cx va)

/-- R269: puts an entry at the front of a 32-entry TLB, most recently used first. -/
def tlbPut (l : List TlbEntry) (e : TlbEntry) : List TlbEntry := (e :: l.filter fun x => x != e).take 32

/-- R270: puts an entry into the second-level TLB: 8 ways of the set its page number selects. -/
def l2Put (l : List TlbEntry) (e : TlbEntry) : List TlbEntry :=
  let l := l.filter fun x => x != e
  let same := l.filter fun x => x.vpage % 256 == e.vpage % 256
  if same.length < 8 then e :: l
  else match same.getLast? with
    | some old => e :: l.filter fun x => x != old
    | none => e :: l

/-- The physical address an entry gives. -/
def tlbPa (e : TlbEntry) (va : Nat) : Nat := e.pbase + va % 2 ^ pageBits e.level

/-- What an access is for the checks of R268. -/
inductive Use where | fetch | load | store | dmaRead | dmaWrite
  deriving DecidableEq, Repr

/-- R268: the checks of a leaf in order; reason 1 page permission, 6 execute-write. -/
def leafCheck (e : TlbEntry) (sup : Bool) (u : Use) (patch : Bool) : Option (BitVec 8) :=
  if !e.u && !sup then some 1
  else match u with
    | .fetch => if e.x then none else some 1
    | .load => none
    | .dmaRead => none
    | .store => if e.x then (if patch then none else some 6) else if e.w then none else some 1
    | .dmaWrite => if e.w && !e.x then none else some 1

/-- R122, R123: an address lies in the patched range. -/
def inPatch (t : Tile) (va : Nat) : Bool :=
  match t.cache.patch with
  | some (b, n) => decide (b ≤ va ∧ va < b + n)
  | none => false

/-- R116: the scratch range of a tile. -/
def scratchLo (t : Tile) : Nat := t.cache.sbase.toNat * 32768
def scratchHi (t : Tile) : Nat := scratchLo t + 8192 * t.cache.scr.toNat

/-- R116: 0 outside scratch, 1 inside, 2 straddling its boundary. -/
def scratchClass (t : Tile) (va n : Nat) : Nat :=
  let ins := fun (a : Nat) => decide (scratchLo t ≤ a ∧ a < scratchHi t)
  let k := ((List.range n).filter fun j => ins (va + j)).length
  if k = 0 then 0 else if k = n then 1 else 2

/-- R458: the check of one byte of a translated access made when the first-level TLB hits, or at the end of a walk: the
reserved range with what has its result (R35, R258, R297, R400), the deterministic-mode class, and for a store Calico's working set and
TSIN of the own tile store. -/
def physByte (s : State) (i : Nat) (w : Who) (store : Bool) (pa : Nat) : Option (BitVec 8) :=
  let t := tileOf s i
  if reservedByte s (some (i / 1280)) pa then some 2 else match paClass pa with
    | .hostWin _ => if t.det && !store then some 0x0A else none
    | .hub _ => if t.det && !store then some 0x0A else none
    | .store j off =>
      if store && j == i then
        (if inCalicoSet t off && !w.inlib then some 5 else if tsinHit s i off then some 4 else none)
      else none
    | _ => none

/-- The accessor that an access of a tile's code is. -/
def accWho (s : State) (i : Nat) (w : Who) (store : Bool) : Acc := accOf s i w.serge w.inlib store

/-- R35, R458: the checks of `physByte` over n bytes. Where one refuses the access, the lowest refused byte gives the reason, whatever
check refuses that byte; `low` is the reason of the bytes before. -/
def physCheck (s : State) (i : Nat) (w : Who) (store : Bool) (low : Option (BitVec 8)) (pa : Nat) : Nat → Option (BitVec 8)
  | 0 => none
  | n + 1 =>
    let r := physByte s i w store pa
    let low := match low with
      | some c => some c
      | none => match r with
        | some c => some c
        | none => byteRefusal s (accWho s i w store) pa
    if r.isSome then low else physCheck s i w store low (pa + 1) n

/-- Result of looking an access up in the first-level TLB. -/
inductive Look where
  | miss
  | hit (tr : Trans)
  | refused (reason : BitVec 8)
  deriving DecidableEq, Repr

/-- Checks and translates an access of n bytes from the leaves of its first and last byte. `patch`: a store issued while the patch
window was open for stores (R122, R123). -/
def joinPages (s : State) (i : Nat) (w : Who) (store patch : Bool) (va n : Nat) (e1 e2 : TlbEntry) : Look :=
  let t := tileOf s i
  let u := if store then Use.store else Use.load
  let n1 := min n (2 ^ pageBits e1.level - va % 2 ^ pageBits e1.level)
  let two := decide (n1 < n)
  let pa := tlbPa e1 va
  let pa2 := if two then tlbPa e2 (va + n1) else pa + n1
  let low := refusal s (accWho s i w store) pa n1
  match leafCheck e1 w.sup u (inPatch t va && patch) with
  | some r => .refused r
  | none =>
  match physCheck s i w store none pa n1 with
  | some r => .refused r
  | none =>
  match (if two then leafCheck e2 w.sup u (inPatch t (va + n1) && patch) else none) with
  | some r => .refused (low.getD r)
  | none =>
  match (if two then physCheck s i w store low pa2 (n - n1) else none) with
  | some r => .refused r
  | none => .hit (.phys pa pa2 n1 (!e1.nc) (!(if two then e2.nc else e1.nc)) (e1.lc || (two && e2.lc)))

/-- R269, R458: an access of n bytes against the tile's data TLB, with the TLB after the use. -/
def lookData (s : State) (i : Nat) (w : Who) (store patch : Bool) (va n : Nat) : Look × List TlbEntry :=
  let t := tileOf s i
  let cx := cxidOf s w.serge
  match tlbFind t.dtlb cx va, tlbFind t.dtlb cx (va + n - 1) with
  | some e1, some e2 => (joinPages s i w store patch va n e1 e2, tlbPut (tlbPut t.dtlb e2) e1)
  | _, _ => (.miss, t.dtlb)

/-- R270, R271: the leaf of an address for a tile: second-level TLB in normal mode, else a walk; both TLBs are filled.
`code` selects the instruction TLB. -/
def fillTlb (s : State) (i : Nat) (serge : Bool) (code : Bool) (va : Nat) : Option TlbEntry × State :=
  let t := tileOf s i
  let cx := cxidOf s serge
  let first := if code then t.itlb else t.dtlb
  let put := fun (s : State) (e : TlbEntry) => modTile s i fun t =>
    if code then { t with itlb := tlbPut t.itlb e } else { t with dtlb := tlbPut t.dtlb e }
  match tlbFind first cx va with
  | some e => (some e, put s e)
  | none =>
    let c := clusterOf s (i / 16)
    match (if t.det then none else tlbFind c.l2 cx va) with
    | some e => (some e, put (setCluster s (i / 16) { c with l2 := l2Put c.l2 e }) e)
    | none =>
      let s := countWalk s cx va
      match walk s (some (i / 1280)) cx serge va with
      | .error bad => (none, noteWalk s cx bad)
      | .ok e =>
        let s := if t.det then s else setCluster s (i / 16) { c with l2 := l2Put c.l2 e }
        (some e, put s e)

/-- The pieces of a translated access: physical address and length. -/
def pieces (tr : Trans) (n : Nat) : List (Nat × Nat) :=
  match tr with
  | .phys pa pa2 n1 _ _ _ => if n1 < n then [(pa, n1), (pa2, n - n1)] else [(pa, n)]
  | _ => []

/-- Whether two byte ranges share a byte. -/
def overlap (a n b m : Nat) : Bool := decide (a < b + m ∧ b < a + n)

/-- Whether two translated accesses share a physical byte. -/
def piecesMeet (a b : List (Nat × Nat)) : Bool := a.any fun x => b.any fun y => overlap x.1 x.2 y.1 y.2

/-- R129: the destination an address names for the limit of 16: a tile store or a memory channel. -/
def destOf (s : State) (pa : Nat) : Option Nat :=
  match paClass pa with
  | .stacked => some (100000 + chanIdx s.fr.ilv pa)
  | .store i _ => some i
  | .pad i => some i
  | _ => none

/-- R129: the memory channels of the table reads of the walk of an address (assumption 112). -/
def walkDests (s : State) (srg : Bool) (va : Nat) : List Nat :=
  let root := smGet 0 s.ms.roots (cxidOf s srg).toNat
  if root = 0 then []
  else ((walkAddrs s va 3 (root - 1)).filter fun pa => paClass pa == .stacked).map fun pa => 100000 + chanIdx s.fr.ilv pa

/-- R129: the destinations of an access of n bytes: those of its pieces' first and last bytes, or those of the walks it waits for
(assumption 112). -/
def destsOf (s : State) (srg : Bool) (va n : Nat) (tr : Trans) : List Nat :=
  match tr with
  | .walking => walkDests s srg va ++ (if va / 65536 = (va + n - 1) / 65536 then [] else walkDests s srg (va + n - 1))
  | tr => (pieces tr n).flatMap fun p => (destOf s p.1).toList ++ (destOf s (p.1 + p.2 - 1)).toList

/-- R129: deterministic requests outstanding at a destination. -/
def detOutstanding (s : State) (d : Nat) : Nat :=
  s.tiles.foldl (fun a e =>
    let t := e.2
    if !t.det then a else
    let hit := fun (x : SbEntry) =>
      x.kind == .store && !x.overload && (destsOf s x.who.serge x.va x.data.length x.tr).contains d
    a + (t.loads.filter fun l => l.fwd.isNone && !l.overload && (destsOf s l.who.serge l.va l.size l.tr).contains d).length
      + (t.sb.filter hit).length + (t.handed.filter hit).length
      + b2n (t.fetchWalk && !t.fetchOver && (walkDests s (serge t) t.pc).contains d)) 0

/-- R129, R456: the limit that a request to the destinations meets as it arrives: 1 at a tile store, 2 at a memory channel, 0 none. -/
def limitMet (s : State) (i : Nat) (ds : List Nat) : Nat :=
  if (tileOf s i).det then
    (match ds.find? fun d => decide (16 ≤ detOutstanding s d) with
     | some d => if d < 100000 then 1 else 2
     | none => 0)
  else 0

/-- R129: an access of n bytes of a deterministic-mode tile arrives at a destination that holds 16 requests. -/
def overLimit (s : State) (i : Nat) (srg : Bool) (va n : Nat) (tr : Trans) : Nat := limitMet s i (destsOf s srg va n tr)

/-- R119: what a translated access is delivered to, piece by piece: a tile store or its window, a memory channel, a Calico window, the
host window, hub space or the scratch. -/
def pathOf (s : State) (pa : Nat) : Nat :=
  match paClass pa with
  | .stacked => 100000 + chanIdx s.fr.ilv pa
  | .store i _ => i
  | .pad i => i
  | .calicoRom k _ => 200000 + k
  | .calicoRam k _ => 200000 + k
  | .hostWin _ => 300000
  | .hub _ => 300001
  | .reserved => 300002

/-- R119: the destinations of an access of n bytes. -/
def pathsOf (s : State) (n : Nat) (tr : Trans) : List Nat :=
  match tr with
  | .scratch => [300003]
  | tr => (pieces tr n).flatMap fun p => [pathOf s p.1, pathOf s (p.1 + p.2 - 1)]

/-- R119: whether two translated accesses are delivered to one destination. -/
def samePath (s : State) (n : Nat) (tr : Trans) (n' : Nat) (tr' : Trans) : Bool :=
  (pathsOf s n tr).any fun d => (pathsOf s n' tr').contains d

end Sys2Proof.Machine
end

