-- ==== Sys2Proof/Machine/Caches.lean ====
section
/-! DEFINITION. The L1 caches and the victim cache of a tile: lookup, fill, recall, prefetch, invalidation (R110 to R118). -/

namespace Sys2Proof.Machine

open Sys2Proof

/-- Address of the 64 B line of a byte. -/
def lineOf (a : Nat) : Nat := a / 64 * 64

/-- R110: set of a line. -/
def setIx (a : Nat) : Nat := bitsOf a 12 6

def findLine (l : List CLine) (a : Nat) : Option CLine := l.find? fun c => c.addr == lineOf a

/-- R110: a use makes a line the most recently used. -/
def touchLine (l : List CLine) (c : CLine) : List CLine := c :: l.filter fun x => x.addr != c.addr

/-- R110, R116: puts a line into its set among the first `ways` ways; the least recently used line of a full set leaves. -/
def putLine (ways : Nat) (l : List CLine) (a : Nat) (d : List Byte) : List CLine × Option CLine :=
  let l := l.filter fun c => c.addr != a
  let same := l.filter fun c => setIx c.addr == setIx a
  match (List.range ways).find? fun w => same.all fun c => c.way != w with
  | some w => (⟨a, w, d⟩ :: l, none)
  | none => match same.getLast? with
    | some c => (⟨a, c.way, d⟩ :: l.filter fun x => x.addr != c.addr, some c)
    | none => (l, none)

/-- R115: data-cache ways not converted to scratch. -/
def dataWays (k : CacheSt) : Nat := 4 - k.scr.toNat

/-- R114: a replaced line enters the victim cache, first in first out among 8. -/
def victimPut (code : Bool) (o : Option CLine) (v : List VLine) : List VLine :=
  match o with
  | none => v
  | some c =>
    let v := v ++ [⟨code, c.addr, c.data⟩]
    if 8 < v.length then v.drop 1 else v

/-- A line comes into one of the caches. -/
def fillLine (k : CacheSt) (code : Bool) (a : Nat) (d : List Byte) : CacheSt :=
  if code then
    let (l, o) := putLine 4 k.ilines a d
    { k with ilines := l, vlines := victimPut true o k.vlines }
  else
    let (l, o) := putLine (dataWays k) k.dlines a d
    { k with dlines := l, vlines := victimPut false o k.vlines }

/-- R114: recalls a victim line into its cache, exchanged with the line that the recall evicts, which takes its place in the order
of the victim cache (DESIGN CHOICE, assumption 110). -/
def recallLine (k : CacheSt) (code : Bool) (v : VLine) : CacheSt :=
  let (l, o) := if code then putLine 4 k.ilines v.addr v.data else putLine (dataWays k) k.dlines v.addr v.data
  let vl := match o with
    | some c => k.vlines.map fun x => if x == v then ⟨code, c.addr, c.data⟩ else x
    | none => k.vlines.filter fun x => x != v
  if code then { k with ilines := l, vlines := vl } else { k with dlines := l, vlines := vl }

/-- R117: a whole-cache invalidation of the cache is in progress; bit 0 instruction, 1 data, 2 victim. -/
def invalidatingBit (k : CacheSt) (b : Nat) : Bool := k.invalidating.any fun e => e.1.getLsbD b

/-- A line is in a cache or asked for. One that only the victim cache holds is not (R113; DESIGN CHOICE, assumption 110). -/
def linePresent (k : CacheSt) (code : Bool) (a : Nat) : Bool :=
  (findLine (if code then k.ilines else k.dlines) a).isSome || k.reqs.any fun r => r.code == code && r.addr == lineOf a

/-- R113: with PFEN a demand miss also asks for the next line of the same 64 KiB. -/
def askNext (k : CacheSt) (code : Bool) (a : Nat) : CacheSt :=
  let n := lineOf a + 64
  if k.pfen && decide (n % 0x10000 ≠ 0) && !linePresent k code n then { k with reqs := k.reqs ++ [⟨code, n, true⟩] } else k

/-- R110: a demand miss asks stacked memory for its line, or takes over the prefetch of it that is on its way; a line that a demand
has asked for already is only waited for. -/
def askLine (k : CacheSt) (code : Bool) (a : Nat) : CacheSt :=
  match k.reqs.find? fun r => r.code == code && r.addr == lineOf a with
  | some r =>
    if r.prefetch then askNext { k with reqs := k.reqs.map fun x => if x == r then { r with prefetch := false } else x } code a
    else k
  | none => askNext { k with reqs := k.reqs ++ [⟨code, lineOf a, false⟩] } code a

/-- The data of a line held for a lookup, recalled from the victim cache if it is there; the recall is a miss (R113, R114). -/
def lookLine (k : CacheSt) (code : Bool) (a : Nat) : Option (List Byte × CacheSt) :=
  match findLine (if code then k.ilines else k.dlines) a with
  | some c =>
    some (c.data, if code then { k with ilines := touchLine k.ilines c } else { k with dlines := touchLine k.dlines c })
  | none =>
    if invalidatingBit k 2 then none
    else match k.vlines.find? fun v => v.code == code && v.addr == lineOf a with
      | some v => some (v.data, askNext (recallLine k code v) code a)
      | none => none

/-- R118: a store made while the data cache is enabled updates the line that holds its bytes. It is no use for the replacement
(R110; DESIGN CHOICE, assumption 110). -/
def storeLines (k : CacheSt) (pa : Nat) (bs : List Byte) : CacheSt :=
  let upd := fun (a : Nat) (d : List Byte) =>
    (List.range 64).map fun j => if pa ≤ a + j ∧ a + j < pa + bs.length then bs.getD (a + j - pa) 0 else d.getD j 0
  { k with
    dlines := k.dlines.map fun c => if overlap c.addr 64 pa bs.length then { c with data := upd c.addr c.data } else c
    vlines := k.vlines.map fun v =>
      if !v.code && overlap v.addr 64 pa bs.length then { v with data := upd v.addr v.data } else v }

/-- R117: drops the lines of the selected caches. -/
def dropCaches (k : CacheSt) (sel : BitVec 3) : CacheSt :=
  { k with
    ilines := if sel.getLsbD 0 then [] else k.ilines
    dlines := if sel.getLsbD 1 then [] else k.dlines
    vlines := if sel.getLsbD 2 then [] else k.vlines }

/-- R117: drops one line from the selected caches. -/
def dropLine (k : CacheSt) (sel : BitVec 3) (a : Nat) : CacheSt :=
  { k with
    ilines := if sel.getLsbD 0 then k.ilines.filter fun c => c.addr != lineOf a else k.ilines
    dlines := if sel.getLsbD 1 then k.dlines.filter fun c => c.addr != lineOf a else k.dlines
    vlines := if sel.getLsbD 2 then k.vlines.filter fun v => v.addr != lineOf a else k.vlines }

/-- R104: the caches at a tick; the staged header gives the enables and the scratch. -/
def cachesAtTick (scr : BitVec 2) (cdis : Bool) : CacheSt := { CacheSt.zero with ien := !cdis, den := !cdis, scr := scr }

/-! ## Access class at issue -/

/-- R110, R111, R115: whether a piece of an access is classed as cache when it issues: the data cache is in use, its page is cacheable,
and it lies in stacked memory. -/
def classCached (w : Who) (pa : Nat) (cacheable : Bool) : Bool := cacheable && w.den && paClass pa == .stacked

/-- The pieces of a translated access that the data cache is used for. -/
def cachedPieces (tr : Trans) (n : Nat) : List (Nat × Nat) :=
  match tr with
  | .phys pa pa2 n1 c1 c2 _ =>
    (if c1 then [(pa, min n n1)] else []) ++ (if c2 && decide (n1 < n) then [(pa2, n - n1)] else [])
  | _ => []

/-- The lines that pieces of an access touch. -/
def pieceLines (ps : List (Nat × Nat)) : List Nat :=
  ps.flatMap fun p => if lineOf p.1 = lineOf (p.1 + p.2 - 1) then [lineOf p.1] else [lineOf p.1, lineOf (p.1 + p.2 - 1)]

/-- R110, R114: a demand access to a line: a hit or a recall makes it the most recent, a miss asks for it. While the whole
cache is being invalidated nothing fills (R117). -/
def demandLine (k : CacheSt) (a : Nat) : CacheSt :=
  if invalidatingBit k 1 then k
  else match lookLine k false a with
    | some (_, k) => k
    | none => askLine k false a

def isHostPa (pa : Nat) : Bool := match paClass pa with | .hostWin _ => true | _ => false

/-- R36, R330: the reads that a load of the host window sends, one for each piece. -/
def hostLoads (s : State) (i : Nat) (l : Load) : State :=
  (pieces l.tr l.size).foldl (fun s p => match paClass p.1 with
    | .hostWin x => hostReadOut (cxidOf s l.who.serge) (some (i, l.seq)) none x p.2 s
    | _ => s) s

/-- R35: a load of the host window asks the host for its pieces once, after the tile's earlier stores to the host window and after its earlier
loads that may reach it (R119), and only
when no other byte of it is refused. -/
def askHost (s : State) (i : Nat) (l : Load) : State :=
  let t := tileOf s i
  let host := (pieces l.tr l.size).filter fun p => isHostPa p.1
  let others := (pieces l.tr l.size).filter fun p => !isHostPa p.1
  let a := accOf s i l.who.serge l.who.inlib false
  let ahead := (t.sb ++ t.handed).any fun e =>
    e.kind == .store && decide (e.seq < l.seq) && (e.tr == .walking || (pieces e.tr e.data.length).any fun p => isHostPa p.1)
  let first := t.loads.any fun x =>
    decide (x.seq < l.seq) && (x.tr == .walking ||
      ((pieces x.tr x.size).any fun p => isHostPa p.1) && !s.host.reqs.any fun r => r.lti == some (i, x.seq))
  if host.isEmpty || ahead || first || (s.host.reqs.any fun r => r.lti == some (i, l.seq)) ||
      (others.any fun p => (refusal s a p.1 p.2).isSome) then s
  else hostLoads s i l

/-- The translation of a load with its cache class (R111, R115). -/
def classTr (w : Who) (tr : Trans) : Trans :=
  match tr with
  | .phys pa pa2 n c1 c2 lc => .phys pa pa2 n (classCached w pa c1) (classCached w pa2 c2) lc
  | x => x

/-- The translation of a store with its cache class: one that hits a line writes it, whatever its own page says (R111). -/
def classStore (w : Who) (tr : Trans) : Trans :=
  match tr with
  | .phys pa pa2 n _ _ lc => .phys pa pa2 n (classCached w pa true) (classCached w pa2 true) lc
  | x => x

/-- The translation without the data cache. -/
def uncached (tr : Trans) : Trans :=
  match tr with
  | .phys pa pa2 n _ _ lc => .phys pa pa2 n false false lc
  | x => x

/-- A load whose address is translated starts: its class is fixed, its lines and host reads are asked for. -/
def startLoad (s : State) (i : Nat) (l : Load) : Load × State :=
  let l := { l with tr := classTr l.who l.tr }
  if l.fwd.isSome || l.overload then (l, s)
  else
    let lines := pieceLines (cachedPieces l.tr l.size)
    let s := if lines.isEmpty then s else modTile s i fun t => { t with cache := lines.foldl demandLine t.cache }
    (l, askHost s i l)

end Sys2Proof.Machine
end

