-- ==== Sys2Proof/Machine/Hints.lean ====
section
/-! DEFINITION. What throttling holds (R386), and how the power management unit takes power hints in the gap (R376 to R378). -/

namespace Sys2Proof.Machine

open Sys2Proof

/-! ## What the reasons hold (R386) -/

/-- R372: the ceilings of a region with the reasons they have (R386). -/
def reasonCeilings (s : State) (r : Nat) : List Hold :=
  let d := r / 20
  [⟨if s.pw.preloaded then 5 else 1, 0, 0, s.pw.qc⟩, ⟨2, 2, r, (regionOf s r).qth⟩, ⟨4, 1, d, (dieOf s d).qcur⟩,
   ⟨6, 0, 0, s.pw.qext⟩] ++ (if (dieOf s d).clamped then [⟨3, 1, d, 16⟩] else [])

/-- R386: the ceilings that hold a region in a cycle. -/
def regionHolds (s : State) (r : Nat) : List Hold :=
  let cs := reasonCeilings s r
  let q := cs.foldl (fun a c => min a c.q) 64
  cs.filter fun c => decide (c.q < 64) && c.q == q

/-- R382, R386: memory slot limits below 8. -/
def memoryHolds (s : State) : List Hold :=
  (if s.pw.m < 8 then [⟨1, 0, 0, s.pw.m⟩] else [])
    ++ ((List.range 16).filter fun k => smGet false s.pw.stackLimit k).map fun k => ⟨2, 3, k, 4⟩

/-- Joins a hold to a list: one for each reason, scope and index, with the lowest ceiling. -/
def joinHold (l : List Hold) (h : Hold) : List Hold :=
  match l.find? fun x => x.reason == h.reason && x.scope == h.scope && x.index == h.index with
  | some x => if x.q ≤ h.q then l else h :: l.erase x
  | none => h :: l

/-- What the reasons hold in the running cycle. -/
def holdsNow (s : State) : List Hold := (List.range 160).flatMap (regionHolds s) ++ memoryHolds s

/-- What the reasons have held in some cycle of the running microsecond. -/
def allHolds (s : State) : List Hold := (s.pw.seen ++ holdsNow s).foldl joinHold []

/-- R386: a ceiling is about to change within the microsecond: what holds in its cycles so far is kept. -/
def noteHolds (s : State) : State := { s with pw := { s.pw with seen := allHolds s } }

/-! ## Hints -/

/-- R44, R376: the first 200 ns of a gap, 478 cycles of the tile clock. -/
def hintsOpen (s : State) : Bool := s.fr.inGap && decide ((s.fr.cyc - s.fr.gapCyc).toNat < 478)

/-- R20, R376: the standing hint of a region after one more, by expected power. -/
def betterHint (old new : Nat) : Nat :=
  let p := fun (h : Nat) => (h - 1) % 16 * (if 16 < h then 103 else 94)
  if old = 0 ∨ p old < p new then new else old

/-- R376: the hints of a region are taken in the gap of frame n. -/
def takeHints (n : Nat) (r : Region) : Region :=
  { r with
    hintsNew := []
    hints := r.hintsNew.foldl (fun m h =>
      let x := h.toNat
      let f := n + x % 16 + 1
      smSet 0 m f (betterHint (smGet 0 m f) (1 + bitsOf x 7 4 + 16 * bitsOf x 8 8))) r.hints }

/-- R376: 15 × the expected power of a hint in mW. -/
def hintPower (h : Nat) : Nat := (h - 1) % 16 * (if 16 < h then 10300 else 9400)

/-- R437: the value of an object that takes effect at the coming tick. -/
def comingValue (s : State) (idx sub v : Nat) : Nat :=
  match (s.fr.tl.filter fun w => w.idx.toNat == idx && w.sub.toNat == sub).getLast? with
  | some w => w.v.toNat
  | none => v

/-- R377: PM for frame m, in units of 2^-32 W / 15,000. -/
def expectedPm (s : State) (m : Nat) : Nat :=
  (List.range 160).foldl (fun a r =>
    let h := smGet 0 (regionOf s r).hints m
    a + (if h = 0 then 15000 * smGet 0 s.pw.gapRegion r else 2 ^ 32 * hintPower h)) 0

/-- R377, R437: the ceiling that the hints of frame m ask for, under the cap of that frame. -/
def preloadFor (s : State) (m : Nat) : Option Nat :=
  let pm := expectedPm s m
  let cap := comingValue s 0x3000 0 s.dict.cap.toNat
  let excess : Int := 15000 * (65536 * (s.pw.gapP : Int) - s.pw.gapPm - 2 ^ 32 * cap) + pm
  if 0 < excess ∧ 0 < pm then some (max 1 (64 - ceilDiv (excess.toNat * 64) pm)) else none

/-- R378: the last frame of the next 16 for which a die expects at least 8/15 of full rate. -/
def raiseUntil (s : State) (n d : Nat) : Option Nat :=
  let high := fun (h : Nat) => decide (0 < h ∧ 8 ≤ (h - 1) % 16)
  ((List.range 16).filter fun k => (List.range 20).any fun j =>
    high (smGet 0 (regionOf s (20 * d + j)).hints (n + 1 + k))).getLast?.map fun k => n + 1 + k

/-- R378, R444: the rail of a die is raised, or its raise extended; not when the table holds fewer than eight regulators. -/
def raiseRail (n : Nat) (s : State) (d : Nat) : State :=
  match (if comingValue s 0x3016 0 s.pw.railRaise.toNat = 1 ∧ 8 ≤ s.dict.regulators.length then raiseUntil s n d else none) with
  | none => s
  | some f =>
    let x := dieOf s d
    match x.raised with
    | some g => setDie s d { x with raised := some (max f g) }
    | none => emit (setDie s d { x with raised := some f }) (.smbusRaise (BitVec.ofNat 3 d) true)

/-- R44, R376 to R378: the power management unit takes the hints. -/
def gapPower (s : State) : State :=
  let n := s.fr.fnum.toNat
  let s := { s with regions := smMap Region.zero (takeHints n) s.regions }
  let s := { s with pw := { s.pw with preload := preloadFor s (n + 1) } }
  (List.range 8).foldl (raiseRail n) s

end Sys2Proof.Machine
end

