-- ==== Sys2Proof/Machine/Exc.lean ====
section
/-! DEFINITION. Exceptions: taking one, pushing and popping frames, the double fault, halting, returning, interrupts that
qualify, asynchronous faults (08_exceptions.md). -/

namespace Sys2Proof.Machine

open Sys2Proof

/-- A precise exception met by a word (R457): class in the order of R457, slot, vector, INFO, XFA, slots that caused it. -/
structure Pexc where
  rank : Nat
  slot : Nat
  vec : Nat
  info : Nat
  fa : Word
  slots : Nat
  deriving DecidableEq, Repr

/-- What an exception entry records: vector, INFO, XFA, XPC, slots, asynchronous, second word of a pair. -/
structure Cause where
  vec : Nat
  info : Nat
  fa : Word
  pc : Nat
  slots : Nat
  async : Bool
  dual : Bool
  deriving DecidableEq, Repr

/-- Whether a world is the Serge world. -/
def isS : World → Bool
  | .serge => true
  | .muslin => false

def bankCode : BankId → Nat
  | .primary => 0
  | .muslin => 1
  | .serge => 2

def bankOfCode (n : Nat) : BankId := if n = 0 then .primary else if n = 1 then .muslin else .serge

/-- The bank of an identifier. -/
def bankAt (t : Tile) : BankId → Bank
  | .primary => t.prim
  | .muslin => t.mban
  | .serge => t.sban

def setBankAt (t : Tile) (k : BankId) (b : Bank) : Tile :=
  match k with
  | .primary => { t with prim := b }
  | .muslin => { t with mban := b }
  | .serge => { t with sban := b }

/-- Who the tile's code is now. -/
def whoOf (t : Tile) : Who := { serge := serge t, sup := t.sup, inlib := (bankOf t).inlib, bank := t.cur, den := t.cache.den && !t.det }

/-- R228: XST of an entry from the present state. -/
def entryXst (t : Tile) (psh nr : Bool) : Word :=
  wlOf t ||| (wlOf t <<< 2) ||| wOf (bankCode t.cur * 16) ||| bAt psh 6 ||| bAt nr 7 ||| bAt (bankOf t).inlib 8

/-- R229: XCS. -/
def causeXcs (c : Cause) : Word := wOf (c.vec + c.info * 256 + c.slots * 65536) ||| bAt c.dual 20 ||| bAt c.async 21

/-- The record of the current handler, if one runs (R227). -/
def curRec (t : Tile) : Option XRec :=
  match t.cur with
  | .primary => none
  | .muslin => some t.exc.recM
  | .serge => some t.exc.recS

def setCurRec (t : Tile) (r : XRec) : Tile :=
  match t.cur with
  | .primary => t
  | .muslin => { t with exc := { t.exc with recM := r } }
  | .serge => { t with exc := { t.exc with recS := r } }

/-! ## The frame of a push (R233) -/

def wBytes (x : Word) : List Byte := leBytes 8 x.toNat

/-- R233: DIV.st as the frame holds it. -/
def divStOf (b : Bank) : Word := bAt b.div.isSome 0 ||| bAt b.divDz 1 ||| bAt b.divRst 2

/-- R233: an open loop level, or 16 zero bytes. Level 0 is the outermost (assumption 23). -/
def loopBytes (b : Bank) (k : Nat) : List Byte :=
  match b.loops.reverse[k]? with
  | some l => leBytes 6 (l.start / 16) ++ leBytes 6 (l.last / 16) ++ leBytes 4 l.count.toNat
  | none => leBytes 16 0

def remOf (p : Option (Word × Nat)) : Nat := match p with | some (_, n) => n % 4 | none => 0
def valOf (p : Option (Word × Nat)) : Word := match p with | some (v, _) => v | none => 0
def mulRem (b : Bank) (k : Nat) : Nat := match b.mulp[k]? with | some p => p.rem % 4 | none => 0
def mulVal (b : Bank) (k : Nat) : BitVec 128 := match b.mulp[k]? with | some p => p.val | none => 0

/-- R233: the 1,024 B frame of a bank and its record. -/
def frameBytes (b : Bank) (r : XRec) : List Byte :=
  ((List.range 63).map fun k => wBytes (gReg b (k + 1))).flatten
  ++ wBytes (wOf b.flags.toNat)
  ++ wBytes b.al0o ++ wBytes b.al0r ++ wBytes b.al1o ++ wBytes b.al1r
  ++ wBytes b.mulo ++ wBytes b.mullo ++ wBytes b.mulhi
  ++ wBytes b.divo ++ wBytes b.divd ++ wBytes b.divq ++ wBytes b.divrem
  ++ wBytes (divStOf b ||| bAt (match b.div with | some d => !d.signed | none => false) 8 ||| bAt b.div.isSome 9)
  ++ wBytes b.lsuo ++ wBytes b.lsud ++ wBytes (wOf b.lsusz.toNat) ++ wBytes b.r0 ++ wBytes b.r1 ++ wBytes b.r2
  ++ wBytes b.r3
  ++ wBytes b.link ++ wBytes b.cbo ++ wBytes b.cbtgt ++ wBytes b.loopEnd
  ++ loopBytes b 0 ++ loopBytes b 1 ++ loopBytes b 2 ++ loopBytes b 3
  ++ wBytes (wOf b.limm.toNat)
  ++ wBytes (wOf (remOf b.al0p + 4 * remOf b.al1p + 16 * min 3 b.mulp.length + 64 * mulRem b 0 + 256 * mulRem b 1
      + 1024 * mulRem b 2))
  ++ wBytes r.pc ++ wBytes r.st ++ wBytes r.cs ++ wBytes r.fa ++ wBytes (bAt b.inlib 0)
  ++ wBytes (valOf b.al0p) ++ wBytes (valOf b.al1p)
  ++ leBytes 16 (mulVal b 0).toNat ++ leBytes 16 (mulVal b 1).toNat ++ leBytes 16 (mulVal b 2).toNat
  ++ leBytes 144 0

/-- What a pushed bank owes beside its frame: the word of a division, the routine it is in with its return address, the
the word of a satisfied wait, plus 1 (R100), and the words of its products. -/
def owedOf (b : Bank) : List Nat :=
  (match b.div with | some d => d.wid | none => 0) :: b.libNo.toNat :: b.libRet
    :: (match b.waited with | some a => a + 1 | none => 0) :: b.mulp.map (·.wid)

/-- Word k of a frame. -/
def fw (f : List Byte) (off : Nat) : Word := wOf (leNat ((f.drop off).take 8))

/-- The loop level of a frame. -/
def frameLoop (f : List Byte) (k : Nat) : List LoopLevel :=
  let v := leNat ((f.drop (0x2B8 + 16 * k)).take 16)
  if bitsOf v 127 96 = 0 then [] else [⟨16 * bitsOf v 47 0, 16 * bitsOf v 95 48, BitVec.ofNat 32 (bitsOf v 127 96), false⟩]

/-- The products of a frame: those listed with a count that is not 0. -/
def frameMuls (f : List Byte) (owed : List Nat) : List Product :=
  let d := (fw f 0x300).toNat
  (List.range (bitsOf d 5 4)).filterMap fun k =>
    let r := bitsOf d (7 + 2 * k) (6 + 2 * k)
    if r = 0 then none
    else some ⟨BitVec.ofNat 128 (leNat ((f.drop (0x340 + 16 * k)).take 16)), r, owed.getD (k + 4) 0⟩

def framePend (f : List Byte) (lo off : Nat) : Option (Word × Nat) :=
  let r := bitsOf (fw f 0x300).toNat (lo + 1) lo
  if r = 0 then none else some (fw f off, r)

/-- R233: the bank a frame restores. -/
def frameBank (f : List Byte) (owed : List Nat) : Bank :=
  let st := fw f 0x258
  { g := smWrite 0 [] 1 ((List.range 63).map fun k => fw f (8 * k))
    flags := BitVec.ofNat 4 (fw f 0x1F8).toNat
    flagsNext := none
    al0o := fw f 0x200
    al0r := fw f 0x208
    al1o := fw f 0x210
    al1r := fw f 0x218
    al0p := framePend f 0 0x330
    al1p := framePend f 2 0x338
    mulo := fw f 0x220
    mullo := fw f 0x228
    mulhi := fw f 0x230
    mulp := frameMuls f owed
    divo := fw f 0x238
    divd := fw f 0x240
    divq := fw f 0x248
    divrem := fw f 0x250
    divDz := wBit st 1
    divRst := wBit st 2
    div := none
    divLast := if wBit st 9 then some ⟨!wBit st 8, fw f 0x238, owed.getD 0 0⟩ else none
    lsuo := fw f 0x260
    lsud := fw f 0x268
    lsusz := BitVec.ofNat 3 (fw f 0x270).toNat
    r0 := fw f 0x278
    r1 := fw f 0x280
    r2 := fw f 0x288
    r3 := fw f 0x290
    link := fw f 0x298
    cbo := fw f 0x2A0
    cbtgt := fw f 0x2A8
    loopEnd := fw f 0x2B0
    loops := frameLoop f 3 ++ frameLoop f 2 ++ frameLoop f 1 ++ frameLoop f 0
    limm := BitVec.ofNat 52 (fw f 0x2F8).toNat
    inlib := wBit (fw f 0x328) 0
    libRet := owed.getD 2 0
    libNo := BitVec.ofNat 8 (owed.getD 1 0)
    waited := if owed.getD 3 0 = 0 then none else some (owed.getD 3 0 - 1) }

/-- R227 to R229, R233: the record of a frame; reserved bits read 0 (R9). -/
def frameRec (f : List Byte) : XRec :=
  ⟨fw f 0x308 &&& ~~~(15#64), fw f 0x310 &&& 0x1FF, fw f 0x318 &&& 0x3FFF3F, fw f 0x320⟩

/-- R233: one address of a frame: reason (0 none) and tile-store offset. -/
def frameByte (s : State) (i : Nat) (h : World) (push : Bool) (va : Nat) : Nat × Nat × State :=
  if 2 ^ 52 ≤ va then (1, 0, s) else
  match fillTlb s i (isS h) false va with
  | (none, s) => (1, 0, s)
  | (some e, s) =>
    let denied := push && (leafCheck e true .store false).isSome
    match paClass (tlbPa e va) with
    | .store j off =>
      if j != i then (3, 0, s)
      else if denied || inCalicoSet (tileOf s i) off || tsinHit s i off then (4, off, s)
      else (0, off, s)
    | _ => (3, 0, s)

/-- The lower of two reasons, 0 being none. -/
def lowReason (a b : Nat) : Nat := if a = 0 then b else if b = 0 then a else min a b

/-- R233, R234: the checks of the 1,024 B at `base`: the lowest reason that holds, the offsets of its 64 B pieces, and
the state after its translations. -/
def frameCheck (s : State) (i : Nat) (h : World) (base : Nat) (push : Bool) : Nat × List Nat × State :=
  let vas := ((List.range 16).map fun k => base + 64 * k) ++ [base + 1023]
  let (r, offs, s) := vas.foldl (fun (acc : Nat × List Nat × State) va =>
    let (r, o, s) := frameByte acc.2.2 i h push va
    (lowReason acc.1 r, acc.2.1 ++ [o], s)) (0, [], s)
  (lowReason r (if base % 64 = 0 then 0 else 2), offs.take 16, s)

/-- Writes a frame's pieces. -/
def putPieces : State → Nat → List Nat → List Byte → State
  | s, _, [], _ => s
  | s, i, o :: os, bs => putPieces (writeStore s (storePa i o) (bs.take 64)) i os (bs.drop 64)

/-! ## Ends of a frame program -/

/-- R52: the program ends at this word: no further word issues, and earlier operations are waited for. -/
def endProgram (s : State) (i : Nat) : State :=
  modTile s i fun t => { t with run := .draining, held := 0, fetchWalk := false, fetchFault := none }

/-- R239: a Muslin exception whose latched entry is invalid ends the program; the frame raises no overrun. `d1` is the vector, or
0x100 + engine (R394). -/
def unhandled (s : State) (i d1 : Nat) (d2 : Word) : State :=
  modTile (endProgram (logErr 4 3 0 i d1 d2 s) i) i fun t => { t with unhandled := true }

/-- R235: the tile halts. -/
def haltTile (s : State) (i v reason : Nat) (noSpill : Bool) (pc : Nat) : State :=
  modTile (logErr 6 5 0 i (v + 256 * reason + 65536 * b2n noSpill) (wOf pc) s) i fun t => { t with run := .halted, held := 0 }

/-! ## Entry -/

/-- Runs the handler: bank, record, world and level, address (R226 steps 3 to 5). -/
def handlerState (s : State) (i : Nat) (h : World) (r : XRec) (ha : Nat) (v : Nat) : State :=
  modTile s i fun t =>
    -- step 3: a division in progress is abandoned in the interrupted bank, the loop buffer is released
    let t := modBank t fun b => { b with div := none, divLast := (match b.div with | some d => some d | none => b.divLast) }
    let t := { t with cur := (if isS h then BankId.serge else BankId.muslin), world := h, sup := true, pc := ha }
    let t := { t with held := 0, fetchWalk := false, fetchFault := none, run := .running }
    let t := { t with cache := { t.cache with loopBuf := [] } }
    let t := { t with exc := { t.exc with
      msh := t.exc.msh || !isS h
      ssh := t.exc.ssh || isS h
      actM := if !isS h then BitVec.ofNat 6 v :: t.exc.actM else t.exc.actM
      actS := if isS h then BitVec.ofNat 6 v :: t.exc.actS else t.exc.actS
      niOpen := if v < 32 ∨ 48 ≤ v then none else t.exc.niOpen } }
    let t := setCurRec t r
    modBank t fun b => { b with inlib := false }

/-- R226 steps 3 to 5, traced (R406). -/
def startHandler (s : State) (i : Nat) (h : World) (r : XRec) (ha : Nat) (v : Nat) : State :=
  trace 1 i (handlerState s i h r ha v)

/-- R221: handler address of a latched entry. -/
def handlerAddr (e : Word) : Nat := 16 * wBits e 51 4

/-- R234: the 256 B spill area. -/
def spillBytes (s : State) (t : Tile) (b : Bank) (want have_ : XRec) (xsp : Word) (reason : Nat) : List Byte :=
  wBytes want.pc ++ wBytes want.st ++ wBytes want.cs ++ wBytes want.fa ++ wBytes have_.pc ++ wBytes have_.st
  ++ wBytes have_.cs ++ wBytes xsp ++ wBytes (wlOf t) ++ wBytes (wOf reason) ++ wBytes s.fr.fcyc ++ wBytes s.fr.fnum
  ++ ((List.range 20).map fun k => wBytes (gReg b (k + 1))).flatten

/-- R234: the double fault. `want` is the entry that could not be made, `have_` the record that could not be pushed or
popped, `v` the vector of the exception, `pc` the word it was met at. -/
def doubleFault (s : State) (i : Nat) (want have_ : XRec) (xsp : Word) (reason v pc : Nat) : State :=
  let t := tileOf s i
  if tsinHit s i 0 then haltTile s i v 0 true pc
  else
    let s := writeStore s (storePa i 0) (spillBytes s t (bankOf t) want have_ xsp reason)
    let e := smGet 0 t.exc.latchS 0
    if !wBit e 0 then haltTile s i v 0 false pc
    else
      let r : XRec := ⟨wOf pc, entryXst t false true, causeXcs ⟨0, reason, 0, pc, 0, false, false⟩, 0⟩
      let s := modTile s i fun t => { t with exc := { t.exc with fatal := true, spillReason := BitVec.ofNat 8 reason, actS := [] } }
      startHandler s i .serge r (handlerAddr e) 0

/-- R226: entry for a cause with target world h. It passes an issue cycle, but for the second word of a pair, whose cycle the first
word has passed (R106). -/
def enterExc (s : State) (i : Nat) (h : World) (c : Cause) : State :=
  let s := if c.dual then s else landAll s i
  let t := tileOf s i
  let nr := decide (c.vec = 13)
  let e := smGet 0 (if isS h then t.exc.latchS else t.exc.latchM) c.vec
  let want : XRec := ⟨wOf c.pc, entryXst t false nr, causeXcs c, c.fa⟩
  if t.exc.fatal then haltTile s i c.vec t.exc.spillReason.toNat false c.pc
  else if !wBit e 0 then
    (if !isS h then unhandled s i c.vec (wOf c.pc)
     else doubleFault s i want ⟨0, 0, 0, 0⟩ t.exc.xspS (if t.exc.latchedS then 5 else 6) c.vec c.pc)
  else if (if isS h then t.exc.ssh else t.exc.msh) then
    let xsp := if isS h then t.exc.xspS else t.exc.xspM
    let base := (xsp - 1024).toNat
    let old := if isS h then t.exc.recS else t.exc.recM
    let (r, offs, s) := frameCheck s i h base true
    if r ≠ 0 then doubleFault s i want old xsp r c.vec c.pc
    else
      let s := putPieces s i offs (frameBytes (bankOf t) old)
      let s := modTile s i fun t =>
        let t := { t with exc := { t.exc with
          owed := owedOf (bankOf t) :: t.exc.owed
          xspS := if isS h then xsp - 1024 else t.exc.xspS
          xspM := if isS h then t.exc.xspM else xsp - 1024
          spush := if isS h then t.exc.spush + 1 else t.exc.spush
          mpush := if isS h then t.exc.mpush else t.exc.mpush + 1 } }
        modBank t fun b => { b with al0p := none, al1p := none, mulp := [], div := none, divLast := none }
      startHandler s i h { want with st := entryXst t true nr } (handlerAddr e) c.vec
  else startHandler s i h want (handlerAddr e) c.vec

/-- R224: the world whose table serves a vector raised by the tile's code; vectors 0 and 34 are Serge's. -/
def ownWorld (t : Tile) : World := t.world

/-- Takes a precise exception at the word at pc, the second of a pair or not. A refused return is logged (R237). -/
def takePexcOf (dual : Bool) (s : State) (i : Nat) (p : Pexc) : State :=
  let t := tileOf s i
  let s := if p.vec = 2 && p.info = 2 then
      logErr 5 2 0 i (match curRec t with | some r => wBits r.st 3 0 | none => 0)
        (match curRec t with | some r => r.pc | none => 0) s
    else s
  enterExc s i (ownWorld t) ⟨p.vec, p.info, p.fa, t.pc, p.slots, false, dual⟩

/-- Takes a precise exception at the word at pc. -/
def takePexc (s : State) (i : Nat) (p : Pexc) : State := takePexcOf false s i p

/-! ## Asynchronous faults (R458, R155, R129) -/

def addAsync (s : State) (i : Nat) (a : AsyncFault) : State := modTile s i fun t => { t with asyncs := t.asyncs ++ [a] }

/-- The pending asynchronous fault of the oldest access. -/
def oldestAsync (l : List AsyncFault) : Option AsyncFault :=
  l.foldl (fun a x => match a with
    | none => some x
    | some y => if x.seq < y.seq then some x else a) none

/-- Takes the oldest asynchronous fault that passes `p`, or logs it when the program has ended (R52). -/
def takeAsyncOf (p : AsyncFault → Bool) (s : State) (i : Nat) : State :=
  let t := tileOf s i
  match oldestAsync (t.asyncs.filter p) with
  | none => s
  | some a =>
    let s := setTile s i { t with asyncs := t.asyncs.erase a }
    if t.run == .running then
      enterExc s i t.world ⟨a.vec.toNat, a.info.toNat, a.fa, t.pc, 0, a.vec == 8, false⟩
    else if t.run == .draining then logErr 0x0B 3 0 i a.vec.toNat a.fa s
    else s

/-- Takes the oldest asynchronous fault. -/
def takeAsync (s : State) (i : Nat) : State := takeAsyncOf (fun _ => true) s i

/-! ## Interrupts -/

/-- Raises an interrupt vector (32 to 47) of a world; one that is pending already keeps its record (assumption 24). -/
def raiseInt (s : State) (i : Nat) (srg : Bool) (v info : Nat) (fa : Word) : State :=
  modTile s i fun t =>
    let bit : BitVec 16 := 1#16 <<< (v - 32)
    let ip := if srg then t.exc.ipS else t.exc.ipM
    if t.run == .idle || ip &&& bit ≠ 0 then t
    else { t with exc := { t.exc with
      ipS := if srg then t.exc.ipS ||| bit else t.exc.ipS
      ipM := if srg then t.exc.ipM else t.exc.ipM ||| bit
      ipInfo := smSet (0, 0) t.exc.ipInfo (v + 64 * b2n srg) (wOf info, fa) } }

/-- The lowest vector pending and enabled that is below every active one. -/
def lowVec (ip ie : BitVec 16) (act : List (BitVec 6)) : Option Nat :=
  match lFind (fun k => (ip &&& ie).getLsbD k) (List.range 16) with
  | none => none
  | some k => if act.all fun a => decide (32 + k < a.toNat) then some (32 + k) else none

/-- R225: the interrupt of a world that qualifies now, whatever the other world's. -/
def qualOf (t : Tile) (srg : Bool) : Option Nat :=
  let held := match t.exc.niOpen with
    | some (w, _) => w || !srg
    | none => false
  if t.exc.fatal || t.run != .running || held || (!srg && t.world == .serge) then none
  else if srg then lowVec t.exc.ipS t.exc.ieS t.exc.actS
  else lowVec t.exc.ipM t.exc.ieM t.exc.actM

/-- R225: the interrupt that is taken now: a Serge one before a Muslin one. -/
def qualInt (t : Tile) : Option (World × Nat) :=
  match qualOf t true with
  | some v => some (.serge, v)
  | none => (qualOf t false).map fun v => (.muslin, v)

/-- The pending bit of a vector clears as it is taken; its record is used. -/
def clearInt (t : Tile) (h : World) (v : Nat) : Tile :=
  let bit : BitVec 16 := 1#16 <<< (v - 32)
  { t with exc := { t.exc with
    ipS := if isS h then t.exc.ipS &&& ~~~bit else t.exc.ipS
    ipM := if isS h then t.exc.ipM else t.exc.ipM &&& ~~~bit
    ipInfo := smSet (0, 0) t.exc.ipInfo (v + 64 * b2n (isS h)) (0, 0) } }

def intRec (t : Tile) (h : World) (v : Nat) : Word × Word := smGet (0, 0) t.exc.ipInfo (v + 64 * b2n (isS h))

/-- R225, R226: takes the interrupt that qualifies. -/
def takeInt (s : State) (i : Nat) : State :=
  let t := tileOf s i
  match qualInt t with
  | none => s
  | some (h, v) =>
    let (info, fa) := intRec t h v
    enterExc (setTile s i (clearInt t h v)) i h ⟨v, info.toNat, fa, t.pc, 0, false, false⟩

/-! ## Return -/

/-- R236, R237: a return from the current handler would be granted, apart from the check of a pop. -/
def retGranted (t : Tile) : Bool :=
  match curRec t with
  | none => false
  | some r =>
    !wBit r.st 7 &&
    (decide (wBits r.st 1 0 = wBits r.st 3 2) || (decide (wBits r.st 1 0 = 0) && decide (wBits r.st 5 4 = 0)))

/-- R84: a division that an entry abandoned in this bank starts again. -/
def restartDiv (b : Bank) : Bank :=
  match b.divLast with
  | some d => { b with div := some { d with n := b.divo }, divLast := none, divRst := true }
  | none => b

/-- Drops the top of the active vectors of a bank's world. -/
def dropAct (t : Tile) (k : BankId) : Tile :=
  match k with
  | .muslin => { t with exc := { t.exc with actM := t.exc.actM.drop 1 } }
  | .serge => { t with exc := { t.exc with actS := t.exc.actS.drop 1 } }
  | .primary => t

/-- R236: the tile that a granted return leaves, once its pop (the popped bank, record, owed signals) is done. -/
def returned (t : Tile) (r : XRec) (popped : Option (Bank × XRec)) : Tile :=
  let k := t.cur
  let t := dropAct t k
  let t := match popped with
    | some (b, r') =>
      let t := setCurRec (setBank t b) r'
      { t with exc := { t.exc with
        owed := t.exc.owed.drop 1
        xspS := if k == BankId.serge then t.exc.xspS + 1024 else t.exc.xspS
        xspM := if k == BankId.muslin then t.exc.xspM + 1024 else t.exc.xspM
        spush := if k == BankId.serge then t.exc.spush - 1 else t.exc.spush
        mpush := if k == BankId.muslin then t.exc.mpush - 1 else t.exc.mpush } }
    | none =>
      { t with
        cur := bankOfCode (wBits r.st 5 4)
        exc := { t.exc with
          msh := if k == BankId.muslin then false else t.exc.msh
          ssh := if k == BankId.serge then false else t.exc.ssh } }
  let t := { t with sup := wBit r.st 0, world := (if wBit r.st 1 then .serge else .muslin), pc := r.pc.toNat }
  modBank t fun b => { restartDiv b with inlib := wBit r.st 8 }

/-- R238: the return to tile t is chained into the interrupt v of the handler's world h: nothing of `t0`, the tile before the return,
is restored but the record's cause. -/
def chained (t0 : Tile) (h : World) (v : Nat) (r : XRec) (e : Word) : Tile :=
  let (info, fa) := intRec t0 h v
  let t := dropAct (clearInt t0 h v) t0.cur
  let t := setCurRec t { r with cs := causeXcs ⟨v, info.toNat, fa, 0, 0, false, false⟩, fa := fa }
  { t with
    pc := handlerAddr e
    world := h
    sup := true
    exc := { t.exc with
      actM := if !isS h then BitVec.ofNat 6 v :: t.exc.actM else t.exc.actM
      actS := if isS h then BitVec.ofNat 6 v :: t.exc.actS else t.exc.actS } }

/-- R236, R238: the return of a word that holds a move to SYS.t.xret and was not refused. -/
def returnFrom (s : State) (i : Nat) : State :=
  let s := modTile s i fun t => { t with exc := { t.exc with niOpen := none } }
  let t := tileOf s i
  match curRec t with
  | none => s
  | some r =>
    let h : World := if t.cur == .serge then .serge else .muslin
    let xsp := if isS h then t.exc.xspS else t.exc.xspM
    let psh := wBit r.st 6
    let (bad, offs, s) := if psh then frameCheck s i h xsp.toNat false else (0, [], s)
    if bad ≠ 0 then doubleFault s i ⟨0, 0, 0, 0⟩ r xsp bad 0 t.pc
    else
      let s := offs.foldl (fun s o => correctWords s (storePa i o) 64) s
      let f := (offs.map fun o => readBytes s (storePa i o) 64).flatten
      let owed := t.exc.owed.headD []
      let t := tileOf s i
      let t' := { returned t r (if psh then some (frameBank f owed, frameRec f) else none) with
        landed := s.fr.cyc, resume := if psh then 19 else 3 }
      match qualOf t' (isS h) with
      | some v =>
        let e := smGet 0 (if isS h then t.exc.latchS else t.exc.latchM) v
        if wBit e 0 then setTile s i (chained t h v r e) else takeInt (setTile s i t') i
      | none => setTile s i t'

/-- R236, traced (R406). -/
def doReturn (s : State) (i : Nat) : State := trace 1 i (returnFrom s i)

end Sys2Proof.Machine
end

