-- ==== Sys2Proof/Machine/Reduce.lean ====
section
/-! DEFINITION. The reference order of R215: the balanced tree of a chunk of 16 terms and the accumulation of chunks. A value
carries whether an invalid operation met it. -/

namespace Sys2Proof.Machine

open Sys2Proof

/-- A node: the exact sum rounded to nearest even into an accumulator format (R196, R215). -/
def accNode (f : AccFmt) (a b : FV × Bool) : FV × Bool :=
  let (v, nv) := fvAdd .rne a.1 b.1
  (accUnpack f (accPack f v), a.2 || b.2 || nv)

/-- One level of the tree: neighbouring pairs. -/
def pairUp {α : Type} (f : α → α → α) : List α → List α
  | a :: b :: l => f a b :: pairUp f l
  | l => l

/-- The chunk of 16 terms, missing ones filled with `z`. -/
def chunkTree {α : Type} (f : α → α → α) (z : α) (l : List α) : α :=
  let l := l ++ List.replicate (16 - l.length) z
  match pairUp f (pairUp f (pairUp f (pairUp f l))) with
  | a :: _ => a
  | [] => z

/-- R215: chunks of 16 accumulated in index order from `acc`. -/
def accChunks (f : AccFmt) (acc : FV × Bool) (terms : List (FV × Bool)) : FV × Bool :=
  (lChunks 16 (terms.length + 1) terms).foldl
    (fun a c => accNode f a (chunkTree (accNode f) (.fin false 0 0, false) c)) acc

end Sys2Proof.Machine
end

