-- ==== Sys2Proof/Machine/VxEngine.lean ====
section
/-! DEFINITION. The vector engine (05_vector.md): formats, checks at the trigger, the queue, and what each operation writes
when it completes. -/

namespace Sys2Proof.Machine

open Sys2Proof

/-- What a format code of R133 holds. -/
inductive VKind where
  | fp (f : FFmt)
  | int (w : Nat) (sg : Bool)
  deriving DecidableEq, Repr

/-- R133: the format codes. -/
def vkind (c : Nat) : Option VKind :=
  match c with
  | 0 => some (.fp fp64)
  | 1 => some (.fp fp32)
  | 2 => some (.fp bf16)
  | 3 => some (.fp fp16)
  | 4 => some (.fp e4m3)
  | 5 => some (.fp e5m2)
  | 8 => some (.int 32 true)
  | 9 => some (.int 16 true)
  | 10 => some (.int 8 true)
  | 12 => some (.int 32 false)
  | 13 => some (.int 16 false)
  | 14 => some (.int 8 false)
  | _ => none

def vwidth : VKind → Nat
  | .fp f => fWidth f
  | .int w _ => w

/-- R133: VLMAX. -/
def vlmax (k : VKind) : Nat := 16384 / vwidth k

/-- R133: the Arithmetic column. -/
def varith : VKind → Bool
  | .fp f => !f.e4m3 && f != e5m2
  | .int _ _ => true

def isFp : VKind → Bool
  | .fp _ => true
  | .int _ _ => false

def isSigned : VKind → Bool
  | .fp _ => true
  | .int _ sg => sg

/-- R135: descriptor fields. -/
def dVD (d : Word) : Nat := wBits d 4 0
def dVA (d : Word) : Nat := wBits d 9 5
def dVB (d : Word) : Nat := wBits d 14 10
def dVC (d : Word) : Nat := wBits d 19 15
def dFmt (d : Word) : Nat := wBits d 28 25
def dRM (d : Word) : Nat := wBits d 30 29
def dSat (d : Word) : Bool := wBit d 31

/-- The format code of an operation: bits [19:16] of the selector of `ext` and `ins` (R158), else FMT. -/
def vxFmt (op : Nat) (d : Word) : Nat := if op = 0x90 ∨ op = 0x91 then wBits d 19 16 else dFmt d

/-- R153: the wide format of a narrow one. -/
def wideOf (c : Nat) : Option Nat :=
  match c with
  | 10 => some 9
  | 9 => some 8
  | 14 => some 13
  | 13 => some 12
  | 3 => some 1
  | 2 => some 1
  | 1 => some 0
  | 4 => some 3
  | 5 => some 3
  | _ => none

/-- R134: elements processed. -/
def vxN (vl : Nat) (k : VKind) : Nat := min vl (vlmax k)

/-- Registers from r that `n` elements of w bits need run past v31. -/
def pastV31 (r n w : Nat) : Bool := decide (32 * 2048 < 2048 * r + n * (w / 8))

/-- Operations of the elementwise class by port − 0x100. -/
def isElem (op : Nat) : Bool := decide (0x20 ≤ op ∧ op ≤ 0x32)

/-- Whether a format is allowed for a trigger (R146 to R158). -/
def vxFmtOk (op : Nat) (c : Nat) (k : VKind) : Bool :=
  if op ≤ 0x27 then varith k
  else if op = 0x28 ∨ op = 0x29 then varith k && isSigned k
  else if op = 0x2A ∨ op = 0x2B then isFp k && varith k
  else if op ≤ 0x2E then true
  else if op = 0x2F ∨ op = 0x30 then !isFp k
  else if op = 0x31 then !isFp k && isSigned k
  else if op = 0x32 then true
  else if op = 0x40 then varith k
  else if op ≤ 0x46 then true
  else if op ≤ 0x52 then varith k
  else if op ≤ 0x65 then true
  else if op = 0x70 then !isFp k && (wideOf c).isSome
  else if op = 0x71 then (wideOf c).isSome
  else true

/-- R136: the reason an operation takes the illegal-word fault: 0x02 refused, 0x03 past v31. -/
def vxIllegal (op : Nat) (d : Word) (vl : Nat) (kPort : Nat) : Option Nat :=
  let c := vxFmt op d
  match vkind c with
  | none => some 2
  | some k =>
    let n := vxN vl k
    if !vxFmtOk op c k then some 2
    else if op = 0x65 && decide (10 < kPort) then some 2
    else if (op = 0x90 || op = 0x91) && decide (vlmax k ≤ wBits d 15 5) then some 2
    else if op = 0x60 && pastV31 (dVB d) n 16 then some 3
    else if (op = 0x82 || op = 0x83) && pastV31 (dVB d) n 32 then some 3
    else if op = 0x70 || op = 0x71 then
      (match (wideOf c).bind vkind with
       | some kw => if pastV31 (if op = 0x71 then dVD d else dVA d) n (vwidth kw) then some 3 else none
       | none => some 2)
    else none

/-- R155: why a tile-store element access is refused: 1 misaligned, 2 range, 3 Calico, 4 protection. -/
def vxRefused (s : State) (i : Nat) (calOpen store : Bool) (a : Int) (bytes : Nat) : Option Nat :=
  if a % bytes ≠ 0 then some 1
  else if a < 0 ∨ 0xC0000 ≤ a then some 2
  else if inCalicoSet (tileOf s i) a.toNat && !calOpen then some 3
  else if store && tsinHit s i a.toNat then some 4
  else none

/-- R154: address of element j of `ld` and `st`. -/
def ldAddr (a : BitVec 20) (stride : BitVec 32) (j : Nat) : Int := (a.toNat : Int) + (j : Int) * stride.toInt

/-- R155: the first refused address of `ld` or `st` among n elements. -/
def vxLdCheck (s : State) (i : Nat) (calOpen store : Bool) (a : BitVec 20) (st : BitVec 32) (bytes : Nat) (n : Nat) :
    Option Int :=
  ((List.range n).find? fun j => (vxRefused s i calOpen store (ldAddr a st j) bytes).isSome).map (ldAddr a st)

/-- R140: operations held: one that has left the engine, since a later one has started, is no longer held
(assumption 25). -/
def vxHeld (q : List VxOp) : Nat := (q.filter fun o => !o.run.left).length

/-- R140: an operation leaves the engine: a later one starts. -/
def vxLeave (o : VxOp) : VxOp := { o with run := { o.run with left := true } }

/-- Adds one pending operation to a word (R95). -/
def opAdd (s : State) (i wid : Nat) : State :=
  modTile s i fun t =>
    { t with words := t.words.map fun w => if w.1 == wid then (w.1, w.2.1 + 1, w.2.2) else w }

/-- R134, R136, R140, R155: a VX trigger. `op` is the port − 0x100. `ext` and `ins` do not use VL: they run at VL = 0 and set no CLAMP (R158:
DESIGN CHOICE, assumption 132). -/
def vxTrig (s : State) (i : Nat) (slot op : Nat) (x : Word) (wid : Nat) : Except Pexc State :=
  let t := tileOf s i
  let vx := t.vx
  let vl := vx.vl.toNat
  match vxIllegal op x vl vx.k.toNat, vkind (vxFmt op x) with
  | some r, _ => .error ⟨4, slot, 1, r, 0, 2 ^ slot⟩
  | none, none => .error ⟨4, slot, 1, 2, 0, 2 ^ slot⟩
  | none, some k =>
    let sel := decide (op = 0x90 ∨ op = 0x91)
    let n := vxN vl k
    let inlib := (bankOf t).inlib
    let bad := if op = 0x80 || op = 0x81 then
        vxLdCheck s i inlib (op == 0x81) vx.a vx.stride (vwidth k / 8) n else none
    match bad with
    | some a => .error ⟨6, 2 * slot, 8, 8, BitVec.ofInt 64 a, 2 ^ slot⟩
    | none =>
      if !sel && decide (n = 0) then .ok s
      else if 4 ≤ vxHeld vx.queue then .error ⟨6, 2 * slot + 1, 9, 0, 0, 2 ^ slot⟩
      else
        let o : VxOp :=
        { op := op, desc := x, vl := vl, sa := vx.sa, sb := vx.sb, sc := vx.sc, a := vx.a, stride := vx.stride,
          k := vx.k, d := vx.d, calOpen := inlib, started := false, wid := wid, run := VxRun.zero }
        let st := if !sel && decide (vlmax k < vl) then vx.st ||| 1 else vx.st
        .ok (opAdd (setTile s i { t with vx := { vx with queue := vx.queue ++ [o], st := st } }) i wid)

/-! ## Elements -/

/-- Element i of w bits from register r. -/
def vGet (v : SMap Byte) (r w i : Nat) : Nat := leNat (smRead 0 v (2048 * r + i * (w / 8)) (w / 8))

def vPut (v : SMap Byte) (r w i x : Nat) : SMap Byte := smWrite 0 v (2048 * r + i * (w / 8)) (leBytes (w / 8) x)

def mGet (m : SMap Bool) (k i : Nat) : Bool := smGet false m (2048 * k + i)

/-- R137: element i of a source read through a stride port. -/
def vSrc (v : SMap Byte) (k : VKind) (r : Nat) (port : Word) (i : Nat) : Nat :=
  let idx : Int := (wBits port 26 16 : Int) + (i : Int) * sInt 16 (wBits port 15 0)
  vGet v r (vwidth k) (idx % (vlmax k : Int)).toNat

/-- R139: element i is active. -/
def vActive (m : SMap Bool) (d : Word) (i : Nat) : Bool := !wBit d 23 || mGet m (wBits d 22 20) i

/-- Flags of R145 as VX.st bits [10:4]: CLAMP, NV, DZ, OF, UF, NX, ISAT. -/
def vFlags (nv dz : Bool) (f : FFlags) (isat : Bool) : BitVec 7 :=
  BitVec.ofNat 7 (2 * b2n nv + 4 * b2n dz + 8 * b2n f.of + 16 * b2n f.uf + 32 * b2n f.nx + 64 * b2n isat)

/-- Packs a floating-point result and its flags. -/
def vfp (f : FFmt) (rm : RMode) (v : FV) (nv dz : Bool) : Nat × BitVec 7 :=
  let (x, fl) := fPack f rm v
  (x, vFlags nv dz fl false)

/-- The value of an integer element. -/
def vint (w : Nat) (sg : Bool) (x : Nat) : Int := if sg then sInt w x else x

/-- R148: an exact integer result reduced to w bits. -/
def vred (w : Nat) (sg sat : Bool) (x : Int) : Nat × BitVec 7 :=
  let lo : Int := if sg then -(2 ^ (w - 1) : Nat) else 0
  let hi : Int := if sg then (2 ^ (w - 1) : Nat) - 1 else (2 ^ w : Nat) - 1
  let y := clampI lo hi x
  if sat && decide (y ≠ x) then (uBits w y, 64) else (uBits w x, 0)

/-- R149: 1 / A and 1 / √A. -/
def vEstimate (f : FFmt) (sqrt : Bool) (v : FV) : Nat × BitVec 7 :=
  match v with
  | .nan b => vfp f .rtz (.nan false) b false
  | .inf sg => if sqrt && sg then vfp f .rtz (.nan false) true false else vfp f .rtz (.fin sg 0 0) false false
  | .fin sg m e =>
    if m = 0 then vfp f .rtz (.inf sg) false true
    else if sqrt && sg then vfp f .rtz (.nan false) true false
    else
      let (q, g, ix) := if sqrt then rsq12 m e else rcp12 m e
      let (x, fl) := fPack f .rtz (.fin sg q g)
      let tiny := decide ((lg q : Int) + g < 1 - (f.bias : Int))
      (x, vFlags false false { fl with nx := fl.nx || ix, uf := fl.uf || (tiny && ix) } false)

/-- R146, R147: one floating-point element. Zero times infinity raises NV beside a quiet NaN addend too, which IEEE 754-2019 leaves open
(DESIGN CHOICE, assumption 132). -/
def vElemFp (op : Nat) (f : FFmt) (d : Word) (a b c : Nat) : Nat × BitVec 7 :=
  let rm := rmOf (dRM d)
  let va := fUnpack f a
  let vb := fUnpack f b
  let vc := fUnpack f c
  let top := 2 ^ (fWidth f - 1)
  if op = 0x20 then (let (v, nv) := fvAdd rm va vb; vfp f rm v nv false)
  else if op = 0x21 then (let (v, nv) := fvAdd rm va (fvOpp vb); vfp f rm v nv false)
  else if op = 0x22 then (let (v, nv) := fvMul va vb; vfp f rm v nv false)
  else if op ≤ 0x25 then
    let (p, nv) := fvMul va vb
    let (v, nv2) := fvAdd rm (if op = 0x25 then fvOpp p else p) (if op = 0x24 then fvOpp vc else vc)
    vfp f rm v (nv || nv2) false
  else if op = 0x26 then (let (v, nv) := fvMin va vb; vfp f rm v nv false)
  else if op = 0x27 then (let (v, nv) := fvMax va vb; vfp f rm v nv false)
  else if op = 0x28 then (a % top, 0)
  else if op = 0x29 then (Nat.xor a top, 0)
  else vEstimate f (op == 0x2B) va

/-- R146, R148: one integer element. -/
def vElemInt (op w : Nat) (sg : Bool) (d : Word) (a b c : Nat) : Nat × BitVec 7 :=
  let sat := dSat d
  let x := vint w sg a
  let y := vint w sg b
  let z := vint w sg c
  let n := b % w
  if op = 0x20 then vred w sg sat (x + y)
  else if op = 0x21 then vred w sg sat (x - y)
  else if op = 0x22 then vred w sg sat (x * y)
  else if op = 0x23 then vred w sg sat (x * y + z)
  else if op = 0x24 then vred w sg sat (x * y - z)
  else if op = 0x25 then vred w sg sat (-(x * y) + z)
  else if op = 0x26 then (if x < y then a else b, 0)
  else if op = 0x27 then (if x < y then b else a, 0)
  else if op = 0x28 then vred w sg sat (if x < 0 then -x else x)
  else if op = 0x29 then vred w sg sat (-x)
  else if op = 0x2F then (a * 2 ^ n % 2 ^ w, 0)
  else if op = 0x30 then (a / 2 ^ n, 0)
  else (uBits w (sInt w a / (2 ^ n : Nat)), 0)

/-- R146: one element of an elementwise operation. -/
def vElem (op : Nat) (k : VKind) (d : Word) (a b c : Nat) : Nat × BitVec 7 :=
  if op = 0x2C then (Nat.land a b, 0)
  else if op = 0x2D then (Nat.lor a b, 0)
  else if op = 0x2E then (Nat.xor a b, 0)
  else if op = 0x32 then (a, 0)
  else match k with
    | .fp f => vElemFp op f d a b c
    | .int w sg => vElemInt op w sg d a b c

/-- R150: the compare of two elements, with NV. -/
def vCompare (cond : Nat) (k : VKind) (a b : Nat) : Bool × Bool :=
  match k with
  | .int w sg =>
    let x := vint w sg a
    let y := vint w sg b
    (if cond = 0 then decide (x = y) else if cond = 1 then decide (x ≠ y) else if cond = 2 then decide (x < y)
     else if cond = 3 then decide (x ≤ y) else if cond = 4 then decide (y < x) else if cond = 5 then decide (y ≤ x)
     else decide (cond = 7), false)
  | .fp f =>
    let x := fUnpack f a
    let y := fUnpack f b
    let un := fvIsNan x || fvIsNan y
    let sn := fvIsSnan x || fvIsSnan y
    if cond = 0 then (fvEq x y, sn)
    else if cond = 1 then (!fvEq x y, sn)
    else if cond = 2 then (fvLt x y, un)
    else if cond = 3 then (!un && !fvLt y x, un)
    else if cond = 4 then (fvLt y x, un)
    else if cond = 5 then (!un && !fvLt x y, un)
    else if cond = 6 then (un, sn)
    else (!un, sn)

/-! ## Completion -/

/-- The registers as an operation reads them: those that a later operation has written meanwhile, as they were before. -/
def vxSees (op : VxOp) (vx : Vx) : Vx :=
  op.run.kept.foldl (fun x r =>
    if r < 32 then { x with v := smWrite 0 x.v (2048 * r) (smRead 0 op.run.keptV (2048 * r) 2048) }
    else { x with m := smWrite false x.m (2048 * (r - 32)) (smRead false op.run.keptM (2048 * (r - 32)) 2048) }) vx

/-- Writes elements 0 to n − 1 of a destination register under the mask (R139). -/
def vMapReg (op : VxOp) (vx : Vx) (n w : Nat) (f : Nat → Nat × BitVec 7) : Vx :=
  let m := (vxSees op vx).m
  (List.range n).foldl (fun acc i =>
    if vActive m op.desc i then
      let r := f i
      { acc with v := vPut acc.v (dVD op.desc) w i r.1, st := acc.st ||| r.2 }
    else if wBit op.desc 24 then { acc with v := vPut acc.v (dVD op.desc) w i 0 }
    else acc) vx

/-- Writes bits 0 to n − 1 of a destination mask under the mask (R139, R150). -/
def vMapMask (op : VxOp) (vx : Vx) (n : Nat) (f : Nat → Bool × Bool) : Vx :=
  let md := wBits op.desc 2 0
  let m := (vxSees op vx).m
  (List.range n).foldl (fun acc i =>
    if vActive m op.desc i then
      let r := f i
      { acc with m := smSet false acc.m (2048 * md + i) r.1, st := acc.st ||| (if r.2 then 2 else 0) }
    else if wBit op.desc 24 then { acc with m := smSet false acc.m (2048 * md + i) false }
    else acc) vx

/-- R153: a narrow floating-point value widened: sign, and payload of a NaN, kept. -/
def vWiden (fn fwide : FFmt) (x : Nat) : Nat :=
  let sg := x / 2 ^ (fWidth fn - 1) % 2
  match fUnpack fn x with
  | .nan _ => sg * 2 ^ (fWidth fwide - 1) + (2 ^ fwide.ew - 1) * 2 ^ fwide.fw + x % 2 ^ fn.fw * 2 ^ (fwide.fw - fn.fw)
  | v => (fPack fwide .rne v).1

/-- R153: one element of `unpack`. -/
def vUnpack (kn kw : VKind) (x : Nat) : Nat :=
  match kn, kw with
  | .fp a, .fp b => vWiden a b x
  | .int w sg, _ => uBits (vwidth kw) (vint w sg x)
  | _, _ => 0

/-- R151: the reduction of n elements. The flags are those of the final rounding, and NV of any node (assumption 26). -/
def vReduce (op : VxOp) (vx : Vx) (k : VKind) (n : Nat) : Nat × Nat × BitVec 7 :=
  let d := op.desc
  let act := fun i => vActive vx.m d i
  let src := fun i => vSrc vx.v k (dVA d) op.sa i
  let w := vwidth k
  if op.op = 0x50 then
    match k with
    | .fp f =>
      let acc := if f == fp64 then a96 else a48
      let out := if f == fp64 then fp64 else fp32
      let terms := (List.range n).map fun i => if act i then (fUnpack f (src i), false) else (FV.fin false 0 0, false)
      let sn := (List.range n).any fun i => act i && fvIsSnan (fUnpack f (src i))
      let (v, nv) := accChunks acc (.fin false 0 0, false) terms
      let r := vfp out (rmOf (dRM d)) v (nv || sn) false
      (fWidth out, r.1, r.2)
    | .int w sg =>
      let x := (List.range n).foldl (fun (a : Int) i => if act i then a + vint w sg (src i) else a) 0
      let r := vred 32 sg (dSat d) x
      (32, r.1, r.2)
  else
    let isMax := decide (op.op = 0x51)
    let l := (List.range n).filter act
    match k with
    | .fp f =>
      let (v, nv) := l.foldl (fun (a : FV × Bool) i =>
        let (v, nv) := if isMax then fvMax a.1 (fUnpack f (src i)) else fvMin a.1 (fUnpack f (src i))
        (v, a.2 || nv)) (.nan false, false)
      let r := vfp f .rne v nv false
      (w, r.1, r.2)
    | .int w sg =>
      let lo : Int := if sg then -(2 ^ (w - 1) : Nat) else 0
      let hi : Int := if sg then (2 ^ (w - 1) : Nat) - 1 else (2 ^ w : Nat) - 1
      let x := l.foldl (fun (a : Int) i =>
        let y := vint w sg (src i)
        if isMax then (if a < y then y else a) else (if y < a then y else a)) (if isMax then lo else hi)
      (w, uBits w x, 0)

/-- What an operation that touches no tile store leaves of the engine's registers. `mandn` is A AND NOT B, as `andn` of R81 is (DEDUCED,
assumption 132). -/
def vxCompute (op : VxOp) (k : VKind) (vx : Vx) : Vx :=
  let d := op.desc
  let src := vxSees op vx
  let n := vxN op.vl k
  let w := vwidth k
  let o := op.op
  let v := src.v
  if isElem o then
    vMapReg op vx n w fun i => vElem o k d (vSrc v k (dVA d) op.sa i) (vSrc v k (dVB d) op.sb i) (vSrc v k (dVC d) op.sc i)
  else if o = 0x40 then
    vMapMask op vx n fun i => vCompare (wBits d 17 15) k (vSrc v k (dVA d) op.sa i) (vSrc v k (dVB d) op.sb i)
  else if o ≤ 0x44 then
    vMapMask op vx n fun i =>
      let a := mGet src.m (wBits d 7 5) i
      let b := mGet src.m (wBits d 12 10) i
      (if o = 0x41 then a && b else if o = 0x42 then a || b else if o = 0x43 then a != b else a && !b, false)
  else if o = 0x45 then
    { vx with r := wOf (((List.range n).filter fun i => vActive src.m d i && mGet src.m (wBits d 7 5) i).length) }
  else if o = 0x46 then
    { vx with r := wOf (((List.range n).find? fun i => vActive src.m d i && mGet src.m (wBits d 7 5) i).getD n) }
  else if o ≤ 0x52 then
    let (w', x, fl) := vReduce op src k n
    { vx with v := vPut vx.v (dVD d) w' 0 x, st := vx.st ||| fl }
  else if o = 0x60 then vMapReg op vx n w fun i => (vGet v (dVA d) w (vGet v (dVB d) 16 i % vlmax k), 0)
  else if o = 0x61 then vMapReg op vx n w fun i => (vGet v (if i % 2 = 0 then dVA d else dVB d) w (i / 2), 0)
  else if o ≤ 0x63 then
    vMapReg op vx n w fun i =>
      let j := if o = 0x62 then 2 * i else 2 * i + 1
      (if j < n then vGet v (dVA d) w j else vGet v (dVB d) w (j - n), 0)
  else if o = 0x64 then vMapReg op vx n w fun i => (vGet v (dVA d) w ((i + op.k.toNat) % n), 0)
  else if o = 0x65 then
    vMapReg op vx n w fun i =>
      let j := Nat.xor i (2 ^ op.k.toNat)
      (vGet v (dVA d) w (if j < n then j else i), 0)
  else if o = 0x70 then
    match (wideOf (dFmt d)).bind vkind, k with
    | some kw, .int wn sg => vMapReg op vx n wn fun i => vred wn sg (dSat d) (vint (vwidth kw) sg (vGet v (dVA d) (vwidth kw) i))
    | _, _ => vx
  else if o = 0x71 then
    match (wideOf (dFmt d)).bind vkind with
    | some kw => vMapReg op vx n (vwidth kw) fun i => (vUnpack k kw (vGet v (dVA d) w i), 0)
    | none => vx
  else if o = 0x90 then
    let x := vGet v (wBits d 4 0) w (wBits d 15 5)
    { vx with r := (match k with | .int w true => sext64 w x | _ => wOf x) }
  else if o = 0x91 then { vx with v := vPut vx.v (wBits d 4 0) w (wBits d 15 5) (op.d.toNat % 2 ^ w) }
  else vx

/-- Address of element i of a tile-store operation (R154). -/
def vxAddr (op : VxOp) (vx : Vx) (i : Nat) : Int :=
  if op.op ≤ 0x81 then ldAddr op.a op.stride i else (op.a.toNat : Int) + vGet vx.v (dVB op.desc) 32 i

/-- R394: the first uncorrectable word among the bytes an engine reads from its tile store. -/
def badStoreWord (s : State) (i : Nat) (offs : List (Nat × Nat)) : Option Nat :=
  if s.ms.bad.isEmpty then none
  else offs.findSome? fun e =>
    ((List.range e.2).find? fun j => s.ms.bad.contains ((storePa i (e.1 + j)) / 8 * 8)).map fun j => (e.1 + j) / 8 * 8

/-- R394: the single-bit errors among the bytes an engine reads from its tile store are corrected. -/
def correctReads (s : State) (i : Nat) (offs : List (Nat × Nat)) : State :=
  if s.ms.soft.isEmpty then s else offs.foldl (fun s e => correctWords s (storePa i e.1) e.2) s

/-- R394: an engine's read of an uncorrectable word ends the program; 0 VX, 1 MX, 2 CV. -/
def engineUncorrectable (s : State) (i engine off : Nat) : State :=
  unhandled (noteStore i off s) i (0x100 + engine) (wOf off)

/-- R155: the first active element of `gth` or `sct` that is refused: index, reason, address. -/
def vxGthStop (s : State) (i : Nat) (op : VxOp) (vx : Vx) (k : VKind) : Option (Nat × Nat × Int) :=
  if !(op.op == 0x82 || op.op == 0x83) then none
  else (List.range (vxN op.vl k)).findSome? fun j =>
    if vActive vx.m op.desc j then
      (vxRefused s i op.calOpen (op.op == 0x83) (vxAddr op vx j) (vwidth k / 8)).map fun r => (j, r, vxAddr op vx j)
    else none

/-- R154, R155: the elements below `n` of a tile-store operation. -/
def vxMemory (s : State) (i : Nat) (op : VxOp) (k : VKind) (n : Nat) : State :=
  let t := tileOf s i
  let vx := vxSees op t.vx
  let d := op.desc
  let w := vwidth k
  let store := decide (op.op = 0x81 ∨ op.op = 0x83)
  if store then
    (List.range n).foldl (fun s j =>
      if vActive vx.m d j then
        writeStore s (storePa i (vxAddr op vx j).toNat) (leBytes (w / 8) (vSrc vx.v k (dVA d) op.sa j))
      else s) s
  else
    setTile s i { t with vx := vMapReg op t.vx n w fun j => (leNat (readBytes s (storePa i (vxAddr op vx j).toNat) (w / 8)), 0) }

/-- The bytes of its tile store that an operation reads. -/
def vxReads (op : VxOp) (vx : Vx) (k : VKind) (n : Nat) : List (Nat × Nat) :=
  if op.op = 0x80 ∨ op.op = 0x82 then
    ((List.range n).filter fun j => vActive vx.m op.desc j).map fun j => ((vxAddr op vx j).toNat, vwidth k / 8)
  else []

/-- Drops the operations of the queue from place p on; their words never signal (R155). -/
def vxDiscard (s : State) (i p : Nat) : State :=
  let q := (tileOf s i).vx.queue
  (q.drop p).foldl (fun s o => opLost s i o.wid) (modTile s i fun t => { t with vx := { t.vx with queue := q.take p } })

/-! ## Which operation completes (R141, R142, R159) -/

/-- Registers that n elements of w bits take from register r on. -/
def vxSpan (r n w : Nat) : List Nat := (List.range (ceilDiv (n * (w / 8)) 2048)).map fun k => r + k

/-- Bits of an element of the wide format of a width change. -/
def wideBits (c : Nat) : Nat := match (wideOf c).bind vkind with | some k => vwidth k | none => 8

/-- The registers an operation reads: vector registers 0 to 31, masks 32 to 39. -/
def vxSources (op : VxOp) (n : Nat) : List Nat :=
  let d := op.desc
  let o := op.op
  let a := dVA d
  let b := dVB d
  (if !decide (o = 0x90 ∨ o = 0x91) && wBit d 23 then [32 + wBits d 22 20] else []) ++
  (if o = 0x23 ∨ o = 0x24 ∨ o = 0x25 then [a, b, dVC d]
   else if o = 0x28 ∨ o = 0x29 ∨ o = 0x2A ∨ o = 0x2B ∨ o = 0x32 then [a]
   else if o ≤ 0x40 then [a, b]
   else if o ≤ 0x44 then [32 + wBits d 7 5, 32 + wBits d 12 10]
   else if o ≤ 0x46 then [32 + wBits d 7 5]
   else if o ≤ 0x52 then [a]
   else if o = 0x60 then a :: vxSpan b n 16
   else if o ≤ 0x63 then [a, b]
   else if o ≤ 0x65 then [a]
   else if o = 0x70 then vxSpan a n (wideBits (dFmt d))
   else if o = 0x71 then [a]
   else if o = 0x80 then []
   else if o = 0x81 then [a]
   else if o = 0x82 then vxSpan b n 32
   else if o = 0x83 then a :: vxSpan b n 32
   else if o = 0x90 then [wBits d 4 0]
   else [])

/-- What an operation writes: vector registers 0 to 31, masks 32 to 39, VX.r 40; 41 stands for the tile store, whose operations stay
in order. -/
def vxTargets (op : VxOp) (n w : Nat) : List Nat :=
  let d := op.desc
  let o := op.op
  if o = 0x45 ∨ o = 0x46 ∨ o = 0x90 then [40]
  else if 0x40 ≤ o ∧ o ≤ 0x44 then [32 + wBits d 2 0]
  else if 0x50 ≤ o ∧ o ≤ 0x52 then [dVD d]
  else if o = 0x71 then vxSpan (dVD d) n (wideBits (dFmt d))
  else if o = 0x80 ∨ o = 0x82 then 41 :: vxSpan (dVD d) n w
  else if o = 0x81 ∨ o = 0x83 then [41]
  else if o = 0x91 then [wBits d 4 0]
  else vxSpan (dVD d) n w

/-- Two lists share a member. -/
def shares (a b : List Nat) : Bool := a.any fun x => b.contains x

/-- R138: cycles in which element group j of a source issues: half the distinct rows it touches. -/
def groupRows (k : VKind) (port : Word) (n epg j : Nat) : Nat :=
  let rows := (List.range (min epg (n - epg * j))).map fun q =>
    let idx : Int := (wBits port 26 16 : Int) + ((epg * j + q : Nat) : Int) * sInt 16 (wBits port 15 0)
    (idx % (vlmax k : Int)).toNat / epg
  ceilDiv (rows.foldl (fun (l : List Nat) r => if l.contains r then l else r :: l) []).length 2

/-- R137, R138: the operand ports of the register sources of an elementwise operation or a compare. -/
def vxPortsOf (op : VxOp) : List (Nat × Word) :=
  let d := op.desc
  let o := op.op
  let a := (dVA d, op.sa)
  if o = 0x23 ∨ o = 0x24 ∨ o = 0x25 then [a, (dVB d, op.sb), (dVC d, op.sc)]
  else if o = 0x28 ∨ o = 0x29 ∨ o = 0x2A ∨ o = 0x2B ∨ o = 0x32 then [a]
  else [a, (dVB d, op.sb)]

/-- R138: cycles before group 0 issues: 32 when a destination is also a source read with a stride or an offset. -/
def vxCopyCycles (op : VxOp) : Nat :=
  if isElem op.op && (vxPortsOf op).any fun p => p.1 == dVD op.desc && p.2.toNat % 2 ^ 27 != 1 then 32 else 0

/-- R156: cycles that serve elements whose lines are given in index order: at most epg in a cycle, and no two lines of one bank. -/
def serviceCycles (epg : Nat) (lines : List Nat) : Nat :=
  (lines.foldl (fun (a : Nat × Nat × List Nat) l =>
    let clash := a.2.2.any fun u => u != l && u % 8 == l % 8
    if a.1 = 0 || a.2.1 = epg || clash then (a.1 + 1, 1, [l]) else (a.1, a.2.1 + 1, l :: a.2.2)) (0, 0, [])).1

/-- R159: the occupancy of an operation and the cycle, from its start, in which its last result is readable or performed. -/
def vxTiming (op : VxOp) (k : VKind) (vx : Vx) : Nat × Nat :=
  let n := vxN op.vl k
  let epg := 512 / vwidth k
  let g := ceilDiv n epg
  let o := op.op
  if isElem o || o == 0x40 then
    let c := fun j => (vxPortsOf op).foldl (fun a p => max a (groupRows k p.2 n epg j)) 1
    let last := vxCopyCycles op + ((List.range (g - 1)).map c).sum
    (last + c (g - 1), last + 4)
  else if o ≤ 0x44 then (2, 3)
  else if o ≤ 0x46 then (1, 4)
  else if o = 0x50 then (g, 8 + max g (4 * ceilDiv n 16))
  else if o ≤ 0x52 then (g, 6 + g)
  else if o = 0x65 && decide (2 ^ op.k.toNat < epg) then (g, 3 + g)
  else if o ≤ 0x65 then (32 + g, 35 + g)
  else if o ≤ 0x71 then
    let wide := ceilDiv n (512 / wideBits (dFmt op.desc))
    (wide, if o = 0x71 then 3 + wide else 5 + 2 * (g - 1))
  else if o ≤ 0x83 then
    let t := serviceCycles epg ((List.range n).map fun j => ((vxAddr op vx j) / 64).toNat)
    (t, if o = 0x80 ∨ o = 0x82 then t + 3 else t + 1)
  else (1, 4)

/-- A started operation with its format. -/
def vxKindOf (op : VxOp) : VKind := (vkind (vxFmt op.op op.desc)).getD (.int 8 false)

/-- R141, R142: a started operation may complete before those started earlier: it reads nothing that one of them has yet to write, and
writes to one register land in trigger order. -/
def vxPasses (before : List VxOp) (op : VxOp) : Bool :=
  let size := fun (o : VxOp) => (vxN o.vl (vxKindOf o), vwidth (vxKindOf o))
  let src := vxSources op (size op).1
  let dst := vxTargets op (size op).1 (size op).2
  op.started && before.all fun e =>
    let w := vxTargets e (size e).1 (size e).2
    !shares w src && !shares w dst

/-- The cycle in which the last result of a started operation is readable, in best-case counts. -/
def vxDue (vx : Vx) (op : VxOp) : Nat := op.run.start.toNat + (vxTiming op (vxKindOf op) (vxSees op vx)).2

/-- R142: the place of the operation that completes next: of those that may, the one whose last result is readable first, the older of
two (assumption 13). -/
def vxNext (vx : Vx) : Nat :=
  match vx.queue with
  | _ :: e :: _ =>
    if !e.started then 0
    else
      ((List.range vx.queue.length).foldl (fun (a : Nat × Nat) k =>
        match vx.queue[k]? with
        | some o =>
          if vxPasses (vx.queue.take k) o && decide (vxDue vx o < a.2) then (k, vxDue vx o) else a
        | none => a) (0, match vx.queue.head? with | some o => vxDue vx o | none => 0)).1
  | _ => 0

/-- An operation keeps a register that a later one is about to write. -/
def vxKeep (vx : Vx) (regs : List Nat) (op : VxOp) : VxOp :=
  let mine := vxSources op (vxN op.vl (vxKindOf op))
  (regs.filter fun r => mine.contains r && !op.run.kept.contains r).foldl (fun o r =>
    { o with run := { o.run with
      kept := r :: o.run.kept
      keptV := if r < 32 then smWrite 0 o.run.keptV (2048 * r) (smRead 0 vx.v (2048 * r) 2048) else o.run.keptV
      keptM := if 32 ≤ r then smWrite false o.run.keptM (2048 * (r - 32)) (smRead false vx.m (2048 * (r - 32)) 2048)
        else o.run.keptM } }) op

/-- The queue without the operation at place p; those before it keep what it writes. -/
def vxTake (vx : Vx) (p : Nat) : List VxOp :=
  match p, vx.queue[p]? with
  | 0, _ => vx.queue.drop 1
  | _, some op =>
    (vx.queue.take p).map (vxKeep vx (vxTargets op (vxN op.vl (vxKindOf op)) (vwidth (vxKindOf op)))) ++ vx.queue.drop (p + 1)
  | _, none => vx.queue

/-- R142, R155: the started operation whose last result is readable first completes, or ends at a refused element. -/
def vxComplete (s : State) (i : Nat) : State :=
  let t := tileOf s i
  let p := vxNext t.vx
  match t.vx.queue[p]? with
  | none => s
  | some op =>
    if !op.started then s else
    match vkind (vxFmt op.op op.desc) with
    | none => s
    | some k =>
      let n := vxN op.vl k
      let src := vxSees op t.vx
      match vxGthStop s i op src k with
      | some (j, r, a) =>
        let s := vxMemory s i op k j
        let s := modTile s i fun t => { t with vx := { t.vx with fe := BitVec.ofNat 15 (j + 2048 * r + 16384) } }
        let seq := (tileOf s i).nextSeq
        addAsync (vxDiscard s i p) i ⟨12, BitVec.ofNat 8 r, BitVec.ofInt 64 a, seq⟩
      | none =>
        match badStoreWord s i (vxReads op src k n) with
        | some off => engineUncorrectable (vxDiscard s i p) i 0 off
        | none =>
          let rest := vxTake t.vx p
          let s := if 0x80 ≤ op.op && decide (op.op ≤ 0x83) then vxMemory s i op k n
            else setTile s i { t with vx := vxCompute op k t.vx }
          let s := modTile s i fun t => { t with vx := { t.vx with queue := rest } }
          opDone (passRetry (correctReads s i (vxReads op src k n)) i (engineRetry [6] op.wid)) i op.wid

end Sys2Proof.Machine
end

