-- ==== Sys2Proof/Machine/MxEngine.lean ====
section
/-! DEFINITION. The matrix engine (06_matrix.md): descriptors, checks at the trigger, the queue and its three units, operands
and their expansion, accumulation in the reference order, overflow replay, drain, save and restore. -/

namespace Sys2Proof.Machine

open Sys2Proof

/-! ## Footprints in the own tile store (R163, R202) -/

/-- The first protected byte (R55) of [a, a + len). -/
def tsinBad (s : State) (i a len : Nat) : Option Nat :=
  (List.range 48).findSome? fun j =>
    if (entryOf s i).tsin.getLsbD j && overlap a len (0x4000 * j) 0x4000 then some (max a (0x4000 * j)) else none

/-- The first byte of [a, a + len) an engine may not touch: at or past 0xC_0000, in Calico's working set outside a
routine, or protected against a write. -/
def spanBad (s : State) (i : Nat) (inlib store : Bool) (a len : Nat) : Option Nat :=
  if len = 0 then none
  else
    let r := if 0xC0000 < a + len then some (max a 0xC0000) else none
    let c := if (tileOf s i).calen && !inlib && overlap a len 0xB0000 0x10000 then some (max a 0xB0000) else none
    let p := if store then tsinBad s i a len else none
    [r, c, p].foldl (fun a x => match a, x with
      | none, y => y
      | some u, none => some u
      | some u, some v => some (min u v)) none

/-- The first refused byte of `n` pieces of `len` bytes, `stride` apart. -/
def spansBad (s : State) (i : Nat) (inlib store : Bool) (a stride len n : Nat) : Option Nat :=
  (List.range n).findSome? fun j => spanBad s i inlib store (a + j * stride) len

/-! ## Formats -/

/-- R160: a compute class. -/
inductive MClass where | fp8 | bf16 | fp16 | f19 | fp64 | int8
  deriving DecidableEq, Repr

/-- R175: bank kind of a class as MX.bk codes it. -/
def mKind : MClass → BitVec 2
  | .fp64 => 2
  | .int8 => 3
  | _ => 1

/-- Output rows and columns (R160). -/
def mDim (c : MClass) : Nat := if c = .fp64 then 4 else 16
def kindDim (k : BitVec 2) : Nat := if k = 2 then 4 else 16

/-- R161: bits of a stored element; none is refused. -/
def mBits (c : Nat) : Option Nat :=
  match c with
  | 0 => some 64
  | 1 => some 32
  | 2 => some 16
  | 3 => some 16
  | 4 => some 8
  | 5 => some 8
  | 6 => some 4
  | 7 => some 4
  | 10 => some 8
  | 14 => some 8
  | _ => none

/-- R160: the class of two operand formats as they enter the array. -/
def mClass (a b : Nat) : Option MClass :=
  if (a = 4 ∨ a = 5) ∧ (b = 4 ∨ b = 5) then some .fp8
  else if a = 2 ∧ b = 2 then some .bf16
  else if a = 3 ∧ b = 3 then some .fp16
  else if a = 1 ∧ b = 1 then some .f19
  else if a = 0 ∧ b = 0 then some .fp64
  else if (a = 10 ∨ a = 14) ∧ (b = 10 ∨ b = 14) then some .int8
  else none

/-- R170: one stream of a descriptor: stored format, expansion, MXFP8 scales, its side-data port. -/
structure MStream where
  fmt : Nat
  ex : Nat
  mx : Bool
  isB : Bool
  deriving DecidableEq, Repr

def mA (d : Word) : MStream := ⟨wBits d 11 8, wBits d 17 16, wBit d 22, false⟩
def mB (d : Word) : MStream := ⟨wBits d 15 12, wBits d 19 18, wBit d 23, true⟩
def mXf (d : Word) : Nat := wBits d 27 24
def mK (d : Word) : Nat := wBits d 55 32
def mGsz (d : Word) : Nat := 32 * 2 ^ wBits d 21 20

/-- R165: the format a stream enters the array in. -/
def mEff (d : Word) (st : MStream) : Nat := if st.ex = 0 then st.fmt else mXf d

/-- R172: a stream is well formed in a descriptor. -/
def mStreamOk (d : Word) (st other : MStream) : Bool :=
  (mBits st.fmt).isSome &&
  (if st.ex = 0 then
     st.fmt != 6 && st.fmt != 7 && (other.ex == 0 || st.fmt == mXf d) && (!st.mx || st.fmt == 4 || st.fmt == 5)
   else
     st.ex != 3 && !st.mx && (mXf d == 2 || mXf d == 3 || mXf d == 4 || mXf d == 5) &&
     (if st.ex = 1 then st.fmt == 6 || st.fmt == 7
      else (st.fmt == 6 || st.fmt == 7 || st.fmt == 10 || st.fmt == 14) && wBits d 21 20 != 3))

/-- R160, R172: the class of an mma descriptor, if it is not refused. -/
def mmaClass (d : Word) : Option MClass :=
  if mStreamOk d (mA d) (mB d) && mStreamOk d (mB d) (mA d) then mClass (mEff d (mA d)) (mEff d (mB d)) else none

/-- Bytes of one column or row of a stream (R162). -/
def mColBytes (c : MClass) (st : MStream) : Nat := mDim c * (mBits st.fmt).getD 8 / 8

/-- R163: S. -/
def pow2Up (n : Nat) : Nat := min 64 (if n ≤ 1 then 1 else 2 ^ (Nat.log2 (n - 1) + 1))

/-- Bytes of side data of a stream (R167, R168). -/
def mSideBytes (d : Word) (st : MStream) : Nat :=
  if st.mx then 16 * ceilDiv (mK d) 32 else if st.ex = 2 then 64 * ceilDiv (mK d) (mGsz d) else 0

/-- R163: base and stride multiples of S, every byte allowed. The refused offset. -/
def mSpan (s : State) (i : Nat) (inlib store : Bool) (base stride size n : Nat) : Option Nat :=
  if base % pow2Up size ≠ 0 ∨ stride % pow2Up size ≠ 0 then some base else spansBad s i inlib store base stride size n

def sideSpan (s : State) (i : Nat) (inlib : Bool) (base len : Nat) : Option Nat :=
  if len = 0 then none else if base % 64 ≠ 0 then some base else spanBad s i inlib false base len

def firstSome : List (Option Nat) → Option Nat
  | [] => none
  | some a :: _ => some a
  | none :: l => firstSome l

/-! ## Triggers -/

def mxBank (m : Mx) (b : Bool) : MxBank := if b then m.bankB else m.bankA
def setMxBank (m : Mx) (b : Bool) (x : MxBank) : Mx := if b then { m with bankB := x } else { m with bankA := x }
def mxSadj (m : Mx) (b : Bool) : BitVec 16 := (mxBank m b).sadj

/-- R171: bytes of a drain element, when DFMT fits the bank's kind. -/
def drainBytes (d : Word) (kind : BitVec 2) : Option Nat :=
  let f := wBits d 3 1
  if kind = 1 && f == 0 then some 4 else if kind = 2 && f == 1 then some 8
  else if kind = 3 && f == 2 then some 4 else if kind = 3 && f == 3 then some 8 else none

/-- R163, R172: the exception class an MX trigger meets apart from the queue: illegal-word reason, or refused offset. -/
def mxCheck (s : State) (i op : Nat) (x : Word) : Option (Nat ⊕ Nat) :=
  let t := tileOf s i
  let m := t.mx
  let inlib := (bankOf t).inlib
  if op = 0x20 then
    match mmaClass x with
    | none => some (.inl 2)
    | some c =>
      let a := mA x
      let b := mB x
      if !wBit x 1 && (mxBank m (wBit x 0)).trigKind != mKind c then some (.inl 2)
      else if mK x = 0 then none
      else
        let ca := mColBytes c a
        let cb := mColBytes c b
        if wBit x 2 && decide (32 * 2048 < 2048 * wBits x 7 3 + mK x * ca) then some (.inl 3)
        else
          (firstSome [
            if wBit x 2 then none else mSpan s i inlib false m.aa.toNat m.aks.toNat ca (mK x),
            mSpan s i inlib false m.ba.toNat m.bks.toNat cb (mK x),
            sideSpan s i inlib m.asd.toNat (mSideBytes x a),
            sideSpan s i inlib m.bsd.toNat (mSideBytes x b)]).map .inr
  else if op = 0x21 then
    let k := (mxBank m (wBit x 0)).trigKind
    match drainBytes x k with
    | none => some (.inl 2)
    | some w =>
      let n := kindDim k
      if wBit x 6 then (if 32 * 2048 < 2048 * wBits x 11 7 + n * n * w then some (.inl 3) else none)
      else (mSpan s i inlib true m.da.toNat m.drs.toNat (n * w) n).map .inr
  else if op = 0x22 then
    let a := wBits x 19 0
    (if a % 32 ≠ 0 then some a else spanBad s i inlib false a 32).map .inr
  else
    let a := wBits x 19 0
    (if a % 64 ≠ 0 then some a else spanBad s i inlib (op == 0x23) a 6144).map .inr

/-- R172, R175, R178: an MX trigger. `op` is the port − 0x200. -/
def mxTrig (s : State) (i slot op : Nat) (x : Word) (wid : Nat) : Except Pexc State :=
  let t := tileOf s i
  let m := t.mx
  match mxCheck s i op x with
  | some (.inl r) => .error ⟨4, slot, 1, r, 0, 2 ^ slot⟩
  | some (.inr a) => .error ⟨6, 2 * slot, 8, 8, wOf a, 2 ^ slot⟩
  | none =>
    let zero := wBit x 1
    if op = 0x20 && decide (mK x = 0) && !zero then .ok s
    else if 4 ≤ m.queue.length then .error ⟨6, 2 * slot + 1, 10, 0, 0, 2 ^ slot⟩
    else
      let o : MxOp :=
        { op := op, desc := x, aa := m.aa, aks := m.aks, ba := m.ba, bks := m.bks, asd := m.asd, bsd := m.bsd,
          da := m.da, drs := m.drs, cfg := m.cfg, calOpen := (bankOf t).inlib, snapKind := 0, snap := [], lutA := [],
          lutB := [], started := false, wid := wid, run := MxRun.zero }
      let b := wBit x 0
      let bk := mxBank m b
      let m := if op = 0x20 then
          setMxBank m b (if zero then
              { bk with trigKind := (match mmaClass x with | some c => mKind c | none => 0), trigCount := 1 }
            else { bk with trigCount := bk.trigCount + 1, listValid := bk.listValid && decide (bk.trigCount < 8) })
        else if op = 0x24 then
          { m with
            bankA := { m.bankA with trigKind := BitVec.ofNat 2 (wBits x 21 20) }
            bankB := { m.bankB with trigKind := BitVec.ofNat 2 (wBits x 23 22) } }
        else m
      .ok (opAdd (setTile s i { t with mx := { m with queue := m.queue ++ [o] } }) i wid)

/-! ## Start (R179) -/

/-- The unit of an operation: 0 array, 1 drain path, 2 loader, 3 all of them. -/
def mxUnit (op : Nat) : Nat := if op = 0x20 then 0 else if op = 0x21 then 1 else if op = 0x22 then 2 else 3

def mxBankOf (o : MxOp) : Bool := wBit o.desc 0

/-- R179: whether an operation may start, given the operations triggered before it and still held. That its unit is free, an earlier
drain past its last row and an earlier mma past its last step is what the start of a later operation says (assumption 13). -/
def mxMayStart (before : List MxOp) (o : MxOp) : Bool :=
  if mxUnit o.op = 3 then before.isEmpty
  else before.all fun e =>
    mxUnit e.op != 3 &&
    (if mxUnit e.op = mxUnit o.op then e.started else true) &&
    (if o.op = 0x20 && e.op = 0x21 && mxBankOf e == mxBankOf o then e.started else true) &&
    (if o.op = 0x21 && e.op = 0x20 then mxBankOf e != mxBankOf o else true) &&
    (if o.op = 0x20 && e.op = 0x22 then false else true) &&
    (if o.op = 0x22 && e.op = 0x20 then e.started else true)

/-- The index of the first operation of a unit that has not started. -/
def mxNext (q : List MxOp) (unit : Nat) : Option Nat := lFind (fun o => !o.started && mxUnit o.op == unit) q

/-! ## Operands (R162 to R169) -/

/-- A value as it enters the array, with NV and XOV. -/
structure MVal where
  v : FV
  nv : Bool
  xov : Bool
  deriving DecidableEq, Repr

/-- The floating-point format of a code. -/
def mFp (c : Nat) : FFmt :=
  if c = 0 then fp64 else if c = 1 then fp32 else if c = 2 then bf16 else if c = 3 then fp16 else if c = 4 then e4m3 else e5m2

/-- R199: FP32 entry as F19; bit 0 of cfg F19T, bit 1 F19Z. -/
def f19Enter (cfg : BitVec 2) (x : Nat) : FV × Bool :=
  match fUnpack fp32 x with
  | .nan b => (.nan false, b)
  | .inf g => (.inf g, false)
  | .fin g m e =>
    let y := (fRound f19 (if cfg.getLsbD 0 then .rtz else .rne) g m e).1
    let sub := decide (y / 1024 % 256 = 0)
    (if cfg.getLsbD 1 && sub then .fin g 0 0 else fUnpack f19 y, false)

/-- The stored bits of element idx, counted in elements of `bits` bits from a byte reader. -/
def elemBits (rd : Nat → Byte) (bits idx : Nat) : Nat :=
  if bits = 4 then (rd (idx / 2)).toNat / (if idx % 2 = 0 then 1 else 16) % 16
  else leNat ((List.range (bits / 8)).map fun j => rd (idx * (bits / 8) + j))

/-- An integer code of a narrow format (R194). -/
def narrowInt (fmt x : Nat) : Int :=
  if fmt = 6 then sInt 4 x else if fmt = 10 then sInt 8 x else x

/-- R167: (q − Z) × S rounded once into XF, clamped at its largest finite value. -/
def expandScale (xf fmt : Nat) (q : Nat) (rec : Nat) : MVal :=
  let sc := fUnpack bf16 (rec % 65536)
  let z : Int := if fmt = 6 ∨ fmt = 10 then sInt 8 (rec / 65536 % 256) else (rec / 65536 % 256 : Nat)
  let dlt := narrowInt fmt q - z
  let f := mFp xf
  match sc with
  | .nan _ => ⟨.nan false, true, false⟩
  | .inf g =>
    if dlt = 0 then ⟨.nan false, true, false⟩
    else ⟨fUnpack f (fMax f (g != decide (dlt < 0))), false, true⟩
  | .fin g m e =>
    let (p, _) := fvMul (.fin g m e) (fvOfInt dlt)
    match p with
    | .fin g' m' e' =>
      let (x, fl) := fRound f .rne g' m' e'
      if fl.of then ⟨fUnpack f (fMax f g'), false, true⟩ else ⟨fUnpack f x, false, false⟩
    | v => ⟨v, false, false⟩

/-- R166: a lookup-table entry as a value of XF. -/
def expandLut (xf : Nat) (lut : SMap (BitVec 16)) (q : Nat) : MVal :=
  let e := (smGet 0 lut q).toNat
  let v := fUnpack (mFp xf) (if xf = 4 ∨ xf = 5 then e % 256 else e)
  ⟨v, fvIsSnan v, false⟩

/-- R183: byte b of the A columns in vector registers: a column whose step has issued is as it was then. -/
def mRegByte (s : State) (i : Nat) (o : MxOp) (c : MClass) (b : Nat) : Byte :=
  if b < o.run.read * mColBytes c (mA o.desc) then smGet 0 o.run.bytes b
  else smGet 0 (tileOf s i).vx.v (2048 * wBits o.desc 7 3 + b)

/-- Element `idx` of step k of a stream: expansion, F19 entry, NV. `idx` is the row for A, the column for B. -/
def mElem (s : State) (i : Nat) (o : MxOp) (st : MStream) (c : MClass) (k idx : Nat) : MVal :=
  let d := o.desc
  let bits := (mBits st.fmt).getD 8
  let side := if st.isB then o.bsd.toNat else o.asd.toNat
  let q :=
    if !st.isB && wBit d 2 then
      elemBits (mRegByte s i o c) bits (k * mDim c + idx)
    else
      let base := if st.isB then o.ba.toNat + k * o.bks.toNat else o.aa.toNat + k * o.aks.toNat
      elemBits (fun b => readByte s (storePa i (base + b))) bits idx
  if st.ex = 1 then expandLut (mXf d) (if st.isB then o.lutB else o.lutA) q
  else if st.ex = 2 then
    expandScale (mXf d) st.fmt q (leNat (readBytes s (storePa i (side + 4 * (16 * (k / mGsz d) + idx))) 4))
  else if st.fmt = 1 then (let (v, nv) := f19Enter o.cfg q; ⟨v, nv, false⟩)
  else (let v := fUnpack (mFp st.fmt) q; ⟨v, fvIsSnan v, false⟩)

/-- The integer element of the INT8 class. -/
def mElemInt (s : State) (i : Nat) (o : MxOp) (st : MStream) (k idx : Nat) : Int :=
  let q :=
    if !st.isB && wBit o.desc 2 then (mRegByte s i o .int8 (k * 16 + idx)).toNat
    else (readByte s (storePa i ((if st.isB then o.ba.toNat + k * o.bks.toNat else o.aa.toNat + k * o.aks.toNat) + idx))).toNat
  narrowInt st.fmt q

/-- R168: the E8M0 scale of a stream: exponent − 127, none for NaN. -/
def mScale (s : State) (i : Nat) (o : MxOp) (st : MStream) (k idx : Nat) : Option Int :=
  if !st.mx then some 0
  else
    let b := (readByte s (storePa i ((if st.isB then o.bsd.toNat else o.asd.toNat) + 16 * (k / 32) + idx))).toNat
    if b = 255 then none else some ((b : Int) - 127)

/-! ## Accumulation (R176, R186, R187) -/

/-- A node value: the value, NV, and the exponent of the largest offending magnitude met. -/
structure MNode where
  v : FV
  nv : Bool
  off : Option Int
  deriving DecidableEq, Repr

def maxOpt : Option Int → Option Int → Option Int
  | none, b => b
  | a, none => a
  | some a, some b => some (if a < b then b else a)

/-- R186: the exponent of a finite value that reaches the limit of its format. -/
def offending (kind : BitVec 2) (v : FV) : Option Int :=
  match v with
  | .fin _ m e =>
    let lim : FV := if kind = 2 then .fin false (2 ^ 54 - 1) 970 else .fin false (2 ^ 25 - 1) 103
    if fvLt (.fin false m e) lim then none else some ((lg m : Int) + e)
  | _ => none

def accOfKind (kind : BitVec 2) : AccFmt := if kind = 2 then a96 else a48

/-- R176: one node. -/
def mNode (kind : BitVec 2) (a b : MNode) : MNode :=
  let n := accNode (accOfKind kind) (a.v, a.nv) (b.v, b.nv)
  ⟨n.1, n.2, maxOpt (maxOpt a.off b.off) (offending kind n.1)⟩

/-- R168, R187: the product of cell (r, c) in step k, scaled by block scales and the bank's replay scale. -/
def mProduct (s : State) (i : Nat) (o : MxOp) (c : MClass) (sadj : Nat) (r col k : Nat) : MNode × Bool :=
  let d := o.desc
  let a := mElem s i o (mA d) c k r
  let b := mElem s i o (mB d) c k col
  let xov := a.xov || b.xov
  match mScale s i o (mA d) k r, mScale s i o (mB d) k col with
  | some ea, some eb =>
    let (p, nv) := fvMul a.v b.v
    (⟨fvShift p (ea + eb - sadj), nv || a.nv || b.nv, none⟩, xov)
  | _, _ => (⟨.nan false, true, none⟩, xov)

/-- What a chunk leaves of a bank: values, NV, XOV, OF, and the offending exponent or bit length. -/
structure MRes where
  vals : SMap (BitVec 96)
  nv : Bool
  xov : Bool
  off : Option Int
  deriving DecidableEq, Repr

/-- Bit length of a magnitude. -/
def bitLen (x : Int) : Nat := if x = 0 then 0 else Nat.log2 x.natAbs + 1

/-- R175: value of an INT40 element. -/
def i40 (x : BitVec 96) : Int := sInt 40 x.toNat

/-- R176: one chunk (steps 16 j onward, below n) of an operation added to one cell. -/
def mCell (s : State) (i : Nat) (o : MxOp) (c : MClass) (sadj j n r col : Nat) (old : BitVec 96) :
    BitVec 96 × Bool × Bool × Option Int :=
  let ks := (List.range (min 16 (n - 16 * j))).map fun k => 16 * j + k
  if c = .int8 then
    let d := o.desc
    let sum := ks.foldl (fun (a : Int) k => a + shrRne (mElemInt s i o (mA d) k r * mElemInt s i o (mB d) k col) sadj) 0
    let z := i40 old + sum
    let lim : Int := (2 ^ 39 : Nat)
    (BitVec.ofNat 96 (uBits 40 (clampI (-lim) (lim - 1) z)), false, false,
      if z < -lim ∨ lim ≤ z then some (bitLen z : Int) else none)
  else
    let kind := mKind c
    let ps := ks.map fun k => mProduct s i o c sadj r col k
    let xov := ps.any fun p => p.2
    let ch := chunkTree (mNode kind) ⟨.fin false 0 0, false, none⟩ (ps.map (·.1))
    let z := mNode kind ⟨accUnpack (accOfKind kind) old.toNat, false, none⟩ ch
    (BitVec.ofNat 96 (accPack (accOfKind kind) z.v), z.nv, xov, z.off)

/-- One chunk over all cells. -/
def mChunk (s : State) (i : Nat) (o : MxOp) (c : MClass) (sadj j : Nat) (vals : SMap (BitVec 96)) : MRes :=
  let n := mDim c
  (List.range (n * n)).foldl (fun (a : MRes) e =>
    let (v, nv, xov, off) := mCell s i o c sadj j (mK o.desc) (e / n) (e % n) (smGet 0 vals e)
    { vals := smSet 0 a.vals e v, nv := a.nv || nv, xov := a.xov || xov, off := maxOpt a.off off })
    ⟨vals, false, false, none⟩

/-- R187: the scale k of an offending magnitude. -/
def replayScale (kind : BitVec 2) (e : Int) : Int := if kind = 1 then e - 119 else if kind = 2 then e - 1015 else e - 32

/-- R174 flags: NV 1, OF 2, REP 4, XOV 8, ISAT 16. -/
def mFlags (r : MRes) : BitVec 5 := BitVec.ofNat 5 (b2n r.nv + 8 * b2n r.xov)

/-- The chunks from j of an operation; stops at an offending chunk when a replay is possible, with its scale. -/
def mRunFrom (s : State) (i : Nat) (o : MxOp) (c : MClass) (sadj : Nat) (may : Bool) :
    Nat → Nat → SMap (BitVec 96) → BitVec 5 → Option Int × SMap (BitVec 96) × BitVec 5
  | 0, _, vals, fl => (none, vals, fl)
  | f + 1, j, vals, fl =>
    let r := mChunk s i o c sadj j vals
    match r.off with
    | some e =>
      if may then (some (replayScale (mKind c) e), vals, fl ||| mFlags r)
      else mRunFrom s i o c sadj may f (j + 1) r.vals (fl ||| mFlags r ||| 2)
    | none => mRunFrom s i o c sadj may f (j + 1) r.vals (fl ||| mFlags r)

/-- One operation on a bank's values. -/
def mRun (s : State) (i : Nat) (o : MxOp) (sadj : Nat) (may : Bool) (vals : SMap (BitVec 96)) :
    Option Int × SMap (BitVec 96) × BitVec 5 :=
  match mmaClass o.desc with
  | none => (none, vals, 0)
  | some c => mRunFrom s i o c sadj may (ceilDiv (mK o.desc) 16) 0 vals 0

/-- A list of operations on a zeroed bank; stops at the first that overflows with its scale. -/
def mRunList (s : State) (i : Nat) (sadj : Nat) (may : Bool) :
    List MxOp → SMap (BitVec 96) → BitVec 5 → Option Int × SMap (BitVec 96) × BitVec 5
  | [], vals, fl => (none, vals, fl)
  | o :: os, vals, fl =>
    match mRun s i o sadj may vals with
    | (some k, v, f) => (some k, v, fl ||| f)
    | (none, v, f) => mRunList s i sadj may os v (fl ||| f)

/-- R189: a bank may replay. -/
def mayReplay (b : MxBank) : Bool := b.listValid && decide (b.nrep.toNat < 3)

/-- R187: replays of a bank over the operations listed before the one in progress, until they run through. -/
def mReplay (s : State) (i : Nat) (done : List MxOp) : Nat → Int → MxBank → MxBank × BitVec 5
  | 0, _, b => (b, 0)
  | f + 1, k, b =>
    let b := { b with
      vals := []
      sadj := BitVec.ofInt 16 ((b.sadj.toNat : Int) + k)
      nrep := b.nrep + 1 }
    match mRunList s i b.sadj.toNat (mayReplay b) done [] 4 with
    | (some k', _, fl) => (let (b', fl') := mReplay s i done f k' b; (b', fl ||| fl'))
    | (none, v, fl) => ({ b with vals := v }, fl)

/-- R187: an operation that runs again reads its operands again from step 0. -/
def fromStep0 (o : MxOp) : MxOp := { o with run := { o.run with opened := 0, read := 0, bytes := [] } }

/-- The operations of a bank's list before the one with a given word number. -/
def listBefore (b : MxBank) (o : MxOp) : List MxOp :=
  (b.ops.takeWhile fun e => e.wid != o.wid || e.desc != o.desc).map fromStep0

/-- One replay of the bank of an operation in progress, when the operation overflows (R187). -/
def mReplayOnce (s : State) (i : Nat) (o : MxOp) (b : MxBank) : Option (MxBank × BitVec 5) :=
  match mRun s i o b.sadj.toNat (mayReplay b) b.vals with
  | (some k, _, fl) => (let (b', fl') := mReplay s i (listBefore b o) 3 k b; some (b', fl ||| fl'))
  | (none, _, _) => none

/-- The operation runs to its end, replaying as often as it must. -/
def mFinish (s : State) (i : Nat) (o : MxOp) : Nat → MxBank → MxBank × BitVec 5
  | 0, b => (b, 0)
  | f + 1, b =>
    match mReplayOnce s i o b with
    | some (b', fl) => (let (b'', fl') := mFinish s i (fromStep0 o) f b'; (b'', fl ||| fl'))
    | none =>
      let (_, v, fl) := mRun s i o b.sadj.toNat (mayReplay b) b.vals
      ({ b with vals := v }, fl)

/-- The bytes of the tile store that an mma reads. -/
def mReads (o : MxOp) : List (Nat × Nat) :=
  match mmaClass o.desc with
  | none => []
  | some c =>
    let d := o.desc
    let ks := List.range (mK d)
    (if wBit d 2 then [] else ks.map fun k => (o.aa.toNat + k * o.aks.toNat, mColBytes c (mA d)))
    ++ ks.map (fun k => (o.ba.toNat + k * o.bks.toNat, mColBytes c (mB d)))
    ++ [(o.asd.toNat, mSideBytes d (mA d)), (o.bsd.toNat, mSideBytes d (mB d))]

/-- R166: the bytes of a lookup table. -/
def lutBytes (l : SMap (BitVec 16)) : List Byte := (List.range 16).flatMap fun k => leBytes 2 (smGet 0 l k).toNat

/-- R190: the bytes of the operands of an mma, with the lookup tables that it expands by. -/
def operandBytes (s : State) (i : Nat) (o : MxOp) (lutA lutB : SMap (BitVec 16)) : List Byte :=
  (match mmaClass o.desc with
   | some c =>
     if wBit o.desc 2 then (List.range (mK o.desc * mColBytes c (mA o.desc))).map (mRegByte s i o c) else []
   | none => [])
  ++ ((mReads o).flatMap fun e => readBytes s (storePa i e.1) e.2)
  ++ (if (mA o.desc).ex = 1 then lutBytes lutA else []) ++ (if (mB o.desc).ex = 1 then lutBytes lutB else [])

/-- R190: the operands of an mma as it reads them, with its own lookup tables. -/
def operandsRead (s : State) (i : Nat) (o : MxOp) : List Byte := operandBytes s i o o.lutA o.lutB

/-- R190: the operands of an mma as a run of it from step 0 would find them now. -/
def operandsNow (s : State) (i : Nat) (o : MxOp) : List Byte :=
  operandBytes s i (fromStep0 o) (tileOf s i).mx.lutA (tileOf s i).mx.lutB

/-- R190: a bank whose replay met changed operands, as they were and as they are: its elements are undefined. -/
def spoilt (was now : List Byte) (b : MxBank) : MxBank :=
  if now = was then b
  else { b with vals := smWrite 0 [] 0 ((List.range (kindDim b.kind * kindDim b.kind)).map (Config.replayed was now)) }

/-- R190: the operands of listed operations as they read them, and as they stand. -/
def listedReads (s : State) (i : Nat) (l : List MxOp) : List Byte × List Byte :=
  (l.flatMap fun o => o.run.seen, l.flatMap fun o => operandsNow s i o)

/-- The operation runs to its end on its bank. A replay, in this run or before it (MX_OVERFLOW_REPLAY), over operands that have changed,
those of the operation itself among them, leaves an undefined bank. -/
def mFinishBank (s : State) (i : Nat) (o : MxOp) (b : MxBank) : MxBank × BitVec 5 :=
  let (bk, fl) := mFinish s i o 5 b
  let first := if o.run.seen = [] then operandsRead s i o else o.run.seen
  let (was, now) := listedReads s i (listBefore b o)
  (if bk.nrep = b.nrep then spoilt first (operandsRead s i o) bk else spoilt (was ++ first) (now ++ operandsNow s i o) bk, fl)

/-! ## Steps of the array (R180, R181, R183) -/

/-- Cycles per step (R160). -/
def stepCycles (d : Word) : Nat :=
  match mmaClass d with
  | some .bf16 => 2
  | some .fp16 => 2
  | some .f19 => 4
  | _ => 1

/-- R181: the issue gate of a region with issue rate q is open in a cycle. -/
def gateOpen (q fcyc : Nat) : Bool := fcyc * q / 64 < (fcyc + 1) * q / 64

/-- R372: the issue rate of a region. -/
def regionRate (s : State) (r : Nat) : Nat :=
  [s.pw.qc, (regionOf s r).qth, (dieOf s (r / 20)).qcur, s.pw.qext, if (dieOf s (r / 20)).clamped then 16 else 64].foldl min 64

/-- R183: the columns of A of the steps issued by now are read from vector registers. -/
def readColumns (vx : Vx) (o : MxOp) : MxOp :=
  match mmaClass o.desc with
  | none => o
  | some c =>
    let n := min (mK o.desc) (ceilDiv o.run.opened (stepCycles o.desc))
    let w := mColBytes c (mA o.desc)
    if wBit o.desc 2 && decide (o.run.read < n) then
      { o with run := { o.run with
        read := n
        bytes := smWrite 0 o.run.bytes (o.run.read * w)
          (smRead 0 vx.v (2048 * wBits o.desc 7 3 + o.run.read * w) ((n - o.run.read) * w)) } }
    else o

/-- R180, R183: a cycle of the array: an accumulation whose steps issue has one more open cycle, unless its region's gate is closed. That a
stream holds no bytes for a step (R164) is left out (assumption 126). -/
def arrayCycle (s : State) (i : Nat) : State :=
  let t := tileOf s i
  match lFind (fun o => o.started && o.op == 0x20 && !o.run.issued) t.mx.queue with
  | none => s
  | some k =>
    match t.mx.queue[k]? with
    | none => s
    | some o =>
      if o.run.t0.toNat ≤ s.fr.cyc.toNat && decide (o.run.opened < mK o.desc * stepCycles o.desc)
          && gateOpen (regionRate s (i / 64)) s.fr.fcyc.toNat then
        let o := readColumns t.vx { o with run := { o.run with opened := o.run.opened + 1, last := s.fr.cyc.toNat + 1 } }
        setTile s i { t with mx := { t.mx with queue := lSet t.mx.queue k o } }
      else s

/-! ## Completion -/

/-- The oldest started operation of a kind. -/
def mxStarted (q : List MxOp) (op : Nat) : Option Nat := lFind (fun o => o.started && o.op == op) q

/-- R394: an operation that read an uncorrectable word is dropped and the program ends. -/
def mxFail (s : State) (i k wid off : Nat) : State :=
  engineUncorrectable (opLost (modTile s i fun t => { t with mx := { t.mx with queue := lDel t.mx.queue k } }) i wid) i 1 off

def mxRemove (s : State) (i k wid : Nat) : State :=
  opDone (passRetry (modTile s i fun t => { t with mx := { t.mx with queue := lDel t.mx.queue k } }) i (engineRetry [8, 10, 11, 12] wid)) i wid

/-- R180: every step of the started mma at place k has issued: its bank has its value, which nothing reads before it completes; a replay
that this takes shows in MX.sadj, MX.bk and MX.st.REP at once (R187). An uncorrectable operand ends the program (R394). -/
def mmaIssued (s : State) (i k : Nat) : State :=
  let m := (tileOf s i).mx
  match m.queue[k]? with
  | none => s
  | some o =>
    if o.run.issued then s
    else match badStoreWord s i (mReads o) with
      | some off => mxFail s i k o.wid off
      | none =>
        let s := correctReads s i (mReads o)
        let b := mxBankOf o
        let bk := mxBank m b
        let (bk', fl) := mFinishBank s i o bk
        let done := { o with run := { o.run with issued := true, flags := fl, seen := operandsRead s i o } }
        let bk' := { bk' with ops := bk'.ops.map fun e => if e.wid = o.wid ∧ e.desc = o.desc then done else e }
        modTile s i fun t => { t with mx := { setMxBank t.mx b bk' with st := t.mx.st ||| (fl &&& 4), queue := lSet t.mx.queue k done } }

/-- R179: an operation of the array or the loader starts: the array has issued the last step of an earlier mma. -/
def arrayFree (s : State) (i : Nat) : State :=
  match lFind (fun o => o.started && o.op == 0x20 && !o.run.issued) (tileOf s i).mx.queue with
  | some k => mmaIssued s i k
  | none => s

/-- R175, R179: an operation at place k starts. -/
def mxBegin (s : State) (i k : Nat) (backToBack : Bool) : State :=
  let t := tileOf s i
  let m := t.mx
  match m.queue[k]? with
  | none => s
  | some o =>
    let b := mxBankOf o
    let bk := mxBank m b
    let o' := { o with
      started := true
      snapKind := bk.kind
      snap := if o.op = 0x21 then bk.vals else []
      lutA := if o.op = 0x20 then m.lutA else []
      lutB := if o.op = 0x20 then m.lutB else []
      run := { o.run with t0 := if backToBack then s.fr.cyc else s.fr.cyc + 2 } }
    let m := { m with queue := lSet m.queue k o' }
    let m := if o.op = 0x20 then
        setMxBank m b (if wBit o.desc 1 then
            { bk with
              kind := (match mmaClass o.desc with | some c => mKind c | none => 0)
              vals := []
              sadj := 0
              nrep := 0
              ops := [o']
              listValid := true }
          else if bk.ops.length < 8 then { bk with ops := bk.ops ++ [o'] } else { bk with listValid := false })
      else m
    setTile s i { t with mx := m }

/-- R180: the array has issued a step in the cycle before this one: by the count of its cycles, or because an accumulation that has issued
only some of them is over by now (assumption 13). -/
def stepBefore (s : State) (q : List MxOp) : Bool :=
  q.any fun e => e.started && e.op == 0x20 &&
    (decide (e.run.last ≠ 0 ∧ e.run.last = s.fr.cyc.toNat) || (!e.run.issued && decide (e.run.opened < mK e.desc * stepCycles e.desc)))

/-- R175, R179, R180: the start of the next operation of a unit. An mma that starts right after a step issues its own first step in this
cycle. -/
def mxStart (s : State) (i unit : Nat) : State :=
  let m := (tileOf s i).mx
  match mxNext m.queue unit with
  | none => s
  | some k =>
    match m.queue[k]? with
    | none => s
    | some o =>
      if !mxMayStart (m.queue.take k) o then s
      else
        let busy := o.op == 0x20 && stepBefore s m.queue
        let s' := if o.op = 0x20 ∨ o.op = 0x22 then arrayFree s i else s
        if (tileOf s' i).mx.queue.length = m.queue.length then
          (if busy then arrayCycle (mxBegin s' i k true) i else mxBegin s' i k false)
        else s'

/-- R180: the oldest started mma completes. -/
def mmaComplete (s : State) (i : Nat) : State :=
  match mxStarted (tileOf s i).mx.queue 0x20 with
  | none => s
  | some k =>
    let s := mmaIssued s i k
    match (tileOf s i).mx.queue[k]? with
    | none => s
    | some o =>
      if o.run.issued && o.started && o.op == 0x20 then
        mxRemove (modTile s i fun t => { t with mx := { t.mx with st := t.mx.st ||| o.run.flags } }) i k o.wid
      else s

/-- R187, R188: the bank of an mma in progress that overflows replays once. -/
def mmaReplay (s : State) (i : Nat) : State :=
  let m := (tileOf s i).mx
  match (m.queue.find? fun o => o.started && o.op == 0x20 && !o.run.issued && (mReplayOnce s i o (mxBank m (mxBankOf o))).isSome) with
  | none => s
  | some o =>
    match mReplayOnce s i o (mxBank m (mxBankOf o)) with
    | none => s
    | some (bk, fl) =>
      let (was, now) := listedReads s i (listBefore (mxBank m (mxBankOf o)) o)
      let bk := spoilt was now bk
      let first := if o.run.seen = [] then operandsRead s i o else o.run.seen
      let again := { fromStep0 o with run := { (fromStep0 o).run with t0 := s.fr.cyc, seen := first } }
      modTile s i fun t => { t with mx := { setMxBank t.mx (mxBankOf o) bk with
        st := t.mx.st ||| fl
        queue := t.mx.queue.map fun e => if e = o then again else e } }

/-- R184: one drained element with its flags. -/
def drainElem (d : Word) (kind : BitVec 2) (x : BitVec 96) : Nat × BitVec 5 :=
  if kind = 3 then
    let v := i40 x
    if wBits d 3 1 = 2 then
      let y := clampI (-(2 ^ 31 : Nat)) ((2 ^ 31 : Nat) - 1) v
      (uBits 32 y, if y = v then 0 else 16)
    else (uBits 64 v, 0)
  else
    let f := if kind = 2 then fp64 else fp32
    let (r, fl) := fPack f (rmOf (wBits d 5 4)) (accUnpack (accOfKind kind) x.toNat)
    (r, if fl.of then 2 else 0)

/-- R185: the oldest started drain completes. The 256 elements of an INT64 drain fill register VD, so that nothing goes into VD + 1 (DEDUCED,
assumption 43). -/
def drainComplete (s : State) (i : Nat) : State :=
  let m := (tileOf s i).mx
  match mxStarted m.queue 0x21 with
  | none => s
  | some k =>
    match m.queue[k]? with
    | none => s
    | some o =>
      let n := kindDim o.snapKind
      let w := (drainBytes o.desc o.snapKind).getD 4
      let es := (List.range (n * n)).map fun e => drainElem o.desc o.snapKind (smGet 0 o.snap e)
      let fl := es.foldl (fun a e => a ||| e.2) 0
      let row := fun r => ((es.drop (r * n)).take n).map fun e => leBytes w e.1
      let s := if wBit o.desc 6 then
          modTile s i fun t => { t with vx := { t.vx with
            v := smWrite 0 t.vx.v (2048 * wBits o.desc 11 7) (es.map fun e => leBytes w e.1).flatten } }
        else (List.range n).foldl (fun s r =>
          writeStore s (storePa i (o.da.toNat + r * o.drs.toNat)) (row r).flatten) s
      mxRemove (modTile s i fun t => { t with mx := { t.mx with st := t.mx.st ||| fl } }) i k o.wid

/-- R166: the oldest started lookup load completes. -/
def lutComplete (s : State) (i : Nat) : State :=
  let m := (tileOf s i).mx
  match mxStarted m.queue 0x22 with
  | none => s
  | some k =>
    match m.queue[k]? with
    | none => s
    | some o =>
      let a := wBits o.desc 19 0
      match badStoreWord s i [(a, 32)] with
      | some off => mxFail s i k o.wid off
      | none =>
        let tab := smWrite 0 [] 0 ((lChunks 2 16 (readBytes s (storePa i a) 32)).map fun c => BitVec.ofNat 16 (leNat c))
        let s := correctReads s i [(a, 32)]
        let m' := if wBit o.desc 20 then { m with lutB := tab } else { m with lutA := tab }
        mxRemove (modTile s i fun t => { t with mx := m' }) i k o.wid

/-- R191: the 12 bytes of a slot. -/
def slotBytes (kind : BitVec 2) (x : BitVec 96) : List Byte :=
  if kind = 2 then leBytes 12 x.toNat
  else if kind = 3 then leBytes 12 (uBits 96 (i40 x))
  else leBytes 12 (uBits 96 (sInt 48 x.toNat))

/-- R191: a bank's 3,072 B. -/
def bankBytes (b : MxBank) : List Byte :=
  ((List.range 256).map fun e =>
    if b.kind = 0 || (b.kind = 2 && decide (16 ≤ e)) then leBytes 12 0 else slotBytes b.kind (smGet 0 b.vals e)).flatten

/-- R191, R195: the bank a save area restores. -/
def restoreBank (kind : BitVec 2) (f : List Byte) (old : MxBank) : MxBank :=
  let n := kindDim kind
  let val := fun (e : Nat) =>
    let x := leNat ((f.drop (12 * e)).take 12)
    if kind = 2 then accCanon a96 x else if kind = 3 then x % 2 ^ 40 else accCanon a48 (x % 2 ^ 48)
  { old with
    kind := kind
    vals := if kind = 0 then [] else smWrite 0 [] 0 ((List.range (n * n)).map fun e => BitVec.ofNat 96 (val e))
    ops := []
    listValid := false
    nrep := 0 }

/-- R191: the started save completes. -/
def saveComplete (s : State) (i : Nat) : State :=
  let m := (tileOf s i).mx
  match mxStarted m.queue 0x23 with
  | none => s
  | some k =>
    match m.queue[k]? with
    | none => s
    | some o =>
      mxRemove (writeStore s (storePa i (wBits o.desc 19 0)) (bankBytes m.bankA ++ bankBytes m.bankB)) i k o.wid

/-- R191: the started restore completes. -/
def restoreComplete (s : State) (i : Nat) : State :=
  let m := (tileOf s i).mx
  match mxStarted m.queue 0x24 with
  | none => s
  | some k =>
    match m.queue[k]? with
    | none => s
    | some o =>
      let a := wBits o.desc 19 0
      match badStoreWord s i [(a, 6144)] with
      | some off => mxFail s i k o.wid off
      | none =>
        let s := correctReads s i [(a, 6144)]
        let f := readBytes s (storePa i a) 6144
        mxRemove (modTile s i fun t => { t with mx := { t.mx with
          bankA := restoreBank (BitVec.ofNat 2 (wBits o.desc 21 20)) f t.mx.bankA
          bankB := restoreBank (BitVec.ofNat 2 (wBits o.desc 23 22)) (f.drop 3072) t.mx.bankB } }) i k o.wid

end Sys2Proof.Machine
end

