-- ==== Sys2Proof/Machine/CvEngine.lean ====
section
/-! DEFINITION. The conversion unit (07_numerics.md): checks at the trigger, conversions with running maxima, block scales and
stochastic rounding, reduction nodes, master weights, history rings. -/

namespace Sys2Proof.Machine

open Sys2Proof

/-- What a code of the conversion unit holds (R194, R201). -/
inductive CKind where
  | fp (f : FFmt)
  | int (w : Nat) (sg : Bool)
  deriving DecidableEq, Repr

/-- R201: the codes a conversion accepts: those of R161 but the 4-bit ones, and INT64. -/
def ckind (c : Nat) : Option CKind :=
  match c with
  | 0 => some (.fp fp64)
  | 1 => some (.fp fp32)
  | 2 => some (.fp bf16)
  | 3 => some (.fp fp16)
  | 4 => some (.fp e4m3)
  | 5 => some (.fp e5m2)
  | 10 => some (.int 8 true)
  | 14 => some (.int 8 false)
  | 11 => some (.int 64 true)
  | _ => none

def cwidth : CKind → Nat
  | .fp f => fWidth f
  | .int w _ => w

def cIsInt : CKind → Bool
  | .fp _ => false
  | .int _ _ => true

/-- A footprint: in registers (byte address 2,048 × register) or in the tile store. -/
structure Foot where
  reg : Bool
  base : Nat
  len : Nat
  write : Bool
  deriving DecidableEq, Repr

/-- R202: a register footprint ends past v31. -/
def footPast (f : Foot) : Bool := f.reg && decide (32 * 2048 < f.base + f.len)

/-- R202: the refused offset of a tile-store footprint. -/
def footBad (s : State) (i : Nat) (inlib : Bool) (f : Foot) : Option Nat :=
  if f.reg || f.len == 0 then none
  else if f.base % 64 ≠ 0 then some f.base
  else spanBad s i inlib f.write f.base f.len

/-- R202: a destination overlaps a source in a way the rule forbids; sizes are element sizes. An empty footprint overlaps nothing. -/
def footClash (d src : Foot) (dsz ssz : Nat) : Bool :=
  d.reg == src.reg && d.len != 0 && src.len != 0 && overlap d.base d.len src.base src.len && !(d.base == src.base && decide (dsz ≤ ssz))

/-- Fields of the descriptor of `cvt` (R201). -/
def cSf (x : Word) : Nat := wBits x 3 0
def cDf (x : Word) : Nat := wBits x 7 4
def cSlot (x : Word) : Nat := wBits x 14 10
def cBsc (x : Word) : Nat := wBits x 19 18
def cSbs (x : Word) : Bool := wBit x 20

def cSdOff (sd : BitVec 36) : Nat := sd.toNat % 2 ^ 20
def cSg (sd : BitVec 36) : Nat := sd.toNat / 2 ^ 20

/-- R201, R207: a `cvt` descriptor is refused. -/
def cvtRefused (x : Word) (sd : BitVec 36) (n : Nat) : Bool :=
  match ckind (cSf x), ckind (cDf x) with
  | some a, some b =>
    (cIsInt a && cIsInt b) || (wBit x 17 && cDf x != 1) || (cBsc x != 0 && cDf x != 4 && cDf x != 5)
    || (cSbs x && cSf x != 4 && cSf x != 5) || (cBsc x != 0 && cSbs x)
    || (cSg sd != 0 && n != 512 * cSg sd)
  | _, _ => true

/-- The footprints of a `cvt` (R201, R202, R207): source, destination, side data. -/
def cvtFeet (x : Word) (c : Cv) (n : Nat) : Foot × Foot × List Foot :=
  let sw := (match ckind (cSf x) with | some k => cwidth k | none => 8) / 8
  let dw := (match ckind (cDf x) with | some k => cwidth k | none => 8) / 8
  let nb := ceilDiv n 32
  let sd := cSdOff c.sd
  (if wBit x 8 then ⟨true, 2048 * (c.sa.toNat % 32), n * sw, false⟩ else ⟨false, c.sa.toNat, n * sw, false⟩,
   if wBit x 9 then ⟨true, 2048 * (c.da.toNat % 32), n * dw, true⟩ else ⟨false, c.da.toNat, n * dw, true⟩,
   (if cBsc x != 0 || cSbs x then [⟨false, sd, nb, true⟩] else [])
     ++ (if cBsc x != 0 then [⟨false, sd + 64 * ceilDiv nb 64, 64 * ceilDiv nb 512, true⟩] else []))

/-- R214: gradient and copy codes of `mwu`. Without a copy its code is not looked at (DESIGN CHOICE, assumption 132). -/
def mwuRefused (x : Word) : Bool :=
  !(wBits x 3 0 == 1 || wBits x 3 0 == 2)
  || (wBit x 8 && !(wBits x 7 4 == 1 || wBits x 7 4 == 2 || wBits x 7 4 == 3))

def cSize (c : Nat) : Nat := match ckind c with | some k => cwidth k / 8 | none => 1

/-- R202, R214, R217: what a trigger meets apart from the queue: illegal-word reason, or refused offset. -/
def cvCheck (s : State) (i op : Nat) (x : Word) : Option (Nat ⊕ Nat) :=
  let t := tileOf s i
  let c := t.cv
  let n := c.n.toNat
  let inlib := (bankOf t).inlib
  if op = 0x20 then
    if cvtRefused x c.sd n then some (.inl 2)
    else if n = 0 then none
    else
      let (a, d, side) := cvtFeet x c n
      let clash := footClash d a (cSize (cDf x)) (cSize (cSf x))
      if footPast a || footPast d || (clash && d.reg) then some (.inl 3)
      else
        (firstSome ((footBad s i inlib a) :: (footBad s i inlib d) :: side.map (footBad s i inlib)
          ++ [if clash then some d.base else none])).map .inr
  else if op = 0x21 then
    let f := wBits x 3 0
    if f != 0 && f != 1 && f != 11 then some (.inl 2)
    else if n = 0 then none
    else
      let l := n * cSize f
      let a : Foot := ⟨false, c.sa.toNat, l, false⟩
      let b : Foot := ⟨false, c.sb.toNat, l, false⟩
      let d : Foot := ⟨false, c.da.toNat, l, true⟩
      (firstSome [footBad s i inlib a, footBad s i inlib b, footBad s i inlib d,
        if footClash d a 1 1 || footClash d b 1 1 then some d.base else none]).map .inr
  else if op = 0x22 then
    if mwuRefused x then some (.inl 2)
    else if n = 0 then none
    else
      let w : Foot := ⟨false, c.sa.toNat, 6 * n, true⟩
      let g : Foot := ⟨false, c.sb.toNat, n * cSize (wBits x 3 0), false⟩
      let d : Foot := ⟨false, c.da.toNat, if wBit x 8 then n * cSize (wBits x 7 4) else 0, true⟩
      (firstSome [footBad s i inlib w, footBad s i inlib g, footBad s i inlib d,
        if footClash w g 6 (cSize (wBits x 3 0)) then some w.base else none,
        if footClash d w 1 0 || footClash d g 1 0 then some d.base else none]).map .inr
  else none

/-- R202, R203: a CV trigger. `op` is the port − 0x300. -/
def cvTrig (s : State) (i slot op : Nat) (x : Word) (wid : Nat) : Except Pexc State :=
  let t := tileOf s i
  let c := t.cv
  match cvCheck s i op x with
  | some (.inl r) => .error ⟨4, slot, 1, r, 0, 2 ^ slot⟩
  | some (.inr a) => .error ⟨6, 2 * slot, 8, 8, wOf a, 2 ^ slot⟩
  | none =>
    if op ≤ 0x22 && decide (c.n.toNat = 0) then .ok s
    else if 4 ≤ c.queue.length then .error ⟨6, 2 * slot + 1, 11, 0, 0, 2 ^ slot⟩
    else
      let o : CvOp :=
        { op := op, desc := x, sa := c.sa, sb := c.sb, da := c.da, sd := c.sd, n := c.n, x := c.x, d := c.d,
          sren := c.sren, started := false, wid := wid, run := CvRun.zero }
      .ok (opAdd (setTile s i { t with cv := { c with queue := c.queue ++ [o] } }) i wid)

/-! ## Values -/

/-- R201: the exact value of a source element. -/
def cValue (k : CKind) (x : Nat) : FV :=
  match k with
  | .fp f => fUnpack f x
  | .int w sg => fvOfInt (if sg then sInt w x else x)

/-- Flags of CV.st [9:4]: NV, OF, UF, NX, ISAT, BOV. -/
def cFlags (nv : Bool) (f : FFlags) (isat bov : Bool) : BitVec 6 :=
  BitVec.ofNat 6 (b2n nv + 2 * b2n f.of + 4 * b2n f.uf + 8 * b2n f.nx + 16 * b2n isat + 32 * b2n bov)

/-- R198, R201 step 4: y rounded once into a target, with flags and whether a finite value saturated an FP8 target. A quiet NaN into E4M3
raises no NV, as R201 says of floating-point targets (R200's row can be read otherwise: DEDUCED, assumption 132). -/
def cRound (k : CKind) (f19grid : Bool) (rm : RMode) (y : FV) : Nat × BitVec 6 × Bool :=
  match k with
  | .fp f =>
    (match y with
     | .nan sg => (fNan f, cFlags sg noFlags false false, false)
     | .inf g => if f.e4m3 then (fNan f, 1, false) else (fInf f g, 0, false)
     | .fin g m e =>
       let (x, fl) := if f19grid then (let (x, fl) := fRound f19 rm g m e; (x * 8192, fl)) else fRound f rm g m e
       (x, cFlags false fl false false, fl.of))
  | .int w sg =>
    let lo : Int := if sg then -(2 ^ (w - 1) : Nat) else 0
    let hi : Int := if sg then (2 ^ (w - 1) : Nat) - 1 else (2 ^ w : Nat) - 1
    match y with
    | .nan _ => (0, 1, false)
    | .inf g => (uBits w (if g then lo else hi), cFlags true noFlags true false, false)
    | .fin _ _ _ =>
      (match fvToInt rm y with
       | none => (0, 0, false)
       | some (z, nx) =>
         let r := clampI lo hi z
         let sat := decide (r ≠ z)
         (uBits w r, cFlags false ⟨sat, false, nx || sat⟩ sat false, false))

/-- R201 step 2: |x| rounded toward +∞ to FP32, as a bit pattern. -/
def cAmax (x : FV) : Nat :=
  match x with
  | .nan _ => 0
  | .inf _ => fInf fp32 false
  | .fin _ m e => (fRound fp32 .rup false m e).1

/-- R212: the mixing function. -/
def srMix (z : BitVec 64) : BitVec 64 :=
  let z := (z ^^^ (z >>> 31)) * 0xA3B195C4D7E20F69#64
  let z := (z ^^^ (z >>> 29)) * 0x5C2F8E13B64AD907#64
  z ^^^ (z >>> 32)

/-- R212: the 24 random bits of a counter value. -/
def srWord (frel : Word) (lti slot c : Nat) : Nat :=
  let key : BitVec 64 := wOf (frel.toNat % 2 ^ 45 * 2 ^ 19 + lti * 32 + slot)
  ((srMix (srMix key + wOf (c + 1) * 0x9E3779B97F4A7C15#64)) >>> 40).toNat

def slotOf (c : Cv) (n : Nat) : Slot := smGet Slot.zero c.slots n

/-- R205: the history value of a slot: the largest of its newest min(W, count) entries. -/
def slotH (sl : Slot) : Option Nat :=
  (sl.ring.take (sl.w.toNat + 1)).foldl (fun a x => match a with
    | none => some x.toNat
    | some y => some (max x.toNat y)) none

/-- R208: ex(m) of an FP32 magnitude given as a value. -/
def exOf (emax : Int) (v : FV) : Int :=
  match v with
  | .nan _ => -127
  | .inf _ => 127
  | .fin _ m e => if m = 0 then -127 else clampI (-127) 127 ((lg m : Int) + e - emax)

/-- The larger magnitude, NaN left out. -/
def fvMaxAbs (a b : FV) : FV :=
  if fvIsNan b then a else if fvIsNan a then fvAbs b else if fvLt (fvAbs a) (fvAbs b) then fvAbs b else fvAbs a

/-- R207: offset of the scale byte of a block. -/
def scaleOff (sd : BitVec 36) (b : Nat) : Nat :=
  cSdOff sd + (if cSg sd = 0 then b else 16 * (b % cSg sd) + b / cSg sd)

/-! ## Completion -/

/-- Reads n bytes of a footprint. -/
def footRead (s : State) (i : Nat) (reg : Bool) (a n : Nat) : List Byte :=
  if reg then smRead 0 (tileOf s i).vx.v a n else readBytes s (storePa i a) n

/-- R203: n source bytes of an operation: those of a line it has read as they were then. -/
def cvBytes (s : State) (i : Nat) (o : CvOp) (reg : Bool) (a n : Nat) : List Byte :=
  (footRead s i reg a n).mapIdx fun j b => (smGet none o.run.bytes ((if reg then 2 ^ 20 else 0) + a + j)).getD b

def footWrite (s : State) (i : Nat) (reg : Bool) (a : Nat) (bs : List Byte) : State :=
  if reg then modTile s i fun t => { t with vx := { t.vx with v := smWrite 0 t.vx.v a bs } }
  else writeStore s (storePa i a) bs

/-- An operation as the ports it captured. -/
def cvPorts (o : CvOp) (c : Cv) : Cv := { c with sa := o.sa, sb := o.sb, da := o.da, sd := o.sd, n := o.n, x := o.x, d := o.d }

def xaOf (x : BitVec 32) : Int := sInt 16 (x.toNat % 65536)
def xbOf (x : BitVec 32) : Int := sInt 16 (x.toNat / 65536)

/-- R203, R210: the scale byte of block b of a source, as it was when the block's first source line was read. -/
def scaleByte (s : State) (i : Nat) (o : CvOp) (b : Nat) : Byte :=
  match smGet none o.run.bytes (2 ^ 22 + b) with
  | some x => x
  | none => readByte s (storePa i (scaleOff o.sd b))

/-- R201, R210: the scaled source element i: none for a NaN block scale. -/
def cvtSource (s : State) (i : Nat) (o : CvOp) (src : Foot) (k : CKind) (j : Nat) : Option FV :=
  let w := cwidth k / 8
  let v := cValue k (leNat (cvBytes s i o src.reg (src.base + j * w) w))
  if cSbs o.desc then
    let b := (scaleByte s i o (j / 32)).toNat
    if b = 255 then none else some (fvShift v ((b : Int) - 127 + xaOf o.x))
  else some (fvShift v (xaOf o.x))

/-- R203, R208: the stored overflow bit of block b, as it was when the block's first source line was read. -/
def oldBit (s : State) (i : Nat) (o : CvOp) (b : Nat) : Bool :=
  match smGet none o.run.bytes (2 ^ 21 + b) with
  | some x => x.getLsbD 0
  | none =>
    (readByte s (storePa i (cSdOff o.sd + 64 * ceilDiv (ceilDiv o.n.toNat 32) 64 + b / 8))).getLsbD (b % 8)

/-- R208: E_b of each block of a conversion. -/
def cvtScale (s : State) (i : Nat) (o : CvOp) (sl : Slot) (xs : List (Option FV)) (b : Nat) : Int :=
  let emax : Int := if cDf o.desc = 4 then 8 else 15
  let mb := ((xs.drop (32 * b)).take 32).foldl (fun a x => match x with
    | some v => fvMaxAbs a v
    | none => a) (FV.fin false 0 0)
  let cur := exOf emax mb
  match cBsc o.desc with
  | 1 => cur
  | 2 =>
    let sb := (readByte s (storePa i (scaleOff o.sd b))).toNat
    min 127 ((if sb = 255 then 127 else (sb : Int) - 127) + b2n (oldBit s i o b))
  | _ =>
    match slotH sl with
    | none => cur
    | some h => exOf emax (fUnpack fp32 h)

/-- R201: the whole conversion. -/
def cvtRun (s : State) (i : Nat) (o : CvOp) : State :=
  let t := tileOf s i
  let x := o.desc
  let n := o.n.toNat
  match ckind (cSf x), ckind (cDf x) with
  | some sk, some dk =>
    let (src, dst, _) := cvtFeet x (cvPorts o t.cv) n
    let slot := cSlot x
    let sl := slotOf t.cv slot
    let xs := (List.range n).map fun j => cvtSource s i o src sk j
    let nb := ceilDiv n 32
    let bsc := cBsc x != 0
    let es := if bsc then (List.range nb).map fun b => cvtScale s i o sl xs b else []
    let sr := sl.grad && o.sren
    let c0 := (smGet 0 t.cv.ctr slot).toNat
    let rs := xs.mapIdx fun j v =>
      let rm := if sr then RMode.sr (srWord s.fr.frel i slot (c0 + j)) else rmOf (wBits x 16 15)
      match v with
      | none => (match dk with | .fp f => (fNan f, (1 : BitVec 6), false) | .int _ _ => (0, 1, false))
      | some v => cRound dk (wBit x 17) rm (if bsc then fvShift v (-(es.getD (j / 32) 0)) else v)
    let w := cwidth dk / 8
    let bits := (List.range nb).map fun b => ((rs.drop (32 * b)).take 32).any fun r => r.2.2
    let fl := rs.foldl (fun a r => a ||| r.2.1) 0
    let fl := if bsc && bits.any id then fl ||| 34 else fl
    let amax := xs.foldl (fun a v => match v with | some v => max a (cAmax v) | none => a) sl.amax.toNat
    let s := footWrite s i dst.reg dst.base (rs.map fun r => leBytes w r.1).flatten
    let s := if bsc then
        let s := (List.range nb).foldl (fun s b =>
          writeStore s (storePa i (scaleOff o.sd b)) [BitVec.ofInt 8 (es.getD b 0 + 127)]) s
        let map := (List.range (64 * ceilDiv nb 512)).map fun k =>
          BitVec.ofNat 8 (((List.range 8).map fun q => b2n (bits.getD (8 * k + q) false) * 2 ^ q).sum)
        writeStore s (storePa i (cSdOff o.sd + 64 * ceilDiv nb 64)) map
      else s
    modTile s i fun t => { t with cv := { t.cv with
      st := t.cv.st ||| fl
      slots := smSet Slot.zero t.cv.slots slot { sl with amax := BitVec.ofNat 32 amax }
      ctr := if sr then smSet 0 t.cv.ctr slot (BitVec.ofNat 48 (c0 + n)) else t.cv.ctr } }
  | _, _ => s

/-- R217: one node element. -/
def nodeElem (f : Nat) (xa xb : Int) (a b : Nat) : Nat × BitVec 6 :=
  let e := if xa < xb then xb else xa
  if f = 11 then
    let z := shrRne (sInt 64 a) (e - xa).toNat + shrRne (sInt 64 b) (e - xb).toNat
    let r := clampI (-(2 ^ 63 : Nat)) ((2 ^ 63 : Nat) - 1) z
    let sat := decide (r ≠ z)
    let lost := fun (x : Nat) (k : Int) => decide (shrRne (sInt 64 x) k.toNat * (2 ^ k.toNat : Nat) ≠ sInt 64 x)
    (uBits 64 r, cFlags false ⟨sat, false, sat || lost a (e - xa) || lost b (e - xb)⟩ sat false)
  else
    let ff := if f = 0 then fp64 else fp32
    let (v, nv) := fvAdd .rne (fvShift (fUnpack ff a) (xa - e)) (fvShift (fUnpack ff b) (xb - e))
    let (x, fl) := fPack ff .rne v
    (x, cFlags nv fl false false)

def nodeRun (s : State) (i : Nat) (o : CvOp) : State :=
  let f := wBits o.desc 3 0
  let w := cSize f
  let xa := xaOf o.x
  let xb := xbOf o.x
  let rs := (List.range o.n.toNat).map fun j =>
    nodeElem f xa xb (leNat (cvBytes s i o false (o.sa.toNat + j * w) w)) (leNat (cvBytes s i o false (o.sb.toNat + j * w) w))
  let s := writeStore s (storePa i o.da.toNat) (rs.map fun r => leBytes w r.1).flatten
  modTile s i fun t => { t with cv := { t.cv with
    st := rs.foldl (fun a r => a ||| r.2) t.cv.st
    xr := BitVec.ofInt 16 (if xa < xb then xb else xa) } }

/-- R197: the value of six bytes. -/
def m48Value (x : Nat) : FV :=
  let f := x % 2 ^ 32
  if f / 2 ^ 23 % 256 = 255 then fUnpack fp32 f else fUnpack m48 (f * 65536 + x / 2 ^ 32)

/-- R214: one new weight (six bytes as a number), its copy and the flags. -/
def mwuElem (cf : Nat) (cpy : Bool) (lam w g : FV) : Nat × Nat × BitVec 6 :=
  let (p, nv) := fvMul lam g
  let (v, nv2) := fvAdd .rne w (fvOpp p)
  let (y, fl) := fPack m48 .rne v
  let c := fPack (mFp cf) .rne (fUnpack m48 y)
  let f2 := if cpy then cFlags false c.2 false false else 0
  (y / 65536 + y % 65536 * 2 ^ 32, c.1, cFlags (nv || nv2) fl false false ||| f2)

def mwuRun (s : State) (i : Nat) (o : CvOp) : State :=
  let x := o.desc
  let n := o.n.toNat
  let gf := wBits x 3 0
  let cf := wBits x 7 4
  let cpy := wBit x 8
  let rs := (List.range n).map fun j =>
    mwuElem cf cpy (fUnpack fp32 o.d.toNat) (m48Value (leNat (cvBytes s i o false (o.sa.toNat + 6 * j) 6)))
      (fUnpack (mFp gf) (leNat (cvBytes s i o false (o.sb.toNat + cSize gf * j) (cSize gf))))
  let s := writeStore s (storePa i o.sa.toNat) (rs.map fun r => leBytes 6 r.1).flatten
  let s := if cpy then writeStore s (storePa i o.da.toNat) (rs.map fun r => leBytes (cSize cf) r.2.1).flatten else s
  modTile s i fun t => { t with cv := { t.cv with st := rs.foldl (fun a r => a ||| r.2.2) t.cv.st } }

/-- R205: pushes the running maximum of a slot. -/
def hpushRun (t : Tile) (slot : Nat) : Tile :=
  let sl := slotOf t.cv slot
  { t with cv := { t.cv with
    slots := smSet Slot.zero t.cv.slots slot { sl with amax := 0, ring := (sl.amax :: sl.ring).take 16 } } }

/-- R206: configures a slot. -/
def slotRun (t : Tile) (x : Word) : Tile :=
  let k := wBits x 4 0
  let sl := slotOf t.cv k
  { t with cv := { t.cv with
    slots := smSet Slot.zero t.cv.slots k
      { amax := if wBit x 10 then 0 else sl.amax
        ring := if wBit x 10 then [] else sl.ring
        w := BitVec.ofNat 4 (wBits x 8 5)
        grad := wBit x 9 } } }

/-- The bytes of the tile store that an operation reads. -/
def cvReads (o : CvOp) (c : Cv) : List (Nat × Nat) :=
  let n := o.n.toNat
  if o.op = 0x20 then
    let (src, _, side) := cvtFeet o.desc (cvPorts o c) n
    (if src.reg then [] else [(src.base, src.len)])
      ++ (if cSbs o.desc || cBsc o.desc == 2 then side.map fun f => (f.base, f.len) else [])
  else if o.op = 0x21 then
    let l := n * cSize (wBits o.desc 3 0)
    [(o.sa.toNat, l), (o.sb.toNat, l)]
  else if o.op = 0x22 then [(o.sa.toNat, 6 * n), (o.sb.toNat, n * cSize (wBits o.desc 3 0))]
  else []

/-! ## Lines (R203) -/

/-- The 64 B lines of a source footprint, each with its first element, for elements of w bytes. -/
def footLines (reg : Bool) (base len w : Nat) : List (Nat × Bool × Nat × Nat) :=
  (List.range (ceilDiv len 64)).map fun j => (64 * j / w, reg, base + 64 * j, min 64 (len - 64 * j))

/-- Two lists of lines in the order of their first elements. -/
def mergeLines : Nat → List (Nat × Bool × Nat × Nat) → List (Nat × Bool × Nat × Nat) → List (Nat × Bool × Nat × Nat)
  | 0, _, _ => []
  | _, [], l => l
  | _, l, [] => l
  | f + 1, a :: as, b :: bs => if a.1 ≤ b.1 then a :: mergeLines f as (b :: bs) else b :: mergeLines f (a :: as) bs

/-- R203: the source lines of an operation in the order in which it reads them, one in a cycle. The lines of two sources interleave by their
first elements, A before B (DESIGN CHOICE, assumption 132). -/
def cvPlan (o : CvOp) (c : Cv) : List (Bool × Nat × Nat) :=
  let n := o.n.toNat
  let two := fun (a b wa wb : Nat) =>
    let la := footLines false a (n * wa) wa
    let lb := footLines false b (n * wb) wb
    mergeLines (la.length + lb.length + 1) la lb
  (if o.op = 0x20 then
     let src := (cvtFeet o.desc (cvPorts o c) n).1
     footLines src.reg src.base src.len (cSize (cSf o.desc))
   else if o.op = 0x21 then two o.sa.toNat o.sb.toNat (cSize (wBits o.desc 3 0)) (cSize (wBits o.desc 3 0))
   else if o.op = 0x22 then two o.sa.toNat o.sb.toNat 6 (cSize (wBits o.desc 3 0))
   else []).map (·.2)

/-- R203, R205: the elements of a conversion that lie in one source line raise the running maximum of its slot. -/
def raiseLine (s : State) (i : Nat) (o : CvOp) (line : Nat) : State :=
  let c := (tileOf s i).cv
  match ckind (cSf o.desc) with
  | none => s
  | some k =>
    let src := (cvtFeet o.desc (cvPorts o c) o.n.toNat).1
    let per := 64 / (cwidth k / 8)
    let sl := slotOf c (cSlot o.desc)
    let top := (List.range (min per (o.n.toNat - per * line))).foldl (fun a j =>
      match cvtSource s i o src k (per * line + j) with
      | some v => max a (cAmax v)
      | none => a) sl.amax.toNat
    modTile s i fun t => { t with cv := { t.cv with
      slots := smSet Slot.zero t.cv.slots (cSlot o.desc) { sl with amax := BitVec.ofNat 32 top } } }

/-- R203: the started operation reads its next source line; in stored mode the overflow bits of the blocks that begin in it, and with SBS
the scale bytes of its blocks (that they are read with the block's first line: assumption 99). -/
def readLine (s : State) (i : Nat) : State :=
  match (tileOf s i).cv.queue with
  | [] => s
  | o :: rest =>
    match o.run.plan[o.run.got]? with
    | none => s
    | some (reg, base, len) =>
      let key := (if reg then 2 ^ 20 else 0) + base
      let bytes := smWrite none o.run.bytes key ((footRead s i reg base len).map some)
      let w := cSize (cSf o.desc)
      let first := 64 * o.run.got / w
      let blocks := if o.op = 0x20 && cBsc o.desc == 2 then
          (List.range (ceilDiv o.n.toNat 32)).filter fun b => decide (first ≤ 32 * b ∧ 32 * b < first + 64 / w)
        else []
      let bytes := blocks.foldl (fun m b => smSet none m (2 ^ 21 + b) (some (BitVec.ofNat 8 (b2n (oldBit s i o b))))) bytes
      let scaled := if o.op = 0x20 && cSbs o.desc then
          (List.range (ceilDiv o.n.toNat 32)).filter fun b =>
            decide (first < 32 * b + 32 ∧ 32 * b < first + 64 / w) && (smGet none o.run.bytes (2 ^ 22 + b)).isNone
        else []
      let bytes := scaled.foldl (fun m b => smSet none m (2 ^ 22 + b) (some (scaleByte s i o b))) bytes
      let bad := match o.run.bad with
        | some x => some x
        | none => if reg then none else badStoreWord s i [(base, len)]
      let o' := { o with run := { o.run with got := o.run.got + 1, bytes := bytes, bad := bad } }
      let s := modTile (if reg then s else correctReads s i [(base, len)]) i fun t => { t with cv := { t.cv with queue := o' :: rest } }
      if o.op = 0x20 then raiseLine s i o' o.run.got else s

/-- R203, R392: a cycle of the conversion unit: its next line is read, unless a retry delays it. -/
def lineCycle (s : State) (i : Nat) : State :=
  match (tileOf s i).cv.queue with
  | o :: rest =>
    if !o.started then s
    else if 0 < o.run.stall then
      modTile s i fun t => { t with cv := { t.cv with queue := { o with run := { o.run with stall := o.run.stall - 1 } } :: rest } }
    else readLine s i
  | [] => s

/-- R394: the first uncorrectable word that an operation meets: in the lines it has read, else in those it has yet to read. -/
def cvBad (s : State) (i : Nat) (o : CvOp) (c : Cv) : Option Nat :=
  match o.run.bad with
  | some off => some off
  | none => badStoreWord s i (((cvReads o c).filter fun e =>
      !o.run.plan.any fun l => !l.1 && decide (e.1 ≤ l.2.1 ∧ l.2.1 < e.1 + e.2))
      ++ ((o.run.plan.drop o.run.got).filter fun l => !l.1).map (·.2))

/-- R203: the started operation completes. -/
def cvComplete (s : State) (i : Nat) : State :=
  let c := (tileOf s i).cv
  match c.queue with
  | [] => s
  | o :: rest =>
    if !o.started then s else
    let drop := fun (s : State) => modTile s i fun t => { t with cv := { t.cv with queue := rest } }
    match cvBad s i o c with
    | some off => engineUncorrectable (opLost (drop s) i o.wid) i 2 off
    | none =>
      let s := correctReads s i (cvReads o c)
      let s := if o.op = 0x20 then cvtRun s i o
        else if o.op = 0x21 then nodeRun s i o
        else if o.op = 0x22 then mwuRun s i o
        else if o.op = 0x23 then modTile s i fun t => hpushRun t (wBits o.desc 4 0)
        else modTile s i fun t => slotRun t o.desc
      opDone (passRetry (drop s) i (engineRetry [7] o.wid)) i o.wid

/-- R203: the next operation starts when the one before it has completed, and reads its first line. -/
def cvStart (s : State) (i : Nat) : State :=
  match (tileOf s i).cv.queue with
  | [] => s
  | o :: rest =>
    if o.started then s
    else
      let o' := { o with started := true, run := { CvRun.zero with plan := cvPlan o (tileOf s i).cv } }
      readLine (modTile s i fun t => { t with cv := { t.cv with queue := o' :: rest } }) i

end Sys2Proof.Machine
end

