-- ==== Sys2Proof/Machine/Flags.lean ====
section
/-! DEFINITION. The integer ALUs, their flags, branch conditions, products and divisions (R76, R81 to R83, R86, R87). -/

namespace Sys2Proof.Machine

open Sys2Proof

/-- SYS.flags from its four bits (R97: Z, N, C, V from bit 0). -/
def mkFlags (z n c v : Bool) : BitVec 4 := BitVec.ofNat 4 (b2n z + 2 * b2n n + 4 * b2n c + 8 * b2n v)

def fZ (f : BitVec 4) : Bool := f.getLsbD 0
def fN (f : BitVec 4) : Bool := f.getLsbD 1
def fC (f : BitVec 4) : Bool := f.getLsbD 2
def fV (f : BitVec 4) : Bool := f.getLsbD 3

/-- R76: result and flags of an addition with a carry in. -/
def addFlags (a b : Word) (c : Bool) : Word × BitVec 4 :=
  let r := a + b + bAt c 0
  (r, mkFlags (r == 0) r.msb (decide (2 ^ 64 ≤ a.toNat + b.toNat + b2n c)) (a.msb == b.msb && r.msb != a.msb))

/-- R76: result and flags of a subtraction with a borrow in; C is 1 when no borrow occurs. -/
def subFlags (a b : Word) (borrow : Bool) : Word × BitVec 4 :=
  let r := a - b - bAt borrow 0
  (r, mkFlags (r == 0) r.msb (decide (b.toNat + b2n borrow ≤ a.toNat)) (a.msb != b.msb && r.msb != a.msb))

/-- R76: flags of logical operations, minimum and maximum. -/
def logicFlags (r : Word) : Word × BitVec 4 := (r, mkFlags (r == 0) r.msb false false)

/-- R76: flags of shifts; `c` is the last bit shifted out. -/
def shiftFlags (r : Word) (c : Bool) : Word × BitVec 4 := (r, mkFlags (r == 0) r.msb c false)

/-- R67, R81: an ALU of the control processor, which has two, a multiplier and a divider and no floating-point unit: operation `op` (the trigger's port number minus that of `add`) on A and B with the carry C: result, flags. -/
def aluOp (op : Nat) (a b : Word) (c : Bool) : Word × BitVec 4 :=
  let n := wBits b 5 0
  match op with
  | 0 => addFlags a b false
  | 1 => addFlags a b c
  | 2 => subFlags a b false
  | 3 => subFlags a b (!c)
  | 4 => logicFlags (a &&& b)
  | 5 => logicFlags (a ||| b)
  | 6 => logicFlags (a ^^^ b)
  | 7 => logicFlags (a &&& ~~~b)
  | 8 => shiftFlags (a <<< n) (decide (n ≠ 0) && a.getLsbD (64 - n))
  | 9 => shiftFlags (a >>> n) (decide (n ≠ 0) && a.getLsbD (n - 1))
  | 10 => shiftFlags (a.sshiftRight n) (decide (n ≠ 0) && a.getLsbD (n - 1))
  | 11 => subFlags a b false
  | 12 => logicFlags (if a.slt b then a else b)
  | 13 => logicFlags (if a.slt b then b else a)
  | 14 => logicFlags (if a.ult b then a else b)
  | _ => logicFlags (if a.ult b then b else a)

/-- R67, R82: the 128-bit product of trigger `op` (0 mul, 1 mulu, 2 mulsu). -/
def mulOp (op : Nat) (a b : Word) : BitVec 128 :=
  match op with
  | 0 => BitVec.ofInt 128 (a.toInt * b.toInt)
  | 1 => BitVec.ofNat 128 (a.toNat * b.toNat)
  | _ => BitVec.ofInt 128 (a.toInt * (b.toNat : Int))

/-- R67, R83: quotient and remainder. -/
def divOp (signed : Bool) (a b : Word) : Word × Word :=
  if b = 0 then (BitVec.ofNat 64 (2 ^ 64 - 1), a)
  else if signed then (BitVec.ofInt 64 (a.toInt.tdiv b.toInt), BitVec.ofInt 64 (a.toInt.tmod b.toInt))
  else (wOf (a.toNat / b.toNat), wOf (a.toNat % b.toNat))

/-- R86: conditions of BR in the order of their ports: eq ne lt ge gt le ltu geu gtu leu. -/
def brCond (c : Nat) (f : BitVec 4) : Bool :=
  match c with
  | 0 => fZ f
  | 1 => !fZ f
  | 2 => fN f != fV f
  | 3 => fN f == fV f
  | 4 => !fZ f && fN f == fV f
  | 5 => fZ f || fN f != fV f
  | 6 => !fC f
  | 7 => fC f
  | 8 => fC f && !fZ f
  | _ => !fC f || fZ f

/-- R87: conditions of CB in the order of their ports: eq ne lt ge ltu geu. -/
def cbCond (c : Nat) (a b : Word) : Bool :=
  match c with
  | 0 => a == b
  | 1 => a != b
  | 2 => a.slt b
  | 3 => !a.slt b
  | 4 => a.ult b
  | _ => !a.ult b

/-- R70: guard codes against SYS.flags and F0. -/
def guardHolds (g : Nat) (f : BitVec 4) (f0 : Bool) : Bool :=
  match g with
  | 0 => true
  | 1 => fZ f
  | 2 => !fZ f
  | 3 => fN f
  | 4 => !fN f
  | 5 => fC f
  | 6 => fV f
  | _ => f0

end Sys2Proof.Machine
end

