-- ==== Sys2Proof/Machine/Operands.lean ====
section
/-! DEFINITION. The port space (R79): which numbers are ports, their levels and units, what a move reads from a port and what
a move writes into one that starts no unit. -/

namespace Sys2Proof.Machine

open Sys2Proof

/-- The units of R72; VX, MX and CV have trigger rules of their own. -/
inductive PUnit where | al0 | al1 | mul | div | lsu | br | loop | lib | ws | sys | mesh | vx | mx | cv
  deriving DecidableEq, Repr

/-- p lies in [a, b]. -/
def inR (p a b : Nat) : Bool := decide (a ≤ p ∧ p ≤ b)

/-- The unit a trigger port starts. -/
def trigUnit (p : Nat) : Option PUnit :=
  if inR p 0x050 0x05F then some .al0
  else if inR p 0x070 0x07F then some .al1
  else if inR p 0x088 0x08A then some .mul
  else if inR p 0x098 0x099 then some .div
  else if inR p 0x0B0 0x0B6 || p == 0x0B8 then some .lsu
  else if inR p 0x0C8 0x0D5 || inR p 0x0D8 0x0DD then some .br
  else if inR p 0x0E8 0x0E9 then some .loop
  else if p == 0x0F8 then some .lib
  else if inR p 0x381 0x382 then some .ws
  else if inR p 0x3D0 0x3D7 || inR p 0x3E0 0x3E1 then some .sys
  else if inR p 0x820 0x821 then some .mesh
  else if inR p 0x120 0x132 || inR p 0x140 0x146 || inR p 0x150 0x152 || inR p 0x160 0x165 || inR p 0x170 0x171
    || inR p 0x180 0x183 || inR p 0x190 0x191 then some .vx
  else if inR p 0x220 0x224 then some .mx
  else if inR p 0x320 0x324 then some .cv
  else none

/-- Ports that start no unit. -/
def plainPort (p : Nat) : Bool :=
  inR p 0 0x3F || inR p 0x040 0x041 || inR p 0x060 0x061 || inR p 0x080 0x082 || inR p 0x090 0x094
  || inR p 0x0A0 0x0A2 || inR p 0x0A4 0x0A7 || inR p 0x0C0 0x0C2 || inR p 0x0E0 0x0E2 || p == 0x0F0
  || inR p 0x100 0x10A || inR p 0x200 0x20B || inR p 0x300 0x30D || p == 0x380 || inR p 0x383 0x386
  || inR p 0x3A0 0x3CF || inR p 0x3D8 0x3DE || inR p 0x3FE 0x3FF || inR p 0x800 0x801 || inR p 0x810 0x81F

/-- R79, R100: a port number the tables list. -/
def isPort (p : Nat) : Bool := plainPort p || (trigUnit p).isSome

/-- R100: a LOOP port while LOOPEN = 0, or a LIB port while CALEN = 0. -/
def portDisabled (t : Tile) (p : Nat) : Bool :=
  (!t.loopen && (inR p 0x0E0 0x0E2 || inR p 0x0E8 0x0E9)) || (!t.calen && (p == 0x0F0 || p == 0x0F8))

/-- R79: level of a port: 0 U, 1 S, 2 SS. MX.sadj is readable at U. -/
def portLevel (p : Nat) (write : Bool) : Nat :=
  if p == 0x3CE || inR p 0x816 0x817 || inR p 0x81E 0x81F then 2
  else if inR p 0x3C9 0x3CD || p == 0x3CF || inR p 0x3D4 0x3D6 || inR p 0x3D8 0x3DE || p == 0x3E0
    || inR p 0x223 0x224 || (p == 0x20B && write) then 1
  else 0

/-- R79: the tile's code has a level. -/
def levelOk (t : Tile) (l : Nat) : Bool := l == 0 || (t.sup && (l == 1 || serge t))

/-- R100: the catalogue of R92. -/
def catalogued (x : Word) : Bool :=
  x == 0 || x == 1 || x == 2 || x == 0x10 || x == 0x11 || x == 0x12 || x == 0x13 || x == 0x14 || x == 0x20

/-! ## Reads -/

/-- R174: MX.bk. -/
def mxBk (m : Mx) : Word :=
  wOf (m.bankA.kind.toNat + 4 * m.bankB.kind.toNat + 16 * b2n m.bankA.listValid + 32 * b2n m.bankB.listValid
    + 64 * m.bankA.nrep.toNat + 256 * m.bankB.nrep.toNat)

/-- R115: SYS.ccfg as a deterministic-mode tile reads it. -/
def ccfgOf (t : Tile) : Word :=
  let k := t.cache
  wOf (b2n (k.ien && !t.det) + 2 * b2n (k.den && !t.det) + 4 * b2n (k.pfen && !t.det) + 8 * k.scr.toNat
    + 32768 * k.sbase.toNat)

def loopCnt (b : Bank) : Word := match b.loops with | l :: _ => wOf l.count.toNat | [] => 0

/-- R232: SYS.niovr. -/
def niovrOf (e : Exc) : Word :=
  bAt e.niOvr 0 ||| (match e.niOpen with | some (_, n) => wOf (2 + 65536 * n) | none => 0)

def xdpOf (e : Exc) : Word :=
  bAt e.msh 0 ||| bAt e.ssh 1 ||| bAt e.fatal 2 ||| wOf (65536 * e.mpush.toNat + 2 ^ 32 * e.spush.toNat)

/-- Sends and puts that are triggered and not yet completed: in the store buffer, handed off, or remote. -/
def meshOpen (t : Tile) : Nat :=
  (t.sb.filter fun e => e.kind == .send || e.kind == .put).length + (t.mesh.out.filter fun o => o.live).length

/-- R299, R301: outstanding sends and puts, at most 4: a fifth that waits in the store buffer is not outstanding (assumption 113). -/
def meshOut (t : Tile) : Nat := min 4 (meshOpen t)

/-- R204: the port view of the selected slot. -/
def cvHist (c : Cv) : Word :=
  let sl := slotOf c (c.sel.toNat % 32)
  match sl.ring[c.sel.toNat / 32]? with
  | some x => wOf (x.toNat + 2 ^ 32)
  | none => 0

/-- What a move reads from port p (R5: a trigger reads 0). -/
def readPort (s : State) (i p : Nat) : Word :=
  let t := tileOf s i
  let b := bankOf t
  if p < 64 then gReg b p
  else if inR p 0x3A0 0x3BF then wOf (counterOf s i (p - 0x3A0)).toNat
  else if inR p 0x810 0x817 then smGet 0 t.mesh.mb (p - 0x810)
  else if inR p 0x818 0x81F then wOf (smGet 0 t.mesh.rc (p - 0x818) % 65536)
  else match p with
  | 0x040 => b.al0o
  | 0x041 => b.al0r
  | 0x060 => b.al1o
  | 0x061 => b.al1r
  | 0x080 => b.mulo
  | 0x081 => b.mullo
  | 0x082 => b.mulhi
  | 0x090 => b.divo
  | 0x091 => b.divd
  | 0x092 => b.divq
  | 0x093 => b.divrem
  | 0x094 => divStOf b
  | 0x0A0 => b.lsuo
  | 0x0A1 => b.lsud
  | 0x0A2 => wOf b.lsusz.toNat
  | 0x0A4 => b.r0
  | 0x0A5 => b.r1
  | 0x0A6 => b.r2
  | 0x0A7 => b.r3
  | 0x0C0 => b.link
  | 0x0C1 => b.cbo
  | 0x0C2 => b.cbtgt
  | 0x0E0 => b.loopEnd
  | 0x0E1 => wOf b.loops.length
  | 0x0E2 => loopCnt b
  | 0x0F0 => wOf t.libLast.toNat
  | 0x100 => wOf t.vx.vl.toNat
  | 0x101 => t.vx.sa
  | 0x102 => t.vx.sb
  | 0x103 => t.vx.sc
  | 0x104 => wOf t.vx.a.toNat
  | 0x105 => wOf t.vx.stride.toNat
  | 0x106 => wOf t.vx.k.toNat
  | 0x107 => t.vx.d
  | 0x108 => t.vx.r
  | 0x109 => wOf (b2n (!t.vx.queue.isEmpty) + 2 * vxHeld t.vx.queue + 16 * t.vx.st.toNat)
  | 0x10A => wOf t.vx.fe.toNat
  | 0x200 => wOf t.mx.aa.toNat
  | 0x201 => wOf t.mx.aks.toNat
  | 0x202 => wOf t.mx.ba.toNat
  | 0x203 => wOf t.mx.bks.toNat
  | 0x204 => wOf t.mx.asd.toNat
  | 0x205 => wOf t.mx.bsd.toNat
  | 0x206 => wOf t.mx.da.toNat
  | 0x207 => wOf t.mx.drs.toNat
  | 0x208 => wOf t.mx.cfg.toNat
  | 0x209 => wOf (b2n (!t.mx.queue.isEmpty) + 2 * t.mx.queue.length + 16 * t.mx.st.toNat)
  | 0x20A => mxBk t.mx
  | 0x20B => wOf (t.mx.bankA.sadj.toNat + 65536 * t.mx.bankB.sadj.toNat)
  | 0x300 => wOf t.cv.sa.toNat
  | 0x301 => wOf t.cv.sb.toNat
  | 0x302 => wOf t.cv.da.toNat
  | 0x303 => wOf t.cv.sd.toNat
  | 0x304 => wOf t.cv.n.toNat
  | 0x305 => wOf t.cv.x.toNat
  | 0x306 => wOf t.cv.d.toNat
  | 0x307 => bAt t.cv.sren 0
  | 0x308 => wOf t.cv.sel.toNat
  | 0x309 => wOf (slotOf t.cv (t.cv.sel.toNat % 32)).amax.toNat
  | 0x30A => cvHist t.cv
  | 0x30B =>
    let sl := slotOf t.cv (t.cv.sel.toNat % 32)
    wOf (sl.w.toNat + 16 * b2n sl.grad + 32 * sl.ring.length)
  | 0x30C => wOf t.cv.xr.toNat
  | 0x30D => wOf (b2n (!t.cv.queue.isEmpty) + 2 * t.cv.queue.length + 16 * t.cv.st.toNat)
  | 0x380 => wOf (flagsOf s i).toNat
  | 0x383 => wOf t.thr.toNat
  | 0x384 => wOf t.lostclr.toNat
  | 0x385 => wOf t.csat.toNat
  | 0x386 => wOf t.held.toNat
  | 0x3C0 => wOf b.flags.toNat
  | 0x3C1 => wlOf t
  | 0x3C2 => wOf t.pc
  | 0x3C3 => wOf i
  | 0x3C4 => s.fr.fnum
  | 0x3C5 => s.fr.frel
  | 0x3C6 => s.fr.fcyc
  | 0x3C7 => s.fr.cyc
  | 0x3C8 => wOf (b2n t.det + 2 * b2n t.loopen + 4 * b2n t.calen + 8 * b2n b.inlib)
  | 0x3C9 => wOf t.exc.emu.toNat
  | 0x3CA => wOf t.exc.niwin.toNat
  | 0x3CB => niovrOf t.exc
  | 0x3CC => ccfgOf t
  | 0x3CD => wOf t.exc.xtbM.toNat
  | 0x3CE => wOf t.exc.xtbS.toNat
  | 0x3CF => if serge t then t.exc.xspS else t.exc.xspM
  | 0x3D8 => (match curRec t with | some r => r.pc | none => 0)
  | 0x3D9 => (match curRec t with | some r => r.st | none => 0)
  | 0x3DA => (match curRec t with | some r => r.cs | none => 0)
  | 0x3DB => (match curRec t with | some r => r.fa | none => 0)
  | 0x3DC => xdpOf t.exc
  | 0x3DD => wOf (if serge t then t.exc.ieS else t.exc.ieM).toNat
  | 0x3DE => wOf (t.exc.ipM.toNat + (if serge t then 65536 * t.exc.ipS.toNat else 0))
  | 0x3FE => wOf b.limm.toNat
  | 0x3FF => sext64 52 b.limm.toNat
  | 0x800 => wOf t.mesh.pa.toNat
  | 0x801 =>
    wOf (b2n (decide (meshOut t ≠ 0)) + 2 * meshOut t + 16 * b2n t.mesh.nak + 32 * b2n t.mesh.rto + 64 * b2n t.mesh.rdrop)
  | _ => 0

/-! ## Writes -/

/-- R115: a write to SYS.ccfg; IEN, DEN and PFEN are ignored in deterministic mode. Raising SCR discards the lines of the
ways it takes; lowering it loses the scratch bytes of the ways it gives back. -/
def writeCcfg (t : Tile) (x : Word) : Tile :=
  let k := t.cache
  let n := wBits x 4 3
  { t with cache := { k with
    ien := if t.det then k.ien else wBit x 0
    den := if t.det then k.den else wBit x 1
    pfen := if t.det then k.pfen else wBit x 2
    scr := BitVec.ofNat 2 n
    sbase := BitVec.ofNat 37 (wBits x 51 15)
    dlines := k.dlines.filter fun l => decide (l.way + n < 4)
    scratch := smDrop k.scratch (8192 * n) 32768 } }

/-- R134: VL, clamped to 2,048 on the whole value. -/
def writeVl (v : Vx) (x : Word) : Vx :=
  if x.toNat ≤ 2048 then { v with vl := BitVec.ofNat 12 x.toNat } else { v with vl := 2048, st := v.st ||| 1 }

/-- R300: a mailbox port's slots lie where a message may land. The refused offset. -/
def mailboxBad (s : State) (i : Nat) (x : Word) : Option Nat :=
  let base := wBits x 39 20 / 256 * 256
  spanBad s i (bankOf (tileOf s i)).inlib true base (256 * (wBits x 4 1 + 1))

def modExc (s : State) (i : Nat) (f : Exc → Exc) : State := modTile s i fun t => { t with exc := f t.exc }

/-- R221: the move to a table base makes the tile read the table; the latch changes when the read completes. -/
def writeXtb (s : State) (i : Nat) (srg : Bool) (x : Word) (wid : Nat) : State :=
  let old := if srg then (tileOf s i).exc.latchPendS else (tileOf s i).exc.latchPendM
  let s := match old with | some (_, w) => opLost s i w | none => s
  let x := x &&& 0xFFFFFFFFFFFFF
  opAdd (modExc s i fun e =>
    if srg then { e with xtbS := BitVec.ofNat 52 x.toNat, latchPendS := some (x, wid) }
    else { e with xtbM := BitVec.ofNat 52 x.toNat, latchPendM := some (x, wid) }) i wid

def modVx (s : State) (i : Nat) (f : Vx → Vx) : State := modTile s i fun t => { t with vx := f t.vx }
def modMx (s : State) (i : Nat) (f : Mx → Mx) : State := modTile s i fun t => { t with mx := f t.mx }
def modCv (s : State) (i : Nat) (f : Cv → Cv) : State := modTile s i fun t => { t with cv := f t.cv }
def modBk (s : State) (i : Nat) (f : Bank → Bank) : State := modTile s i fun t => modBank t f

/-- R227: a write to an exception record; outside a handler it is discarded. -/
def writeRec (s : State) (i : Nat) (f : XRec → XRec) : State :=
  modTile s i fun t => match curRec t with
    | some r => setCurRec t (f r)
    | none => t

def w20 (x : Word) : BitVec 20 := BitVec.ofNat 20 x.toNat

/-- What a move of x into port p, which starts no unit, leaves (R5, R71 step 4). SYS.flags is not written here: its update
becomes visible with the ALU flags (R71 step 6). `wid` is the word's number. -/
def writePort (s : State) (i p : Nat) (x : Word) (wid : Nat) : State :=
  if p < 64 then modBk s i fun b => setG b p x
  else if inR p 0x3A0 0x3BF then
    let n := p - 0x3A0
    let act := fun s => setCounter s i n (BitVec.ofNat 16 x.toNat)
    if 24 ≤ n then withEffect s i act else act s
  else if inR p 0x810 0x817 then
    modTile s i fun t => { t with mesh := { t.mesh with
      mb := smSet 0 t.mesh.mb (p - 0x810) (wOf (wBits x 13 0 + 2 ^ 20 * (wBits x 39 20 / 256 * 256)))
      rc := smSet 0 t.mesh.rc (p - 0x810) 0
      arrived := t.mesh.arrived.filter fun a => a.mb != p - 0x810 } }
  else match p with
  | 0x040 => modBk s i fun b => { b with al0o := x }
  | 0x060 => modBk s i fun b => { b with al1o := x }
  | 0x080 => modBk s i fun b => { b with mulo := x }
  | 0x090 => modBk s i fun b => { b with divo := x }
  | 0x094 => modBk s i fun b => { b with divDz := b.divDz && !wBit x 1, divRst := b.divRst && !wBit x 2 }
  | 0x0A0 => modBk s i fun b => { b with lsuo := x }
  | 0x0A1 => modBk s i fun b => { b with lsud := x }
  | 0x0A2 => modBk s i fun b => { b with lsusz := BitVec.ofNat 3 x.toNat }
  | 0x0C0 => modBk s i fun b => { b with link := x }
  | 0x0C1 => modBk s i fun b => { b with cbo := x }
  | 0x0C2 => modBk s i fun b => { b with cbtgt := x }
  | 0x0E0 => modBk s i fun b => { b with loopEnd := x }
  | 0x100 => modVx s i fun v => writeVl v x
  | 0x101 => modVx s i fun v => { v with sa := wOf (wBits x 26 0) }
  | 0x102 => modVx s i fun v => { v with sb := wOf (wBits x 26 0) }
  | 0x103 => modVx s i fun v => { v with sc := wOf (wBits x 26 0) }
  | 0x104 => modVx s i fun v => { v with a := w20 x }
  | 0x105 => modVx s i fun v => { v with stride := BitVec.ofNat 32 x.toNat }
  | 0x106 => modVx s i fun v => { v with k := BitVec.ofNat 11 x.toNat }
  | 0x107 => modVx s i fun v => { v with d := x }
  | 0x109 => modVx s i fun v => { v with st := v.st &&& ~~~(BitVec.ofNat 7 (wBits x 10 4)) }
  | 0x200 => modMx s i fun m => { m with aa := w20 x }
  | 0x201 => modMx s i fun m => { m with aks := w20 x }
  | 0x202 => modMx s i fun m => { m with ba := w20 x }
  | 0x203 => modMx s i fun m => { m with bks := w20 x }
  | 0x204 => modMx s i fun m => { m with asd := w20 x }
  | 0x205 => modMx s i fun m => { m with bsd := w20 x }
  | 0x206 => modMx s i fun m => { m with da := w20 x }
  | 0x207 => modMx s i fun m => { m with drs := w20 x }
  | 0x208 => modMx s i fun m => { m with cfg := BitVec.ofNat 2 x.toNat }
  | 0x209 => modMx s i fun m => { m with st := m.st &&& ~~~(BitVec.ofNat 5 (wBits x 8 4)) }
  | 0x20B => modMx s i fun m => { m with
      bankA := { m.bankA with sadj := BitVec.ofNat 16 (wBits x 15 0) }
      bankB := { m.bankB with sadj := BitVec.ofNat 16 (wBits x 31 16) } }
  | 0x300 => modCv s i fun c => { c with sa := w20 x }
  | 0x301 => modCv s i fun c => { c with sb := w20 x }
  | 0x302 => modCv s i fun c => { c with da := w20 x }
  | 0x303 => modCv s i fun c => { c with sd := BitVec.ofNat 36 x.toNat }
  | 0x304 => modCv s i fun c => { c with n := BitVec.ofNat 21 x.toNat }
  | 0x305 => modCv s i fun c => { c with x := BitVec.ofNat 32 x.toNat }
  | 0x306 => modCv s i fun c => { c with d := BitVec.ofNat 32 x.toNat }
  | 0x307 => modCv s i fun c => { c with sren := wBit x 0 }
  | 0x308 => modCv s i fun c => { c with sel := BitVec.ofNat 9 x.toNat }
  | 0x30D => modCv s i fun c => { c with st := c.st &&& ~~~(BitVec.ofNat 6 (wBits x 9 4)) }
  | 0x383 => modTile s i fun t => { t with thr := BitVec.ofNat 16 x.toNat }
  | 0x384 => clearLost s i (BitVec.ofNat 32 x.toNat)
  | 0x385 => clearSat s i (BitVec.ofNat 32 x.toNat)
  | 0x3CA => modExc s i fun e => { e with niwin := BitVec.ofNat 11 (max 16 (min 1024 (wBits x 10 0))) }
  | 0x3CB => modExc s i fun e => { e with niOvr := e.niOvr && !wBit x 0 }
  | 0x3CC => modTile s i fun t => writeCcfg t x
  | 0x3CD => writeXtb s i false x wid
  | 0x3CE => writeXtb s i true x wid
  | 0x3CF => modExc s i fun e =>
      if serge (tileOf s i) then { e with xspS := x } else { e with xspM := x }
  | 0x3D8 => writeRec s i fun r => { r with pc := x &&& ~~~(15#64) }
  | 0x3D9 => writeRec s i fun r => { r with st := (r.st &&& ~~~(3#64)) ||| (x &&& 3) }
  | 0x3DD => modExc s i fun e =>
      if serge (tileOf s i) then { e with ieS := BitVec.ofNat 16 x.toNat } else { e with ieM := BitVec.ofNat 16 x.toNat }
  | 0x801 => modTile s i fun t => { t with mesh := { t.mesh with
      nak := t.mesh.nak && !wBit x 4
      rto := t.mesh.rto && !wBit x 5
      rdrop := t.mesh.rdrop && !wBit x 6 } }
  | 0x800 => modTile s i fun t => { t with mesh := { t.mesh with pa := BitVec.ofNat 44 (wBits x 43 0) } }
  | _ => s

end Sys2Proof.Machine
end

