-- ==== Sys2Proof/Machine/Issue.lean ====
section
/-! DEFINITION. The triggers of a word: what each one checks and starts (03_tile_isa.md, 04_pipeline_caches.md and the
chapters that own a port). -/

namespace Sys2Proof.Machine

open Sys2Proof

/-- A move of a word: its slot, destination, value, and the port it read, if any. -/
structure Moved where
  slot : Nat
  dst : Nat
  x : Word
  src : Option Nat
  deriving DecidableEq, Repr

/-- What the triggers of a word ask of the control processor. -/
structure Ctl where
  exs : List Pexc
  hold : Bool
  flags : Option (Nat × BitVec 4)
  jump : Option Nat
  skip : Option Nat
  lib : Option (BitVec 8)
  trap : Option Word
  ret : Bool
  fend : Bool
  deriving DecidableEq, Repr

def Ctl.none : Ctl :=
  { exs := [], hold := false, flags := .none, jump := .none, skip := .none, lib := .none,
    trap := .none, ret := false, fend := false }

def ctlExc (c : Ctl) (p : Pexc) : Ctl := { c with exs := c.exs ++ [p] }

/-- R71 step 6: the flag update of the highest slot stands. -/
def ctlFlags (c : Ctl) (slot : Nat) (f : BitVec 4) : Ctl :=
  match c.flags with
  | some (k, _) => if slot < k then c else { c with flags := some (slot, f) }
  | .none => { c with flags := some (slot, f) }

/-- R63: whether an effect made now is one that a replay treats as done, and the tile with the effect counted. -/
def countEffect (s : State) (i : Nat) : Bool × State :=
  let t := tileOf s i
  (decide (t.effects < t.skip), setTile s i { t with effects := t.effects + 1 })

/-- A pending operation of a word that no replay skips; a skipped one is complete. -/
def skippedDone (skip : Bool) (s : State) (i wid : Nat) : State := if skip then s else opAdd s i wid

/-! ## ALUs, multiplier, divider -/

/-- R81: an ALU trigger. -/
def trigAlu (s : State) (i : Nat) (one : Bool) (m : Moved) (op : Nat) (c : Ctl) : State × Ctl :=
  let b := bankOf (tileOf s i)
  let (r, f) := aluOp op (if one then b.al1o else b.al0o) m.x (fC b.flags)
  let s := if op = 11 then s
    else modBk s i fun b => if one then { b with al1p := some (r, 1) } else { b with al0p := some (r, 1) }
  (s, ctlFlags c m.slot f)

/-- R82: a multiplication starts; its product lands three cycles later. -/
def trigMul (s : State) (i op : Nat) (x : Word) (wid : Nat) : State :=
  opAdd (modBk s i fun b => { b with mulp := b.mulp ++ [⟨mulOp op b.mulo x, 3, wid⟩] }) i wid

/-- R83, R84: a division starts; one in progress, or one due to restart, is abandoned. -/
def trigDiv (s : State) (i : Nat) (signed : Bool) (x : Word) (wid : Nat) : State :=
  let s := match (bankOf (tileOf s i)).div with
    | some d => opLost s i d.wid
    | none => s
  opAdd (modBk s i fun b => { b with divd := x, divLast := none, div := some ⟨signed, b.divo, wid⟩ }) i wid

/-! ## Load-store unit -/

/-- R85, R116, R458: the checks and the translation of an access at issue: a refusal, or how it goes on, with the data
TLB after it. -/
def lsuLook (s : State) (i : Nat) (store : Bool) (va n : Nat) : Except Nat (Trans × List TlbEntry) :=
  let t := tileOf s i
  if 2 ^ 52 < va + n then .error 1
  else match scratchClass t va n with
    | 2 => .error 9
    | 1 => .ok (.scratch, t.dtlb)
    | _ => match lookData s i (whoOf t) store t.cache.patchStores va n with
      | (.miss, l) => .ok (.walking, l)
      | (.refused r, _) => .error r.toNat
      | (.hit tr, l) => .ok (tr, l)

/-- Whether two accesses share a byte: by virtual address in one class and one world, for the worlds have contexts of their own, or by
translated address. -/
def sharesByte (srg : Bool) (va n : Nat) (tr : Trans) (srg' : Bool) (va' n' : Nat) (tr' : Trans) : Bool :=
  if tr == .scratch || tr' == .scratch then tr == tr' && overlap va n va' n'
  else (srg == srg' && overlap va n va' n') || piecesMeet (pieces tr n) (pieces tr' n')

/-- A store shares a byte with an access of a world. -/
def storeMeets (srg : Bool) (va n : Nat) (tr : Trans) (e : SbEntry) : Bool :=
  e.kind == .store && sharesByte srg va n tr e.who.serge e.va e.data.length e.tr

/-- R120: what the store buffer says of a load. -/
inductive Fwd where
  | no
  | hold
  | data (bs : List Byte)
  deriving DecidableEq, Repr

/-- R120: exact overlap gives the youngest store's data; a partial one holds the word. -/
def forward (sb : List SbEntry) (srg : Bool) (va n : Nat) (tr : Trans) : Fwd :=
  let meet := sb.filter (storeMeets srg va n tr)
  if meet.all fun e => e.va == va && e.data.length == n && (tr == .scratch || e.who.serge == srg) then
    (match meet.getLast? with | some e => .data e.data | none => .no)
  else .hold

/-- R85, R120, R129: a load trigger of LSU.rk. -/
def trigLoad (s : State) (i : Nat) (k : Nat) (m : Moved) (wid : Nat) (c : Ctl) : State × Ctl :=
  let t := tileOf s i
  let b := bankOf t
  let va := (b.lsuo + m.x).toNat
  let n := 2 ^ (b.lsusz.toNat % 4)
  match lsuLook s i false va n with
  | .error r => (s, ctlExc c ⟨6, 2 * m.slot, 8, r, wOf va, 2 ^ m.slot⟩)
  | .ok (tr, l) =>
    match forward t.sb (serge t) va n tr with
    | .hold => (s, { c with hold := true })
    | f =>
      let fwd := match f with | .data bs => some bs | _ => none
      let ld : Load :=
        { k := BitVec.ofNat 2 k, va := va, size := n, sx := b.lsusz.getLsbD 2, who := whoOf t, tr := tr, fwd := fwd,
          overload := fwd.isNone && decide (overLimit s i (serge t) va n tr ≠ 0), overAt := overLimit s i (serge t) va n tr, noted := false, wid := wid, seq := t.nextSeq }
      let (ld, s) := startLoad (setTile s i { t with dtlb := l, nextSeq := t.nextSeq + 1 }) i ld
      (opAdd (modTile s i fun t => { t with loads := t.loads ++ [ld] }) i wid, c)

/-- Whether an address lies in the tile's own window, as its translation says (R63). -/
def ownWindow (s : State) (i : Nat) (va : Nat) (tr : Trans) : Bool :=
  let pa := match tr with
    | .phys pa _ _ _ _ _ => some pa
    | .walking => ((fillTlb s i (serge (tileOf s i)) false va).1).map fun e => tlbPa e va
    | _ => none
  match pa with
  | some p => (match paClass p with | .store j _ => j == i | .pad j => j == i | _ => false)
  | none => true

/-- R63: a store to this translation is an effect. -/
def storeEffect (s : State) (i : Nat) (va : Nat) (tr : Trans) : Bool := tr != .scratch && !ownWindow s i va tr

/-- R85, R119, R121: a store trigger; the store enters the buffer. -/
def trigStore (s : State) (i : Nat) (m : Moved) (wid : Nat) (c : Ctl) : State × Ctl :=
  let t := tileOf s i
  let b := bankOf t
  let va := (b.lsuo + m.x).toNat
  let n := 2 ^ (b.lsusz.toNat % 4)
  match lsuLook s i true va n with
  | .error r => (s, ctlExc c ⟨6, 2 * m.slot, 8, r, wOf va, 2 ^ m.slot⟩)
  | .ok (tr, l) =>
    if 8 ≤ t.sb.length then (s, { c with hold := true })
    else
      let excess := overLimit s i (serge t) va n tr
      let (skip, s) := if storeEffect s i va tr then countEffect s i else (false, s)
      let t := tileOf s i
      let e : SbEntry :=
        { kind := .store, who := whoOf t, va := va, data := leBytes n b.lsud.toNat, x := m.x, pa := 0,
          tr := classStore (whoOf t) tr,
          overload := decide (excess ≠ 0) && !skip, overAt := excess, skip := skip, patch := t.cache.patchStores, wid := wid, seq := t.nextSeq }
      (opAdd (setTile s i { t with sb := t.sb ++ [e], dtlb := l, nextSeq := t.nextSeq + 1 }) i wid, c)

/-- R113: a prefetch hint asks for one line of stacked memory, never faults, and is ignored in deterministic mode. -/
def trigPrefetch (s : State) (i : Nat) (x : Word) : State :=
  let t := tileOf s i
  let va := ((bankOf t).lsuo + x).toNat
  if t.det || !t.cache.den || decide (2 ^ 52 ≤ va) || scratchClass t va 1 == 1 then s
  else match fillTlb s i (serge t) false va with
    | (none, _) => s
    | (some e, s) =>
      let pa := tlbPa e va
      let t := tileOf s i
      if (leafCheck e t.sup .load false).isSome || e.nc || paClass pa != .stacked || linePresent t.cache false pa then s
      else setTile s i { t with cache := { t.cache with reqs := t.cache.reqs ++ [⟨false, lineOf pa, true⟩] } }

/-- R85: a fence waits for every earlier store of the tile; with none open it completes with its word. -/
def trigFence (s : State) (i wid : Nat) : State :=
  let t := tileOf s i
  if t.handed.isEmpty && !t.sb.any fun e => e.kind == .store then s
  else opAdd (modTile s i fun t => { t with fences := t.fences ++ [(wid, t.nextSeq)], nextSeq := t.nextSeq + 1 }) i wid

/-- Puts a submission, a send or a put into the store buffer (R119); each is an effect (R63). -/
def trigBuffered (s : State) (i : Nat) (kind : SbKind) (x : Word) (wid : Nat) (c : Ctl) : State × Ctl :=
  let t := tileOf s i
  if 8 ≤ t.sb.length then (s, { c with hold := true })
  else
    let excess := t.det && kind != .dma && decide (4 ≤ meshOpen t)
    let (skip, s) := countEffect s i
    let t := tileOf s i
    let e : SbEntry :=
      { kind := kind, who := whoOf t, va := 0, data := [], x := x, pa := t.mesh.pa.toNat / 64 * 64, tr := .scratch,
        overload := excess && !skip, overAt := 4 * b2n excess, skip := skip, patch := false, wid := wid, seq := t.nextSeq }
    (opAdd (setTile s i { t with sb := t.sb ++ [e], nextSeq := t.nextSeq + 1 }) i wid, c)

/-- R278: a DMA submission; its descriptor's place is checked at the trigger. -/
def trigDma (s : State) (i : Nat) (m : Moved) (wid : Nat) (c : Ctl) : State × Ctl :=
  let a := wBits m.x 19 0
  if a % 64 ≠ 0 || (spanBad s i (bankOf (tileOf s i)).inlib false a 64).isSome then
    (s, ctlExc c ⟨6, 2 * m.slot, 8, 8, wOf a, 2 ^ m.slot⟩)
  else trigBuffered s i .dma m.x wid c

/-- R301, R303: the source of a send or put: offset and lines. -/
def meshSource (put : Bool) (x : Word) : Nat × Nat :=
  if put then (wBits x 30 11, wBits x 3 0 + 1) else (wBits x 45 26, wBits x 18 17 + 1)

/-- R301, R303: a send or a put; the source is checked at the trigger. -/
def trigMesh (s : State) (i : Nat) (put : Bool) (m : Moved) (wid : Nat) (c : Ctl) : State × Ctl :=
  let (a, n) := meshSource put m.x
  let c := if !put && decide (6 ≤ wBits m.x 16 14) && !serge (tileOf s i) then ctlExc c ⟨3, m.slot, 2, 1, 0x820, 2 ^ m.slot⟩ else c
  match (if a % 64 ≠ 0 then some a else spanBad s i (bankOf (tileOf s i)).inlib false a (64 * n)) with
  | some off => (s, ctlExc c ⟨6, 2 * m.slot, 8, 8, wOf off, 2 ^ m.slot⟩)
  | none => trigBuffered s i (if put then .put else .send) m.x wid c

/-! ## Branches, loops, library -/

/-- R86: the target of a relative branch: x words from the branch word. -/
def relTarget (pc : Nat) (x : Word) : Nat := (wOf pc + x * 16).toNat

/-- R108: the predictor learns the outcome of a branch, in normal mode. -/
def learn (s : State) (i pc : Nat) (taken : Option Nat) : State :=
  modTile s i fun t =>
    if t.det then t else
    let k := bitsOf pc 12 4
    let (n, g) := smGet (0, 0) t.cache.pred k
    let v : BitVec 2 × BitVec 52 := match taken with
      | some a => (if n = 3 then 3 else n + 1, BitVec.ofNat 52 a)
      | none => (if n = 0 then 0 else n - 1, g)
    { t with cache := { t.cache with pred := smSet (0, 0) t.cache.pred k v } }

/-- A branch's outcome. -/
def branch (s : State) (i pc : Nat) (taken : Option Nat) (c : Ctl) : State × Ctl :=
  (learn s i pc taken, match taken with | some a => { c with jump := some a } | none => c)

/-- R86, R457: a misaligned absolute target is found before all else. -/
def alignExc (m : Moved) : Option Pexc :=
  if (m.dst = 0x0C8 ∨ m.dst = 0x0CA) ∧ m.x.toNat % 16 ≠ 0 then some ⟨1, m.slot, 4, 0, m.x, 2 ^ m.slot⟩ else none

/-- R86, R87: a branch trigger, by port; an absolute target is aligned (`alignExc`). -/
def trigBr (s : State) (i pc : Nat) (m : Moved) (c : Ctl) : State × Ctl :=
  let b := bankOf (tileOf s i)
  let link := fun s => modBk s i fun b => { b with link := wOf (pc + 16) }
  let abs := fun s => branch s i pc (some m.x.toNat) c
  match m.dst with
  | 0x0C8 => abs s
  | 0x0C9 => branch s i pc (some (relTarget pc m.x)) c
  | 0x0CA => abs (link s)
  | 0x0CB => branch (link s) i pc (some (relTarget pc m.x)) c
  | p =>
    if p ≤ 0x0D5 then
      branch s i pc (if brCond (p - 0x0CC) b.flags then some (relTarget pc m.x) else none) c
    else
      branch s i pc (if cbCond (p - 0x0D8) b.cbo m.x then some (relTarget pc b.cbtgt) else none) c

/-- R88: opens a loop level, or continues after the body for a count of 0. -/
def trigLoop (s : State) (i pc : Nat) (m : Moved) (c : Ctl) : State × Ctl :=
  let b := bankOf (tileOf s i)
  let n := BitVec.ofNat 32 m.x.toNat
  let last := (wOf pc + b.loopEnd * 16).toNat
  if b.loopEnd = 0 then (s, ctlExc c ⟨5, m.slot, 7, 2, 0, 2 ^ m.slot⟩)
  else if n = 0 then (s, { c with skip := some (wOf last + 16).toNat })
  else if 4 ≤ b.loops.length then (s, ctlExc c ⟨5, m.slot, 7, 1, 0, 2 ^ m.slot⟩)
  else
    (modTile s i fun t => { modBank t (fun b => { b with loops := ⟨(wOf pc + 16).toNat, last, n, true⟩ :: b.loops }) with
      cache := { t.cache with loopBuf := [] } }, c)

/-- R89: closes the k innermost levels. -/
def trigBrk (s : State) (i : Nat) (m : Moved) (c : Ctl) : State × Ctl :=
  let k := m.x.toNat
  if k = 0 ∨ 4 < k ∨ (bankOf (tileOf s i)).loops.length < k then (s, ctlExc c ⟨5, m.slot, 7, 3, 0, 2 ^ m.slot⟩)
  else
    (modTile s i fun t => { modBank t (fun b => { b with loops := b.loops.drop k }) with
      cache := { t.cache with loopBuf := [] } }, c)

/-- R90: a Calico call; one of a routine outside the catalogue traps before this (R100). -/
def trigLib (s : State) (i : Nat) (m : Moved) (c : Ctl) : State × Ctl :=
  let b := bankOf (tileOf s i)
  if b.inlib then (s, ctlExc c ⟨4, m.slot, 1, 5, 0, 2 ^ m.slot⟩)
  else if 4 ≤ b.loops.length then (s, ctlExc c ⟨5, m.slot, 7, 1, 0, 2 ^ m.slot⟩)
  else (s, { c with lib := some (BitVec.ofNat 8 m.x.toNat) })

/-! ## Flags and system triggers -/

/-- R63, R96: a move that names flags: the shared part of it is an effect. -/
def moveFlags (s : State) (i : Nat) (mask : BitVec 32) (set : Bool) : State :=
  if mask.extractLsb' 24 8 = 0 then changeFlags s i mask set
  else
    let (skip, s) := countEffect s i
    changeFlags s i (if skip then mask &&& 0xFFFFFF else mask) set

/-- R275: a shootdown is asked for; one asked for in the gap is served in the next. -/
def askShootdown (s : State) : State :=
  { s with fr := { s.fr with
    shootReq := s.fr.shootReq || !s.fr.inGap
    shootNext := s.fr.shootNext || s.fr.inGap } }

/-- R117: an invalidation starts; the lines leave at once, whole caches miss until it completes. A single line whose address does
not translate drops nothing and completes; the page's level is not checked (DESIGN CHOICE, assumption 110). -/
def trigCinv (s : State) (i : Nat) (x : Word) (wid : Nat) : State :=
  let t := tileOf s i
  if t.det then s
  else
    let sel := BitVec.ofNat 3 x.toNat
    let start := fun (k : CacheSt) (busy : BitVec 3) => { k with invalidating := k.invalidating ++ [(busy, wid)] }
    if !wBit x 3 then opAdd (setTile s i { t with cache := start (dropCaches t.cache sel) sel }) i wid
    else
      let va := (bankOf t).lsuo.toNat
      let k := match (if 2 ^ 52 ≤ va then none else (fillTlb s i (serge t) false va).1) with
        | some e => dropLine t.cache sel (tlbPa e va)
        | none => t.cache
      opAdd (setTile s i { t with cache := start k 0 }) i wid

/-- R122: opens the patch window. -/
def trigIcpatch (s : State) (i : Nat) (m : Moved) (c : Ctl) : State × Ctl :=
  let t := tileOf s i
  let n := wBits m.x 7 0
  if n = 0 || t.cache.patch.isSome then (s, ctlExc c ⟨4, m.slot, 1, 4, 0, 2 ^ m.slot⟩)
  else
    (setTile s i { t with cache := { t.cache with
      patch := some (wBits m.x 51 16 * 0x10000, n * 0x10000)
      patchStores := true } }, c)

/-- R123 step 1: the window closes for stores and the flush starts. -/
def trigIcflush (s : State) (i wid : Nat) : State :=
  opAdd (modTile s i fun t => { t with
    nextSeq := t.nextSeq + 1
    cache := { t.cache with patchStores := false, flushing := t.cache.flushing ++ [(wid, t.nextSeq)] } }) i wid

/-- R231: opens a window, or closes it. -/
def trigNi (s : State) (i : Nat) (x : Word) : State :=
  modTile s i fun t => { t with exc := { t.exc with
    niOpen := (if x = 0 then none else match t.exc.niOpen with
      | some w => some w
      | none => some (serge t, t.exc.niwin.toNat)) } }

/-- R334: a host interrupt waits behind the tile's earlier host-window stores. -/
def trigHostirq (s : State) (i : Nat) (m : Moved) (wid : Nat) (c : Ctl) : State × Ctl :=
  let v := wBits m.x 5 0
  if v < 16 && !serge (tileOf s i) then (s, ctlExc c ⟨3, m.slot, 2, 1, 0x3E1, 2 ^ m.slot⟩)
  else
    let (skip, s) := countEffect s i
    if skip then (s, c)
    else
      (opAdd (modTile s i fun t => { t with
        hostirqs := t.hostirqs ++ [(BitVec.ofNat 6 v, t.nextSeq, wid)]
        nextSeq := t.nextSeq + 1 }) i wid, c)

/-- R376: a power hint of the tile's region. -/
def trigPhint (s : State) (i : Nat) (x : Word) : State :=
  withEffect s i fun s =>
    let r := regionOf s (i / 64)
    let s := setRegion s (i / 64) { r with hintsNew := r.hintsNew ++ [BitVec.ofNat 9 x.toNat] }
    if hintsOpen s then gapPower s else s

/-- R236, R237: a return; a refused one is a precise privilege fault. -/
def trigXret (s : State) (i : Nat) (m : Moved) (c : Ctl) : State × Ctl :=
  if retGranted (tileOf s i) then (s, { c with ret := true }) else (s, ctlExc c ⟨3, m.slot, 2, 2, 0, 2 ^ m.slot⟩)

/-- The SYS triggers, by port. -/
def trigSys (s : State) (i : Nat) (m : Moved) (wid : Nat) (c : Ctl) : State × Ctl :=
  match m.dst with
  | 0x3D0 => (s, { c with fend := true })
  | 0x3D1 => (trigPhint s i m.x, c)
  | 0x3D2 => (trigCinv s i m.x wid, c)
  | 0x3D3 => (trigIcflush s i wid, c)
  | 0x3D4 => trigIcpatch s i m c
  | 0x3D5 => trigXret s i m c
  | 0x3D6 => (trigNi s i m.x, c)
  | 0x3D7 => (s, { c with trap := some m.x })
  | 0x3E0 => (askShootdown s, c)
  | _ => trigHostirq s i m wid c

/-- The LSU triggers, by port. -/
def trigLsu (s : State) (i : Nat) (m : Moved) (wid : Nat) (c : Ctl) : State × Ctl :=
  match m.dst with
  | 0x0B4 => trigStore s i m wid c
  | 0x0B5 => (trigPrefetch s i m.x, c)
  | 0x0B6 => (trigFence s i wid, c)
  | 0x0B8 => trigDma s i m wid c
  | p => trigLoad s i (p - 0x0B0) m wid c

/-- What an engine's trigger answers. -/
def engine (r : Except Pexc State) (s : State) (c : Ctl) : State × Ctl :=
  match r with
  | .ok s' => (s', c)
  | .error p => (s, ctlExc c p)

/-- R71 step 5: a trigger starts its unit. -/
def trigger (i pc wid : Nat) (acc : State × Ctl) (m : Moved) : State × Ctl :=
  let (s, c) := acc
  match trigUnit m.dst with
  | none => (s, if m.dst = 0x3C0 then ctlFlags c m.slot (BitVec.ofNat 4 m.x.toNat) else c)
  | some .al0 => trigAlu s i false m (m.dst - 0x050) c
  | some .al1 => trigAlu s i true m (m.dst - 0x070) c
  | some .mul => (trigMul s i (m.dst - 0x088) m.x wid, c)
  | some .div => (trigDiv s i (m.dst == 0x098) m.x wid, c)
  | some .lsu => trigLsu s i m wid c
  | some .br => trigBr s i pc m c
  | some .loop => if m.dst = 0x0E8 then trigLoop s i pc m c else trigBrk s i m c
  | some .lib => trigLib s i m c
  | some .ws =>
    let mask := BitVec.ofNat 32 m.x.toNat
    (moveFlags s i mask (m.dst == 0x381), c)
  | some .sys => trigSys s i m wid c
  | some .mesh => trigMesh s i (m.dst == 0x821) m wid c
  | some .vx => engine (vxTrig s i m.slot (m.dst - 0x100) m.x wid) s c
  | some .mx => engine (mxTrig s i m.slot (m.dst - 0x200) m.x wid) s c
  | some .cv => engine (cvTrig s i m.slot (m.dst - 0x300) m.x wid) s c

end Sys2Proof.Machine
end

