-- ==== Sys2Proof/Machine/Words.lean ====
section
/-! DEFINITION. One instruction word (R68 to R73, R77, R78): its fields, its moves, the exceptions that keep it from issuing
(R457), and what its issue leaves. -/

namespace Sys2Proof.Machine

open Sys2Proof

/-- Where a move takes its value: an immediate or a port. -/
inductive MSrc where
  | imm (x : Word)
  | port (p : Nat)
  deriving DecidableEq, Repr

/-- A slot of a word (R69). -/
structure Slot28 where
  slot : Nat
  dst : Nat
  src : MSrc
  grd : Nat
  deriving DecidableEq, Repr

/-- A word, decoded: slots that hold moves, long immediates by the slot they begin at, signal field, wait field. -/
structure IWord where
  slots : List Slot28
  limms : List (Nat × BitVec 52)
  sg : BitVec 8
  wt : BitVec 8
  deriving DecidableEq, Repr

/-- Slot k of a word. -/
def slotBits (w k : Nat) : Nat := bitsOf w (28 * k + 27) (28 * k)

/-- R69: a slot that holds a move. -/
def slotOfBits (k v : Nat) : Slot28 :=
  { slot := k, dst := bitsOf v 11 0,
    src := if v.testBit 24 then .imm (sext64 12 (bitsOf v 23 12)) else .port (bitsOf v 23 12),
    grd := bitsOf v 27 25 }

/-- R77: slot 2j begins a long-immediate pair. -/
def isPair (v : Nat) : Bool := !v.testBit 24 && decide (bitsOf v 23 21 = 7)

/-- R77: the value of a pair. -/
def pairValue (lo hi : Nat) : BitVec 52 :=
  BitVec.ofNat 52 (bitsOf lo 20 0 + bitsOf lo 27 25 * 2 ^ 21 + hi * 2 ^ 24)

/-- Slots k and k + 1 of a word. -/
def decodePair (w k : Nat) : List Slot28 × List (Nat × BitVec 52) :=
  if isPair (slotBits w k) then ([], [(k, pairValue (slotBits w k) (slotBits w (k + 1)))])
  else ([slotOfBits k (slotBits w k), slotOfBits (k + 1) (slotBits w (k + 1))], [])

/-- R68: a 128-bit word. -/
def decodeIWord (w : Nat) : IWord :=
  let a := decodePair w 0
  let b := decodePair w 2
  { slots := a.1 ++ b.1, limms := a.2 ++ b.2, sg := BitVec.ofNat 8 (bitsOf w 119 112), wt := BitVec.ofNat 8 (bitsOf w 127 120) }

/-- A word of one unguarded move of a value (assumption 4). -/
def oneMove (dst : Nat) (x : Word) (sg : BitVec 8) : IWord :=
  { slots := [{ slot := 0, dst := dst, src := .imm x, grd := 0 }], limms := [], sg := sg, wt := 0 }

/-! ## Reading -/

/-- R78: what slot k reads: a pair below it in the word shows at once in SYS.limm and SYS.limms. -/
def readSrc (s : State) (i : Nat) (limms : List (Nat × BitVec 52)) (k : Nat) (src : MSrc) : Word :=
  match src with
  | .imm x => x
  | .port p =>
    match (limms.filter fun e => decide (e.1 + 1 < k)).getLast? with
    | some (_, v) => if p = 0x3FE then wOf v.toNat else if p = 0x3FF then sext64 52 v.toNat else readPort s i p
    | none => readPort s i p

/-- R70, R71 steps 2 and 3: the executing slots with the values they move. -/
def executing (s : State) (i : Nat) (w : IWord) : List Moved :=
  let f := (bankOf (tileOf s i)).flags
  let f0 := (flagsOf s i).getLsbD 0
  (w.slots.filter fun m => guardHolds m.grd f f0).map fun m =>
    { slot := m.slot, dst := m.dst, x := readSrc s i w.limms m.slot m.src,
      src := match m.src with | .port p => some p | .imm _ => none }

/-! ## Exceptions of a word -/

/-- R100: the slot names a reserved port. -/
def reservedSlot (m : Moved) : Bool := !isPort m.dst || (match m.src with | some p => !isPort p | none => false)

/-- R100: the slot names a port of a disabled unit. -/
def disabledSlot (t : Tile) (m : Moved) : Bool :=
  portDisabled t m.dst || (match m.src with | some p => portDisabled t p | none => false)

/-- R100: the slot calls a routine outside the catalogue. -/
def unlistedCall (t : Tile) (m : Moved) : Bool := m.dst == 0x0F8 && t.calen && !catalogued m.x

/-- The slots of a list that pass, as a mask. -/
def slotMask (p : Moved → Bool) (ms : List Moved) : Nat := (ms.filter p).foldl (fun a m => a + 2 ^ m.slot) 0

/-- R97: SYS.emu for a word, 0 when it does not trap. -/
def emuOf (t : Tile) (ms : List Moved) : BitVec 6 :=
  BitVec.ofNat 6 (slotMask reservedSlot ms + 16 * b2n (ms.any (disabledSlot t)) + 32 * b2n (ms.any (unlistedCall t)))

/-- R79: the privilege fault of a slot: its source, then its destination. -/
def privSlot (t : Tile) (m : Moved) : Option Pexc :=
  match m.src with
  | some p =>
    if !levelOk t (portLevel p false) then some ⟨3, m.slot, 2, 1, wOf p, 2 ^ m.slot⟩
    else if !levelOk t (portLevel m.dst true) then some ⟨3, m.slot, 2, 1, wOf m.dst, 2 ^ m.slot⟩ else none
  | none => if !levelOk t (portLevel m.dst true) then some ⟨3, m.slot, 2, 1, wOf m.dst, 2 ^ m.slot⟩ else none

/-- Operations that enter the store buffer (R72). -/
def buffered (p : Nat) : Bool := p == 0x0B4 || p == 0x0B8 || p == 0x820 || p == 0x821

/-- R72: slots whose trigger clashes with another one of the word. -/
def clashing (ms : List Moved) (m : Moved) : Bool :=
  ms.any fun n => n.slot != m.slot &&
    ((trigUnit m.dst).isSome && trigUnit n.dst == trigUnit m.dst || buffered m.dst && buffered n.dst)

/-- R72: the illegal-word fault of a word. -/
def clashExc (ms : List Moved) : Option Pexc :=
  match ms.find? (clashing ms) with
  | some m => some ⟨4, m.slot, 1, 1, 0, slotMask (clashing ms) ms⟩
  | none => none

/-- R457: the exception that comes first: rank, then slot. -/
def firstExc : List Pexc → Option Pexc
  | [] => none
  | p :: ps => match firstExc ps with
    | none => some p
    | some q => if q.rank < p.rank ∨ (q.rank = p.rank ∧ q.slot < p.slot) then some q else some p

/-- R300: a mailbox write's own check. -/
def mailboxExc (s : State) (i : Nat) (m : Moved) : Option Pexc :=
  if inR m.dst 0x810 0x817 then
    (mailboxBad s i m.x).map fun off => ⟨6, 2 * m.slot, 8, 8, wOf off, 2 ^ m.slot⟩
  else none

/-! ## Issue -/

/-- R7: status ports that a move of 1s clears. -/
def isW1c (p : Nat) : Bool :=
  p == 0x094 || p == 0x109 || p == 0x209 || p == 0x30D || p == 0x384 || p == 0x385 || p == 0x3CB || p == 0x801

/-- R71 step 4: the writes of the executing slots, in slot order; and the long immediate (R77). Clears by writing 1 come first, for a bit
that another slot of the word sets stays set (R7); SYS.ccfg is written at the end of the word (R115). -/
def applyWrites (s : State) (i wid : Nat) (w : IWord) (ms : List Moved) : State :=
  let plain := ms.filter fun m => (trigUnit m.dst).isNone && m.dst != 0x3CC
  let s := (plain.filter fun m => isW1c m.dst).foldl (fun s m => writePort s i m.dst m.x wid) s
  let s := (plain.filter fun m => !isW1c m.dst).foldl (fun s m => writePort s i m.dst m.x wid) s
  match w.limms.getLast? with
  | some (_, v) => modBk s i fun b => { b with limm := v }
  | none => s

/-- R115: a write of SYS.ccfg takes effect for the words after its own. -/
def applyCcfg (s : State) (i wid : Nat) (ms : List Moved) : State :=
  (ms.filter fun m => m.dst == 0x3CC).foldl (fun s m => writePort s i m.dst m.x wid) s

/-- R89: the next word when no branch is taken: the innermost level that ends at pc counts down; level that close let the
next outer one be looked at. `fuel` bounds the levels. -/
def backEdge (pc : Nat) : Nat → List LoopLevel → List LoopLevel × Option Nat
  | 0, ls => (ls, none)
  | f + 1, ls =>
    match ls.find? fun l => l.last == pc with
    | none => (ls, none)
    | some l =>
      if 1 < l.count.toNat then
        (match lFind (fun x => x.last == pc) ls with
         | some k => lSet ls k { l with count := l.count - 1, first := false }
         | none => ls, some l.start)
      else backEdge pc f (ls.erase l)

/-- R95: a word whose operations are all complete signals now. -/
def closeWord (s : State) (i wid : Nat) : State := opDone s i wid

/-- R109: leaving the body of the innermost level releases the loop buffer. -/
def releaseBuffer (old new : List LoopLevel) (next : Nat) (k : CacheSt) : CacheSt :=
  match old with
  | [] => k
  | l :: _ =>
    if old.length != new.length || decide (next < l.start) || decide (l.last < next) then { k with loopBuf := [] } else k

/-- R86, R88 to R90: where execution goes on after the word. The back edge of a body whose last word starts a loop of count 0 goes
before the skip of that loop's body (DESIGN CHOICE, assumption 111). -/
def advance (s : State) (i pc : Nat) (c : Ctl) : State :=
  let b := bankOf (tileOf s i)
  let (ls, next) : List LoopLevel × Nat := match c.jump with
    | some a => (b.loops, a)
    | none =>
      let (ls, back) := backEdge pc 4 b.loops
      (ls, match back with
        | some a => a
        | none => match c.skip with
          | some a => a
          | none => (wOf pc + 16).toNat)
  let s := modTile s i fun t =>
    { modBank t (fun b => { b with loops := ls, waited := none }) with
      pc := next
      line0 := none
      missedAt := none
      held := 0
      cache := releaseBuffer b.loops ls next t.cache }
  match c.lib with
  | none => s
  | some r =>
    modTile s i fun t =>
      { modBank t (fun b => { b with inlib := true, libRet := next, libNo := r }) with
        libLast := r
        pc := 0x80400000000 + (i / 16) * 0x40000 + 16 * (Config.calicoEntry r).toNat }

/-- R224, R229: the trap of a word, once it has completed; the word may be the second of a pair. -/
def takeTrap (dual : Bool) (s : State) (i : Nat) (x : Word) : State :=
  let t := tileOf s i
  enterExc s i (if wBit x 4 then .serge else ownWorld t) ⟨48 + wBits x 3 0, 0, x, t.pc, 0, false, dual⟩

/-- What ends a word: a trap, a return or the end of the program. -/
def finishWord (dual : Bool) (s : State) (i : Nat) (c : Ctl) : State :=
  let s := match c.trap with | some x => takeTrap dual s i x | none => s
  let s := if c.ret then doReturn s i else s
  if c.fend then endProgram s i else s

/-- How a word ends whose wait is satisfied: with an exception and SYS.emu, held, or issued, with what it asks for and its number. -/
inductive WordEnd where
  | exc (emu : BitVec 6) (p : Pexc)
  | held
  | done (s : State) (c : Ctl) (wid : Nat)

/-- R71, R457: the word at the tile's pc in its issue cycle. -/
def runWord (s : State) (i : Nat) (w : IWord) : WordEnd :=
  let t := tileOf s i
  let pc := t.pc
  let wid := t.nextWid
  let ms := executing s i w
  let emu := emuOf t ms
  let misaligned := ms.filterMap alignExc
  if misaligned.isEmpty && emu ≠ 0 then
    .exc emu ⟨2, 0, 3, 0, 0, slotMask (fun m => reservedSlot m || disabledSlot t m || unlistedCall t m) ms⟩
  else
    let early := misaligned ++ ms.filterMap (privSlot t) ++ (clashExc ms).toList ++ ms.filterMap (mailboxExc s i)
    let s2 := applyWrites (setTile s i { t with words := (t.words.filter fun e => e.1 != wid) ++ [(wid, 1, w.sg)], nextWid := wid + 1 }) i wid w ms
    let (s3, c) := ms.foldl (trigger i pc wid) (s2, Ctl.none)
    match firstExc (early ++ c.exs) with
    | some p => .exc t.exc.emu p
    | none =>
      if c.hold then .held
      else
        let s3 := applyCcfg s3 i wid ms
        let s4 := match c.flags with
          | some (_, f) => modBk s3 i fun b => { b with flagsNext := some f }
          | none => s3
        .done (advance (passRetry s4 i (scalarRetry (tileOf s4 i))) i pc c) c wid

/-- R100, R457: a word takes its exception. The satisfied wait of one that traps to emulation stays satisfied. -/
def wordExc (dual : Bool) (s : State) (i : Nat) (w : IWord) (emu : BitVec 6) (p : Pexc) : State :=
  let s := modExc s i fun e => { e with emu := emu }
  let s := if p.vec = 3 && w.wt.getLsbD 7 then modTile s i fun t => modBank t fun b => { b with waited := some t.pc } else s
  takePexcOf dual s i p

/-- R109: the first iteration of the innermost body is captured when it fits and will run again. -/
def capture (s : State) (i w : Nat) : State :=
  modTile s i fun t =>
    let pc := t.pc
    match (bankOf t).loops with
    | [] => t
    | l :: _ =>
      if t.det || !l.first || decide (l.count.toNat < 2) || decide (pc < l.start) || decide (l.last < pc)
          || decide (256 < l.last + 16 - l.start) then t
      else { t with cache := { t.cache with loopBuf := smSet 0 t.cache.loopBuf pc (w + 1) } }

/-! ## Pairs (R105, R106) -/

/-- R105: the unit of a destination as the pairing of words counts it; the vector, matrix and conversion engines are one unit each. -/
def unitsOf (ms : List Moved) : List PUnit := ms.filterMap fun m => trigUnit m.dst

/-- R105: the second word reads nothing that the first one writes, for a move to g0 writes nothing (R80), no flag it changes, and
triggers no unit that it triggers; the first one triggers no control and ends no loop body. -/
def mayPair (s : State) (i : Nat) (w w2 : IWord) : Bool :=
  let t := tileOf s i
  let ms := executing s i w
  let ms2 := executing s i w2
  let us := unitsOf ms
  let reads := fun (p : Nat) =>
    ms.any (fun m => m.dst == p && p != 0) || (!w.limms.isEmpty && (p == 0x3FE || p == 0x3FF))
  let guarded := w2.slots.any fun m => m.grd != 0
  let guardF0 := w2.slots.any fun m => m.grd == 7
  !w2.wt.getLsbD 7
    && !(ms2.any fun m => match m.src with | some p => reads p | none => false)
    && !(guarded && (us.contains .al0 || us.contains .al1 || ms.any fun m => m.dst == 0x3C0))
    && !(guardF0 && w.sg.getLsbD 7)
    && !(us.any fun u => (unitsOf ms2).contains u)
    && !(us.any fun u => u == .br || u == .loop || u == .lib || u == .ws || u == .sys)
    && !((bankOf t).loops.any fun l => l.last == t.pc)

/-- R106: the second word of a pair, in the cycle of the first, which has issued and left the state s. -/
def issueSecond (s : State) (i : Nat) (w : IWord) : State :=
  match runWord s i w with
  | .exc emu p => wordExc true s i w emu p
  | .held => s
  | .done s c wid => finishWord true (closeWord s i wid) i c

/-- R71, R106, R457: the word at the tile's pc, its wait satisfied, issues, is held, or takes an exception; the word after it issues in the
same cycle when it may. `s'` is the state `s` with the satisfied wait counted (R63), which stands when the word issues or traps to emulation (R100). A word that is
held passes its cycle (R10). The word's signal fires when its operations are complete; that of a word that calls a routine does so at
the call (DESIGN CHOICE, assumption 111). A pair's second word finds SYS.ccfg as the first has written it (R106, R115: DESIGN CHOICE,
assumption 132). A word whose wait is satisfied is no longer held at it (WS.held, R97). -/
def issueMoves (s s' : State) (i : Nat) (w : IWord) (second : Option Nat) : State :=
  let s1 := modTile (landAll s' i) i fun t => { t with held := 0 }
  match runWord s1 i w with
  | .exc emu p => wordExc false (if p.vec = 3 then s' else s) i w emu p
  | .held => modTile (landAll s i) i fun t => { t with held := 0 }
  | .done t c wid =>
    let t := finishWord false (closeWord t i wid) i c
    match second with
    | some x => if mayPair s1 i w (decodeIWord x) then issueSecond (capture t i x) i (decodeIWord x) else t
    | none => t

/-! ## Waits -/

/-- R94: the wait condition on the visible values. -/
def waitHolds (s : State) (i : Nat) (wt : BitVec 8) : Bool :=
  let n := (wt.extractLsb' 1 5).toNat
  if wt.getLsbD 6 then
    let v := counterOf s i n
    if wt.getLsbD 0 then decide ((tileOf s i).thr.toNat ≤ v.toNat) else decide (1 ≤ v.toNat)
  else (flagsOf s i).getLsbD n == wt.getLsbD 0

/-- R94: a word that reads the flags or a shared counter sees the changes of earlier cycles. -/
def readsShared (w : IWord) : Bool :=
  w.slots.any fun m => match m.src with
    | .port p => p == 0x380 || inR p 0x3B8 0x3BF
    | .imm _ => false

/-- R10, R71 step 1: a word whose wait does not hold is held, and passes the cycle. -/
def holdWord (s : State) (i : Nat) (w : IWord) : State :=
  modTile (landAll s i) i fun t => { t with held := 0x100 ||| w.wt.setWidth 9 }

/-- R63, R71 step 1, R94, R100: a wait: satisfied, or the word is held. A satisfied wait on a shared flag or counter is an effect;
one that a replay treats as done is satisfied, and so is that of a word which has taken the emulation trap. -/
def issueWaiting (s : State) (i : Nat) (w : IWord) (second : Option Nat) : State :=
  let n := (w.wt.extractLsb' 1 5).toNat
  let t := tileOf s i
  if !w.wt.getLsbD 7 || (bankOf t).waited = some t.pc then issueMoves s s i w second
  else if 24 ≤ n then
    let (skip, s') := countEffect s i
    if skip || waitHolds s i w.wt then issueMoves s (beginCycle s' i true) i w second else holdWord s i w
  else if waitHolds s i w.wt then issueMoves s s i w second
  else holdWord s i w

/-- R222, R225, R391, R458: what comes before the next word of a running tile that is not frozen: an asynchronous fault, an interrupt, or
the word itself. -/
def atBoundary (s : State) (i : Nat) (word : State → State) : State :=
  let t := tileOf s i
  if t.run != .running || decide (0 < t.frozen) then s
  else if !t.asyncs.isEmpty then takeAsync s i
  else if (qualInt t).isSome then takeInt s i
  else word s

/-- A trigger row: a word of one unguarded move issues at the tile's pc (assumption 4). -/
def issueOne (s : State) (i dst : Nat) (x : Word) (sg : BitVec 8) : State :=
  atBoundary s i fun s =>
    let s := beginCycle (signalMuls s i) i false
    issueMoves s s i (oneMove dst x sg) none

end Sys2Proof.Machine
end

