-- ==== Sys2Proof/Machine/Fetch.lean ====
section
/-! DEFINITION. Fetching the word at a tile's pc (R102 to R104, R109), the bodies of the Calico routines (R90 to R92), and
ISSUE_WORD's effect. -/

namespace Sys2Proof.Machine

open Sys2Proof

/-- What a fetch answers: a fault, not yet, or a word and whether its source lets it pair (R105). -/
inductive Fetched where
  | exc (p : Pexc)
  | wait (s : State)
  | word (w : Nat) (pair : Bool) (s : State)
  deriving DecidableEq, Repr

/-- An instruction fetch fault at pc (R223). -/
def ifetch (pc info : Nat) : Fetched := .exc ⟨1, 0, 5, info, wOf pc, 0⟩

/-- R35, R223: the reason of a fetch fault for a refused read. -/
def fetchReason (r : BitVec 8) : Nat := if r = 7 then 3 else if r = 3 then 4 else 2

/-- Reads the word at a physical address. -/
def fetchDirect (s : State) (i pc pa : Nat) (pair : Bool) : Fetched :=
  let t := tileOf s i
  match checkedRead s (accOf s i (serge t) (bankOf t).inlib false) pa 16 with
  | .ok bs => .word (leNat bs) pair (noteReads s pa 16)
  | .error r => ifetch pc (fetchReason r)

/-- R110, R113, R114: a fetch through the instruction cache. A word that misses, a recall from the victim cache with it, issues alone
(R105). -/
def fetchCached (s : State) (i pc pa : Nat) : Fetched :=
  let t := tileOf s i
  if !t.cache.ien || invalidatingBit t.cache 0 then fetchDirect s i pc pa false
  else match lookLine t.cache true pa with
    | some (d, k) => .word (leNat ((d.drop (pa % 64)).take 16)) ((findLine t.cache.ilines pa).isSome && t.missedAt != some pc) (setTile s i { t with cache := k })
    | none => .wait (setTile s i { t with cache := askLine t.cache true pa, missedAt := some pc })

/-- R102: a word may be fetched from the address. -/
def fetchable (s : State) (i pa : Nat) : Bool :=
  let t := tileOf s i
  match paClass pa with
  | .store j _ => j == i
  | .calicoRom k _ => k == i / 16 && (bankOf t).inlib
  | .calicoRam k _ => k == i / 16 && (bankOf t).inlib
  | .stacked => !t.det
  | _ => false

/-- R102: the word at a translated address from which it may be fetched. -/
def fetchAt (s : State) (i pc pa : Nat) : Fetched :=
  match paClass pa with
  | .stacked => fetchCached s i pc pa
  | .store _ _ => fetchDirect s i pc pa true
  | _ => fetchDirect s i pc pa false

/-- R104, R125: the first word of a frame program, from its staged line: a tile store is read as it stands now. -/
def fetchStaged (s : State) (i pc pa : Nat) (bs : List Byte) : Fetched :=
  let pa := pa + pc % 64
  if !fetchable s i pa then ifetch pc 2
  else match paClass pa with
    | .stacked => .word (leNat ((bs.drop (pc % 64)).take 16)) false s
    | _ => fetchDirect s i pc pa true

/-- R109: the word at pc in the loop buffer, from the second iteration on. -/
def fromLoopBuffer (t : Tile) : Option Nat :=
  match (bankOf t).loops with
  | [] => none
  | l :: _ =>
    let n := smGet 0 t.cache.loopBuf t.pc
    if t.det || l.first || n = 0 || decide (t.pc < l.start) || decide (l.last < t.pc) then none else some (n - 1)

/-- R109: a word of the loop buffer counts as fetched from its address for every fault check; one that the instruction cache holds is
not read. -/
def fetchBuffered (s : State) (i pc pa w : Nat) : Fetched :=
  let t := tileOf s i
  if paClass pa == .stacked && t.cache.ien && !invalidatingBit t.cache 0 && (findLine t.cache.ilines pa).isSome then .word w true s
  else match checkedRead s (accOf s i (serge t) (bankOf t).inlib false) pa 16 with
    | .ok _ => .word w true s
    | .error r => ifetch pc (fetchReason r)

/-- R102 to R104, R109: the word at the tile's pc. A walk that a full destination refuses is remembered (R129). -/
def fetchWord (s : State) (i : Nat) : Fetched :=
  let t := tileOf s i
  let pc := t.pc
  if 2 ^ 52 ≤ pc then ifetch pc 1
  else if inPatch t pc then .exc ⟨1, 0, 6, 0, wOf pc, 0⟩
  else match (match t.line0 with | some (a, l) => if a = pc then some l else none | none => none) with
  | some (pa, bs) => fetchStaged s i pc pa bs
  | none =>
  match t.fetchFault with
  | some r => ifetch pc r.toNat
  | none =>
  match tlbFind t.itlb (cxidOf s (serge t)) pc with
  | none =>
    .wait (setTile s i { t with
      fetchWalk := true
      fetchOver := if t.fetchWalk then t.fetchOver else decide (limitMet s i (walkDests s (serge t) pc) ≠ 0) })
  | some e =>
    let s := setTile s i { t with itlb := tlbPut t.itlb e }
    if (leafCheck e t.sup .fetch false).isSome then ifetch pc 1
    else if !fetchable s i (tlbPa e pc) then ifetch pc 2
    else match fromLoopBuffer t with
      | some w => fetchBuffered s i pc (tlbPa e pc) w
      | none => fetchAt s i pc (tlbPa e pc)

/-- R105: the word after the one at pc, an even word of its aligned 32 B, when it can be fetched in the same cycle. -/
def secondWord (s : State) (i : Nat) : Option Nat :=
  let t := tileOf s i
  if t.det || t.pc % 32 ≠ 0 then none
  else match fetchWord (setTile s i { t with pc := t.pc + 16, line0 := t.line0.map fun l => (t.pc + 16, l.2) }) i with
    | .word w true _ => some w
    | _ => none

/-! ## Calico routines -/

/-- Free value n of a run of them that starts now. -/
def freeAt (s : State) (n : Nat) : Word := Config.freeValue (s.freeCtr + n)

/-- R90: what a routine may change and the manual does not fix is left with free values. -/
def calicoScratch (s : State) (i : Nat) : State :=
  let s0 := s
  let s := (bankOf (tileOf s i)).mulp.foldl (landProduct i) s
  let s := modTile s i fun t =>
    let t := modBank t fun b =>
      { b with
        g := (List.range 15).foldl (fun g k => smSet 0 g (k + 1) (freeAt s0 k)) b.g
        flags := BitVec.ofNat 4 (freeAt s0 15).toNat
        flagsNext := none
        al0o := freeAt s0 16
        al0r := freeAt s0 17
        al1o := freeAt s0 18
        al1r := freeAt s0 19
        al0p := none
        al1p := none
        mulo := freeAt s0 20
        mullo := freeAt s0 21
        mulhi := freeAt s0 22
        mulp := []
        divo := freeAt s0 23
        divd := freeAt s0 24
        divq := freeAt s0 25
        divrem := freeAt s0 26
        divDz := wBit (freeAt s0 27) 1
        divRst := wBit (freeAt s0 27) 2
        lsuo := freeAt s0 28
        lsud := freeAt s0 29
        lsusz := BitVec.ofNat 3 (freeAt s0 30).toNat
        r0 := freeAt s0 31
        r1 := freeAt s0 32
        r2 := freeAt s0 33
        r3 := freeAt s0 34 }
    { t with
      f := (t.f &&& 0xFFFF) ||| (BitVec.ofNat 24 (wBits (freeAt s0 35) 7 0) <<< 16)
      vx := { t.vx with
        v := (List.range 16384).foldl (fun v k => smSet 0 v (2048 * 24 + k) (BitVec.ofNat 8 (freeAt s0 (36 + k)).toNat)) t.vx.v
        m := (List.range 4096).foldl (fun v k => smSet false v (2048 * 6 + k) (wBit (freeAt s0 (16420 + k)) 0)) t.vx.m } }
  { s with freeCtr := s.freeCtr + 20516 }

/-- R90: a routine ends: execution resumes after the calling word. -/
def calicoReturn (s : State) (i : Nat) : State :=
  modTile s i fun t =>
    { modBank t (fun b => { b with inlib := false }) with
      pc := (bankOf t).libRet
      held := 0 }

/-- R92: `copy` and `fill`: the bytes written; those the manual does not fix (overlapping ranges, a length that is no
multiple of 64) are free values. -/
def calicoBytes (s : State) (i : Nat) (fill : Bool) (dst src : Word) (n : Nat) : List Byte :=
  (List.range n).map fun j =>
    let free := BitVec.ofNat 8 (freeAt s (20516 + j)).toNat
    if n / 64 * 64 ≤ j then free
    else if fill then (leBytes 8 src.toNat).getD (j % 8) 0
    else if dst ≠ src ∧ dst.toNat ≤ src.toNat + j ∧ src.toNat + j < dst.toNat + n then free
    else readByte s (storePa i (src.toNat + j))

/-- R92: `copy` and `fill` on the own tile store. -/
def calicoMove (s : State) (i : Nat) (fill : Bool) : State :=
  let b := bankOf (tileOf s i)
  let dst := gReg b 1
  let src := gReg b 2
  let n := (gReg b 3).toNat
  let bad := firstSome [spanBad s i true true dst.toNat n, if fill then none else spanBad s i true false src.toNat n]
  match bad with
  | some off => takePexc s i ⟨6, 0, 8, 8, wOf off, 0⟩
  | none =>
    match (if fill then none else badStoreWord s i [(src.toNat, n)]) with
    | some off => engineUncorrectable s i 0 off
    | none =>
      let bs := calicoBytes s i fill dst src n
      let s := writeStore (if fill then s else correctReads s i [(src.toNat, n)]) (storePa i dst.toNat) bs
      calicoReturn (calicoScratch { s with freeCtr := s.freeCtr + 20516 + n } i) i

/-- R92: the flag of a `barrier`. -/
def barrierFlag (t : Tile) : Nat := 24 + (gReg (bankOf t) 2).toNat % 8

/-- R92: the counter of a `barrier`. -/
def barrierCounter (t : Tile) : Nat := 24 + (gReg (bankOf t) 1).toNat % 8

/-- R92: a participant adds itself to the counter of a `barrier`; whether it completes the number of participants, which clears the
counter again. -/
def barrierCount (s : State) (i : Nat) : Bool × State :=
  let t := tileOf s i
  let c := barrierCounter t
  let s := bumpCounter (beginCycle s i true) i c true
  if (gReg (bankOf t) 3).toNat ≤ (counterOf s i c).toNat then (true, setCounter (beginCycle s i true) i c 0)
  else (false, s)

/-- R92: a participant leaves a `barrier`; the last one clears the flag, and the barrier is ready for its next use (assumption 9). The
satisfied wait and what follows it are one effect, which a replay may treat as done (R63; assumption 9). -/
def calicoDepart (s : State) (i : Nat) : State :=
  let flag := barrierFlag (tileOf s i)
  let (skip, s) := countEffect s i
  let s :=
    if skip then s
    else
      let (last, s) := barrierCount s i
      if last then changeFlags (beginCycle s i true) i (1#32 <<< flag) false else s
  calicoReturn (calicoScratch s i) i

/-- R92: a tile waits in a `barrier` for its flag to be set or cleared. -/
def calicoHold (s : State) (i : Nat) (set : Bool) : State :=
  modTile s i fun t => { t with held := BitVec.ofNat 9 (0x180 + 2 * barrierFlag t + b2n set) }

/-- R92: `barrier`, as the chapter's own cluster barrier works (assumption 9): an arrival waits until every participant has left the
barrier's last use and adds itself to the counter; the last one clears the counter and sets the flag, the others go on to the word
that waits for the flag. An arrival is one effect, which a replay may treat as done (R63; assumption 9). -/
def calicoArrive (s : State) (i : Nat) : State :=
  let flag := barrierFlag (tileOf s i)
  let await := fun s => calicoHold (modTile s i fun t => { t with pc := t.pc + 16 }) i true
  let (skip, s') := countEffect s i
  if skip then await s'
  else if (flagsOf s i).getLsbD flag then calicoHold s i false
  else
    let (last, s) := barrierCount s' i
    if last then calicoDepart (changeFlags (beginCycle s i true) i (1#32 <<< flag) true) i else await s

/-- R63, R92: the wait of a `barrier`; one that a replay treats as done is satisfied. -/
def calicoWait (s : State) (i : Nat) : State :=
  let t := tileOf s i
  if decide (t.effects < t.skip) || (flagsOf s i).getLsbD (barrierFlag t) then calicoDepart s i else calicoHold s i true

/-- R92: the width of a vector routine's elements in bytes. -/
def calicoWidth (r : BitVec 8) : Nat := if r = 0x13 ∨ r = 0x14 then 8 else 4

/-- R13, R92: the bytes that an element of a routine depends on: its own, and for `softmax32` the whole vector. -/
def calicoInput (r : BitVec 8) (arg own : List Byte) : List Byte := if r = 0x20 then own ++ arg else own

/-- R92: the elements of a routine on v1; `k` is 1 for the cosine. Each lies within the routine's accuracy of its function, and is
a fixed function of its inputs (R13); where the function has no finite value it is free (assumption 9). -/
def calicoOut (r : BitVec 8) (k : Nat) (arg : List Byte) : List Byte :=
  let w := calicoWidth r
  let f := if w = 8 then fp64 else fp32
  let cs := lChunks w arg.length arg
  let xs := cs.map fun c => fUnpack f (leNat c)
  ((List.range xs.length).map fun j =>
    let inp := calicoInput r arg (cs.getD j [])
    match (calicoReal r xs (k == 1) j).bind (withinUlp f (calicoUlp r) (Config.calicoPick r inp k)) with
    | some x => leBytes w x
    | none => (List.range w).map fun q => Config.calicoByte r inp (w * k + q)).flatten

/-- R92: a routine on v1. -/
def calicoVector (s : State) (i : Nat) (r : BitVec 8) : State :=
  let vx := (tileOf s i).vx
  let w := calicoWidth r
  let vl := vx.vl.toNat
  let arg := smRead 0 vx.v 2048 (w * min vl (2048 / w))
  let out := fun k => calicoOut r k arg
  let s := modTile s i fun t =>
    let v := smWrite 0 t.vx.v 2048 (out 0)
    { t with vx := { t.vx with v := if r = 0x12 then smWrite 0 v 4096 (out 1) else v } }
  calicoReturn (calicoScratch s i) i

/-- R90: the routine a tile is in runs, once the operations triggered before it are complete. -/
def runRoutine (s : State) (i : Nat) : State :=
  let t := tileOf s i
  let r := (bankOf t).libNo
  if r = 2 then calicoArrive s i
  else if !t.vx.queue.isEmpty || !t.sb.isEmpty || !t.handed.isEmpty then s
  else if r = 0 then calicoMove s i false
  else if r = 1 then calicoMove s i true
  else calicoVector s i r

/-- R90: address of the first word of the routine a tile is in. -/
def routinePc (t : Tile) (i : Nat) : Nat :=
  0x80400000000 + (i / 16) * 0x40000 + 16 * (Config.calicoEntry (bankOf t).libNo).toNat

/-- R254, R394: a fetch that finds an uncorrectable word is logged; the line of a cache miss is logged as it arrives. -/
def noteFetch (s : State) (i : Nat) (p : Pexc) : State :=
  if p.vec = 5 && p.info = 3 && (tileOf s i).fetchFault.isNone then
    match tlbFind (tileOf s i).itlb (cxidOf s (serge (tileOf s i))) (tileOf s i).pc with
    | some e => noteUncorrectable s (cxidOf s (serge (tileOf s i))) (tlbPa e (tileOf s i).pc)
    | none => s
  else s

/-- R71: the next word of a tile: it is fetched, waits, and issues. A word of its cycle that reads flags or shared counters sees what earlier
cycles have changed (R94), and so does the second word of a pair. -/
def issueNext (s : State) (i : Nat) : State :=
  atBoundary s i fun s =>
    let t := tileOf s i
    if (bankOf t).inlib && decide (t.pc = routinePc t i) then runRoutine s i
    else if (bankOf t).inlib && (bankOf t).libNo == 2 && decide (t.pc = routinePc t i + 16) then calicoWait s i
    else match fetchWord s i with
      | .exc p => takePexc (noteFetch s i p) i p
      | .wait s => s
      | .word w pair s =>
        let d := decodeIWord w
        let second := if pair then secondWord s i else none
        let s := signalMuls s i
        let again := readsShared d || (match second with
          | some x => readsShared (decodeIWord x) && mayPair (landAll s i) i d (decodeIWord x)
          | none => false)
        issueWaiting (beginCycle (capture s i w) i again) i d second

end Sys2Proof.Machine
end

