-- ==== Sys2Proof/Machine/Memory.lean ====
section
/-! DEFINITION. How the loads, stores and walks of a tile go on after their issue: translation, results, hand-off,
performance, fences, lines (R85, R110 to R129, R270, R458). -/

namespace Sys2Proof.Machine

open Sys2Proof

/-! ## Walks -/

/-- R128, R270, R458: an access that waited for a walk is looked up again: translated, refused, or still waiting. -/
def relook (s : State) (i : Nat) (w : Who) (store patch : Bool) (va n : Nat) : Trans × State :=
  match lookData s i w store patch va n with
  | (.miss, _) => (.walking, s)
  | (.refused r, l) => (.refused r, modTile s i fun t => { t with dtlb := l })
  | (.hit tr, l) => (tr, modTile s i fun t => { t with dtlb := l })

/-- Loads that waited and whose pages are now known. -/
def settleLoads (s : State) (i : Nat) : State :=
  (tileOf s i).loads.foldl (fun s l =>
    if l.tr != .walking then s
    else
      let (tr, s) := relook s i l.who false false l.va l.size
      if tr == .walking then s
      else
        let late := overLimit s i l.who.serge l.va l.size tr
        let (l', s) := startLoad s i { l with tr := tr, overload := l.overload || (l.fwd.isNone && decide (late ≠ 0)), overAt := if l.overload then l.overAt else late }
        modTile s i fun t => { t with loads := t.loads.map fun x => if x.seq == l.seq then l' else x }) s

/-- Stores that waited and whose pages are now known. -/
def settleStores (s : State) (i : Nat) : State :=
  (tileOf s i).sb.foldl (fun s e =>
    if e.tr != .walking then s
    else
      let (tr, s) := relook s i e.who true e.patch e.va e.data.length
      if tr == .walking then s
      else
        let met := overLimit s i e.who.serge e.va e.data.length tr
        let excess := e.overload || (!e.skip && decide (met ≠ 0))
        modTile s i fun t => { t with sb := t.sb.map fun x =>
          if x.seq == e.seq then { e with tr := classStore e.who tr, overload := excess, overAt := if e.overload then e.overAt else met } else x }) s

/-- A faulting walk: the access it was for is refused with a reason (R267). -/
def refuseWalk (s : State) (i seq : Nat) (reason : BitVec 8) : State :=
  modTile s i fun t => { t with
    loads := t.loads.map fun x => if x.seq == seq then { x with tr := .refused reason } else x
    sb := t.sb.map fun x => if x.seq == seq then { x with tr := .refused reason } else x }

/-- An access that waits for a walk: its number, who made it, store, patch window open for it, address, length. -/
structure Waiting where
  seq : Nat
  who : Who
  store : Bool
  patch : Bool
  va : Nat
  n : Nat
  deriving DecidableEq, Repr

/-- The oldest access of a tile that waits for a walk. -/
def oldestWalk (t : Tile) : Option Waiting :=
  let a := (t.loads.filter fun l => l.tr == .walking).map fun l => (⟨l.seq, l.who, false, false, l.va, l.size⟩ : Waiting)
  let b := (t.sb.filter fun e => e.tr == .walking).map fun e => (⟨e.seq, e.who, true, e.patch, e.va, e.data.length⟩ : Waiting)
  (a ++ b).foldl (fun o x => match o with
    | none => some x
    | some y => if x.seq < y.seq then some x else some y) none

/-- R35, R267: the reason of an access whose second page does not translate: that of its lowest refused byte. -/
def secondPageReason (s : State) (i : Nat) (w : Waiting) (e : TlbEntry) : BitVec 8 :=
  let n1 := 2 ^ pageBits e.level - w.va % 2 ^ pageBits e.level
  match leafCheck e w.who.sup (if w.store then .store else .load) (inPatch (tileOf s i) w.va && w.patch) with
  | some r => r
  | none => match refusal s (accWho s i w.who w.store) (tlbPa e w.va) (min n1 w.n) with
    | some r => r
    | none => 1

/-- R270: the walk of the instruction fetch ends. -/
def endCodeWalk (s : State) (i : Nat) : State :=
  let t := tileOf s i
  if !t.fetchWalk || t.fetchOver then s
  else
    let (e, s) := fillTlb s i (serge t) true t.pc
    modTile s i fun t => { t with fetchWalk := false, fetchFault := if e.isSome then t.fetchFault else some 1 }

/-! ## Stores -/

/-- R62: an access to a tile store that is being copied to the spare is held. -/
def heldByCopy (s : State) (pa : Nat) : Bool :=
  match paClass pa with
  | .store j _ => (clusterOf s (j / 16)).copying == some (j % 16)
  | _ => false

def accessHeld (s : State) (ps : List (Nat × Nat)) : Bool := ps.any fun p => heldByCopy s p.1

/-- Drops an operation of a tile from its queues. -/
def dropSeq (s : State) (i seq : Nat) : State :=
  modTile s i fun t => { t with
    sb := t.sb.filter fun e => e.seq != seq
    handed := t.handed.filter fun e => e.seq != seq
    loads := t.loads.filter fun l => l.seq != seq }

/-- R85: fences with no earlier store left complete. -/
def endFences (s : State) (i : Nat) : State :=
  let t := tileOf s i
  let open_ := fun (f : Nat × Nat) =>
    (t.sb.any fun e => e.kind == .store && decide (e.seq < f.2)) || t.handed.any fun e => decide (e.seq < f.2)
  let done := t.fences.filter fun f => !open_ f
  done.foldl (fun s f => opDone s i f.1) (setTile s i { t with fences := t.fences.filter open_ })

/-- R458: an access is refused after its issue: it is dropped, its word never signals, the fault is pending. -/
def refuseAccess (s : State) (i seq wid : Nat) (reason : BitVec 8) (va : Word) : State :=
  endFences (addAsync (opLost (dropSeq s i seq) i wid) i ⟨8, reason, va, seq⟩) i

/-- The first refusal over the pieces of an access (R35). -/
def piecesRefusal (s : State) (a : Acc) (ps : List (Nat × Nat)) : Option (BitVec 8) :=
  ps.findSome? fun p => refusal s a p.1 p.2

/-- The first byte of the pieces that is uncorrectable. -/
def piecesBad (s : State) (ps : List (Nat × Nat)) : Option Nat :=
  ps.findSome? fun p => ((List.range p.2).find? fun j => s.ms.bad.contains (badKey s (p.1 + j))).map (p.1 + ·)

/-- Writes data over the pieces of an access. -/
def writePieces (s : State) (cx : BitVec 12) : List (Nat × Nat) → List Byte → State
  | [], _ => s
  | p :: ps, bs => writePieces (performWrite cx (p.2 + 1) s p.1 (bs.take p.2)) cx ps (bs.drop p.2)

/-- R115, R116: the bytes of a store that still exist in scratch are written. -/
def writeScratch (t : Tile) (va : Nat) (bs : List Byte) : Tile :=
  (List.range bs.length).foldl (fun t j =>
    if scratchClass t (va + j) 1 = 1 then
      { t with cache := { t.cache with scratch := smSet 0 t.cache.scratch (va + j - scratchLo t) (bs.getD j 0) } }
    else t) t

/-- R127, R458: a handed-off store is performed, or refused. -/
def performStore (s : State) (i : Nat) (e : SbEntry) : State :=
  let done := fun s => endFences (opDone (dropSeq s i e.seq) i e.wid) i
  if e.skip then done s
  else if e.tr == .scratch then done (modTile s i fun t => writeScratch t e.va e.data)
  else
    let ps := pieces e.tr e.data.length
    let cx := cxidOf s e.who.serge
    match piecesRefusal s { accOf s i e.who.serge e.who.inlib true with write := true } ps with
    | some r => refuseAccess s i e.seq e.wid r (wOf e.va)
    | none => done (writePieces s cx ps e.data)

/-- R119: the handed-off stores of a tile up to the last one that passes, in order. -/
def upToLast (p : SbEntry → Bool) : List SbEntry → List SbEntry
  | [] => []
  | e :: es => if p e || es.any p then e :: upToLast p es else []

/-- R119: the earlier stores that go to a destination of an access, with those handed off before them. -/
def storesBefore (s : State) (i seq n : Nat) (tr : Trans) : List SbEntry :=
  upToLast (fun e => decide (e.seq < seq) && samePath s n tr e.data.length e.tr) (tileOf s i).handed

/-- R119: earlier handed-off stores of the tile to a destination of an access are performed before it, in order. -/
def performBefore (s : State) (i seq n : Nat) (tr : Trans) : State :=
  (storesBefore s i seq n tr).foldl (fun s e => performStore s i e) s

/-! ## Loads -/

/-- R115, R116: bytes of a scratch load; a byte that no longer exists reads 0. -/
def scratchRead (t : Tile) (va n : Nat) : List Byte :=
  (List.range n).map fun j =>
    if scratchClass t (va + j) 1 = 1 then smGet 0 t.cache.scratch (va + j - scratchLo t) else 0

/-- What a load receives: not yet, a refusal, or its bytes. -/
inductive Got where
  | notYet
  | refused (reason : BitVec 8)
  | data (bs : List Byte)
  deriving DecidableEq, Repr

/-- R330, R331: what the host has answered for the pieces of a load that lie in host memory, in order. -/
def hostAnswers (s : State) (i : Nat) (l : Load) : List (Option (Bool × List Byte)) :=
  (s.host.reqs.filter fun r => r.lti == some (i, l.seq)).map fun r => r.done

/-- The byte of a cached line, if a line of the data cache holds it. -/
def cachedByte (t : Tile) (pa : Nat) : Option Byte := (findLine t.cache.dlines pa).map fun c => c.data.getD (pa % 64) 0

/-- R111, R118: the bytes of a piece outside host memory: from the lines the cache holds, the others from memory after their checks. -/
def pieceGot (s : State) (i : Nat) (l : Load) (p : Nat × Nat) : Got :=
  let t := tileOf s i
  let cached := (cachedPieces l.tr l.size).contains p
  let pas := (List.range p.2).map (p.1 + ·)
  let hold := fun pa => if cached then cachedByte t pa else none
  let a := accOf s i l.who.serge l.who.inlib false
  if cached && (pieceLines [p]).any fun n => t.cache.reqs.any fun r => !r.code && !r.prefetch && r.addr == n then .notYet
  else match pas.findSome? fun pa => if (hold pa).isSome then none else byteRefusal s a pa with
    | some r => .refused r
    | none => .data (pas.map fun pa => match hold pa with | some b => b | none => readByte s pa)

/-- R35: the pieces of a load together: the lowest refused byte gives the reason, and no piece is awaited for a load that is refused. -/
def joinGot : List Got → Got
  | [] => .data []
  | .refused r :: _ => .refused r
  | .notYet :: gs => (match joinGot gs with | .refused r => .refused r | _ => .notYet)
  | .data bs :: gs => (match joinGot gs with | .data cs => .data (bs ++ cs) | g => g)

/-- R35, R36: what each piece of a load receives, with the host's answers in order. -/
def piecesGot (s : State) (i : Nat) (l : Load) : List (Nat × Nat) → List (Option (Bool × List Byte)) → List Got
  | [], _ => []
  | p :: ps, as =>
    if isHostPa p.1 then
      match as with
      | [] => .notYet :: piecesGot s i l ps []
      | none :: as => .notYet :: piecesGot s i l ps as
      | some (true, bs) :: as => .data bs :: piecesGot s i l ps as
      | some (false, _) :: as => .refused 7 :: piecesGot s i l ps as
    else pieceGot s i l p :: piecesGot s i l ps as

/-- What a translated load receives. -/
def memGot (s : State) (i : Nat) (l : Load) : Got := joinGot (piecesGot s i l (pieces l.tr l.size) (hostAnswers s i l))

/-- R127, R128, R458: what a load receives now. One that took its data from the store buffer is refused all the same when its
translation is. -/
def loadGot (s : State) (i : Nat) (l : Load) : Got :=
  match l.tr with
  | .walking => .notYet
  | .refused r => .refused r
  | tr => match l.fwd with
    | some bs => .data bs
    | none =>
      if l.overload then .notYet
      else match tr with
        | .scratch => .data (scratchRead (tileOf s i) l.va l.size)
        | _ => if accessHeld s (pieces l.tr l.size) then .notYet else memGot s i l

/-- R85: the value of a load. -/
def loadValue (l : Load) (bs : List Byte) : Word :=
  if l.sx then sext64 (8 * l.size) (leNat bs) else wOf (leNat bs)

/-- R85: a load lands in its result port. -/
def landLoad (s : State) (i : Nat) (l : Load) (bs : List Byte) : State :=
  let v := loadValue l bs
  let s := modTile s i fun t =>
    let b := bankAt t l.who.bank
    setBankAt t l.who.bank (match l.k.toNat with
      | 0 => { b with r0 := v }
      | 1 => { b with r1 := v }
      | 2 => { b with r2 := v }
      | _ => { b with r3 := v })
  let s := { s with host := { s.host with reqs := s.host.reqs.filter fun r => r.lti != some (i, l.seq) } }
  opDone (dropSeq s i l.seq) i l.wid

/-- R119: the translation that an access which waits for a walk will have. -/
def comingOf (s : State) (i : Nat) (w : Who) (store patch : Bool) (va n : Nat) (tr : Trans) : Trans :=
  if tr != .walking then tr
  else match (fillTlb s i w.serge false va).1, (fillTlb s i w.serge false (va + n - 1)).1 with
    | some e1, some e2 => (match joinPages s i w store patch va n e1 e2 with | .hit tr => tr | _ => tr)
    | _, _ => tr

/-- R119: the translation that a buffered store which waits for a walk will have. -/
def comingTr (s : State) (i : Nat) (e : SbEntry) : Trans := comingOf s i e.who true e.patch e.va e.data.length e.tr

/-- R119: the earlier loads to a destination of an access that have not taken their data. -/
def loadsBefore (s : State) (i seq n : Nat) (tr : Trans) : List Load :=
  (tileOf s i).loads.filter fun l =>
    l.fwd.isNone && !l.overload && decide (l.seq < seq) && samePath s l.size (comingOf s i l.who false false l.va l.size l.tr) n tr

/-- R62, R119: a handed-off store waits: for the copy of its destination, or for the walk of an earlier load to it. -/
def storeBlocked (s : State) (i : Nat) (e : SbEntry) : Bool :=
  accessHeld s (pieces e.tr e.data.length) || (loadsBefore s i e.seq e.data.length e.tr).any fun l => l.tr == .walking

/-- R119: an earlier store to a destination of the load is still buffered. -/
def storeAhead (s : State) (i : Nat) (l : Load) : Bool :=
  (tileOf s i).sb.any fun e =>
    e.kind == .store && decide (e.seq < l.seq) && samePath s l.size l.tr e.data.length (comingTr s i e)

/-- The host requests of a load are done with. -/
def dropHostReqs (s : State) (i : Nat) (l : Load) : State :=
  { s with host := { s.host with reqs := s.host.reqs.filter fun r => r.lti != some (i, l.seq) } }

/-- R254, R255: a load's reads of memory are counted: corrected ones, and the uncorrectable one that refuses it. -/
def noteLoad (s : State) (i : Nat) (l : Load) : State :=
  let t := tileOf s i
  let direct := (pieces l.tr l.size).filter fun p => (List.range p.2).any fun j =>
    !(cachedPieces l.tr l.size).contains p || (cachedByte t (p.1 + j)).isNone
  if l.noted then s
  else match piecesBad s direct with
    | some pa => noteUncorrectable s (cxidOf s l.who.serge) pa
    | none => direct.foldl (fun s p => noteReads s p.1 p.2) s

/-- R119: a load waits for an earlier store to a destination of it, buffered or held up. -/
def loadBlocked (s : State) (i : Nat) (l : Load) : Bool :=
  l.tr == .walking || storeAhead s i l || (storesBefore s i l.seq l.size l.tr).any (storeBlocked s i)

/-- R119: a load takes its data at its destination now, ahead of a later access of the tile there. -/
def captureLoad (s : State) (i : Nat) (l : Load) : State :=
  if loadBlocked s i l then s
  else
    let s := performBefore s i l.seq l.size l.tr
    let got := match loadGot s i l with
      | .notYet => memGot s i { l with tr := uncached l.tr }
      | g => g
    match l.tr, got with
    | .refused _, _ => s
    | _, .data bs =>
      modTile (noteLoad s i l) i fun t => { t with
        loads := t.loads.map fun x => if x.seq == l.seq then { x with fwd := some bs, noted := true } else x }
    | _, _ => s

/-- R119: what must reach the destinations of a load before it: earlier stores are performed, earlier loads take their data. None
while one of them must still wait. -/
def orderedBefore (s : State) (i : Nat) (l : Load) : Option State :=
  let ls := loadsBefore s i l.seq l.size l.tr
  if loadBlocked s i l || ls.any (loadBlocked s i) then none
  else some (ls.foldl (fun s x => captureLoad s i x) (performBefore s i l.seq l.size l.tr))

/-- R127, R458: a load's result arrives, or its refusal. Loads and stores of the tile reach a destination in issue order (R119). -/
def finishLoad (s : State) (i : Nat) (l : Load) : State :=
  match (if l.fwd.isNone then orderedBefore s i l else some s) with
  | none => s
  | some s =>
    let s := if l.fwd.isNone && !l.overload then askHost s i l else s
    match loadGot s i l with
    | .notYet => s
    | .data bs => landLoad (if l.fwd.isNone then noteLoad s i l else s) i l bs
    | .refused r =>
      let s := if r = 7 then noteLoad s i l else s
      refuseAccess (dropHostReqs s i l) i l.seq l.wid r (wOf l.va)

/-- R119: a later store is about to leave: earlier loads to a destination of it take their data first. -/
def captureLoads (s : State) (i : Nat) (e : SbEntry) : State :=
  (loadsBefore s i e.seq e.data.length e.tr).foldl (fun s l => captureLoad s i l) s

/-- R118, R119: the oldest entry, a store, is handed to its path; the lines of the data cache that hold its bytes take
them. In normal mode it waits for the walk of an earlier load to its destination (R119). -/
def handOffStore (s : State) (i : Nat) (e : SbEntry) : State :=
  match e.tr with
  | .walking => s
  | .refused r => refuseAccess s i e.seq e.wid r (wOf e.va)
  | _ =>
    if e.overload || (!(tileOf s i).det && (loadsBefore s i e.seq e.data.length e.tr).any fun l => l.tr == .walking) then s
    else
      let s := captureLoads s i e
      modTile s i fun t =>
        let a := { accOf s i e.who.serge e.who.inlib true with write := true }
        let k := if !e.skip && (piecesRefusal s a (pieces e.tr e.data.length)).isNone then
            (pieces e.tr e.data.length).foldl (fun (a : CacheSt × List Byte) p =>
              (if (cachedPieces e.tr e.data.length).contains p then storeLines a.1 p.1 (a.2.take p.2) else a.1,
               a.2.drop p.2)) (t.cache, e.data) |>.1
          else t.cache
        { t with sb := t.sb.filter fun x => x.seq != e.seq, handed := t.handed ++ [e], cache := k }

/-- R119: loads whose walk has ended take their data ahead of later stores that have left for their destination. -/
def captureOrdered (s : State) (i : Nat) : State := (tileOf s i).handed.foldl (fun s e => captureLoads s i e) s

/-- R270: the data walk of the oldest waiting access ends. -/
def endDataWalk (s : State) (i : Nat) : State :=
  match oldestWalk (tileOf s i) with
  | none => s
  | some w =>
    match fillTlb s i w.who.serge false w.va with
    | (none, s) => refuseWalk s i w.seq 1
    | (some e, s) =>
      match fillTlb s i w.who.serge false (w.va + w.n - 1) with
      | (none, s) => refuseWalk s i w.seq (secondPageReason s i w e)
      | (some _, s) => captureOrdered (settleStores (settleLoads s i) i) i

/-! ## Lines -/

/-- R254: a fetch of the tile waits for the line. -/
def fetchWaits (s : State) (i a : Nat) : Bool :=
  let t := tileOf s i
  t.run == .running && (match tlbFind t.itlb (cxidOf s (serge t)) t.pc with
    | some e => lineOf (tlbPa e t.pc) == a
    | none => false)

/-- R255: loads that wait for an uncorrectable line, now counted, do not count it again. -/
def markNoted (s : State) (i a : Nat) : State :=
  modTile s i fun t => { t with loads := t.loads.map fun l =>
    if (pieceLines (cachedPieces l.tr l.size)).contains a then { l with noted := true } else l }

/-- R110, R113, R254, R255: the oldest line asked for by one of the caches arrives: it fills the cache, a refused prefetch is
dropped, a refused fetch faults at the word that waits for it. The line of a load reaches its destination in issue order (R119). -/
def lineArrives (s : State) (i : Nat) (code : Bool) : State :=
  match (tileOf s i).cache.reqs.find? fun r => r.code == code with
  | none => s
  | some r =>
    let asked := (tileOf s i).loads.filter fun l =>
      !code && l.fwd.isNone && (pieceLines (cachedPieces l.tr l.size)).contains r.addr
    match asked.foldl (fun (o : Option State) l => o.bind fun s => orderedBefore s i l) (some s) with
    | none => s
    | some s =>
    let s := (upToLast (fun e => (pieces e.tr e.data.length).any fun p => overlap p.1 p.2 r.addr 64) (tileOf s i).handed).foldl
      (fun s e => performStore s i e) s
    let t := tileOf s i
    let gone := fun (k : CacheSt) => { k with reqs := k.reqs.erase r }
    let on := if code then t.cache.ien && !invalidatingBit t.cache 0 else t.cache.den && !invalidatingBit t.cache 1
    match checkedRead s (accOf s i (serge t) (bankOf t).inlib false) r.addr 64 with
    | .ok bs => noteRead (setTile s i { t with cache := if on then fillLine (gone t.cache) code r.addr bs else gone t.cache }) r.addr
    | .error c =>
      let s := setTile s i { t with
        cache := gone t.cache
        fetchFault := if code && !r.prefetch && fetchWaits s i r.addr then some (BitVec.ofNat 8 (fetchReason c)) else t.fetchFault }
      if c = 7 then noteUncorrectable (if code then s else markNoted s i r.addr) (cxidOf s (serge t)) r.addr else s

end Sys2Proof.Machine
end

