-- ==== Sys2Proof/Machine/Twill.lean ====
section
/-! DEFINITION. Twill links: flit headers, CRC, sending against credits and the replay buffer, receiving, acknowledgements,
retraining (R305 to R310), and the delivery of messages and puts at this package (R299 to R304). -/

namespace Sys2Proof.Machine

open Sys2Proof

/-! ## Headers -/

/-- R306: a field of a header. -/
def hField (h : BitVec 256) (hi lo : Nat) : Nat := bitsOf h.toNat hi lo

/-- Sets a field of a header. -/
def hSet (h : BitVec 256) (hi lo v : Nat) : BitVec 256 :=
  let old := hField h hi lo
  BitVec.ofNat 256 (h.toNat - old * 2 ^ lo + v % 2 ^ (hi + 1 - lo) * 2 ^ lo)

/-- One bit of CRC-32, as IEEE 802.3 orders the bits (assumption 27). -/
def crcBit (c : BitVec 32) (b : Bool) : BitVec 32 :=
  let x := c.getLsbD 0 != b
  let c := c >>> 1
  if x then c ^^^ 0xEDB88320 else c

def crcByte (c : BitVec 32) (b : Byte) : BitVec 32 := (List.range 8).foldl (fun c k => crcBit c (b.getLsbD k)) c

/-- R306: CRC-32 over header bits [223:0] and the payload. -/
def flitCrc (h : BitVec 256) (payload : List Byte) : BitVec 32 :=
  ~~~((leBytes 28 h.toNat ++ payload).foldl crcByte 0xFFFFFFFF)

/-- What a sender says of a put, message or completion. -/
structure FlitInfo where
  typ : Nat
  vc : Nat
  dst : Nat
  addr : Nat
  slti : Nat
  tag : Nat
  nl : Nat
  cxid : Nat
  status : Nat
  w : Bool
  ttl : Nat
  src : Nat
  deriving DecidableEq, Repr

/-- R306: a header but for sequence, acknowledgement, credits and CRC. -/
def mkHeader (f : FlitInfo) : BitVec 256 :=
  BitVec.ofNat 256 (f.typ + f.vc * 2 ^ 4 + f.src % 64 * 2 ^ 44 + f.dst % 64 * 2 ^ 50 + f.ttl % 64 * 2 ^ 56 + b2n f.w * 2 ^ 62
    + f.addr % 2 ^ 44 * 2 ^ 64 + f.slti % 2 ^ 14 * 2 ^ 108 + f.tag % 2 ^ 12 * 2 ^ 122 + f.nl % 4 * 2 ^ 134
    + f.cxid % 2 ^ 12 * 2 ^ 136 + f.status % 16 * 2 ^ 148)

/-! ## Sending -/

/-- R307, R308: acknowledgement and credits of the moment go into an outgoing header. -/
def stamp (l : Link) (h : BitVec 256) : BitVec 256 × Link :=
  let h := hSet (hSet h 29 18 ((l.expSeq.toNat + 4095) % 4096)) 30 30 1
  let l := { l with sinceAck := 0 }
  match l.owe with
  | [] => (h, l)
  | (c, n) :: rest =>
    let k := min n 1023
    (hSet (hSet h 41 32 k) 43 42 c, { l with owe := if k < n then (c, n - k) :: rest else rest })

/-- Puts the CRC into a header. -/
def withCrc (h : BitVec 256) (p : List Byte) : BitVec 256 := hSet h 255 224 (flitCrc h p).toNat

/-- R305: the payload of every flit is 256 bytes; what its kind does not fill is zeros. -/
def fullPayload (p : List Byte) : List Byte := p.take 256 ++ List.replicate (256 - p.length) 0

/-- R308: a place of a link's receive buffer is free again: a credit of its class is owed. -/
def oweCredit (s : State) (b : Option (Nat × Nat)) : State :=
  match b with
  | some (k, vc) =>
    let l := linkOf s k
    setLink s k { l with owe := smSet 0 l.owe vc (smGet 0 l.owe vc + 1) }
  | none => s

/-- A flit without sequence number leaves on a link: control or tick (R307, R308). -/
def sendPlain (s : State) (k : Nat) (h : BitVec 256) (p : List Byte) : State :=
  let (h, l) := stamp (linkOf s k) h
  emit (setLink s k l) (.flit (BitVec.ofNat 3 k) (withCrc h (fullPayload p)) (fullPayload p))

/-- A sequenced flit leaves, and is kept until acknowledged. -/
def transmit (s : State) (k : Nat) (f : Flit) : State :=
  let l := linkOf s k
  let vc := hField f.hdr 5 4
  let h := hSet f.hdr 17 6 l.nextSeq.toNat
  let l := { l with
    nextSeq := l.nextSeq + 1
    replay := l.replay ++ [{ f with hdr := h, buf := none }]
    credits := smSet 0 l.credits vc (smGet 0 l.credits vc - 1) }
  let (h, l) := stamp l h
  oweCredit (emit (setLink s k l) (.flit (BitVec.ofNat 3 k) (withCrc h f.payload) f.payload)) f.buf

/-- R307, R308: a flit may leave: the link is up, a credit of its class and a place in the replay buffer are free. -/
def maySend (l : Link) (f : Flit) : Bool :=
  l.status == 2 && decide (l.replay.length < 1024) && decide (0 < smGet 0 l.credits (hField f.hdr 5 4))

/-- Sends the waiting flits that may leave, in order within each class; `n` bounds their number. -/
def pump (k : Nat) : Nat → State → State
  | 0, s => s
  | n + 1, s =>
    let l := linkOf s k
    match l.waiting.find? (maySend l) with
    | some f => pump k n (transmit (setLink s k { l with waiting := l.waiting.erase f }) k f)
    | none => s

def pumpAll (k : Nat) (s : State) : State := pump k (linkOf s k).waiting.length s

/-- A flit is given to a link; a failed or absent one drops it. -/
def sendOn (s : State) (k : Nat) (f : Flit) : State :=
  let l := linkOf s k
  if l.status = 3 ∨ l.status = 0 then oweCredit (setLink s k { l with dropped := sat32 l.dropped }) f.buf
  else pumpAll k (setLink s k { l with waiting := l.waiting ++ [{ f with payload := fullPayload f.payload }] })

/-- R310: the link towards a package. -/
def routeOf (s : State) (d : Nat) : Option Nat :=
  let r := (smGet 0xF s.tw.routes d).toNat
  if r < 8 then some r else none

/-! ## Arrival at this package -/

/-- R300: tile-store offset of the slot of message m of a mailbox. -/
def slotOfMessage (p : Word) (m : Nat) : Nat := wBits p 39 20 + 256 * (m % (wBits p 4 1 + 1))

/-- R300: the messages of a cycle in the order in which they take slots. -/
def insertArrival (a : Arrival) : List Arrival → List Arrival
  | [] => [a]
  | b :: bs => if a.key < b.key then a :: b :: bs else b :: insertArrival a bs

/-- R300: messages of a mailbox put into its slots from number m on, each with the bytes it replaces. -/
def placeArrivals (i : Nat) (p : Word) : Nat → List Arrival → State → List Arrival × State
  | _, [], s => ([], s)
  | m, a :: as, s =>
    let pa := storePa i (slotOfMessage p m)
    let a := { a with old := smRead 0 s.ms.mem pa a.lines.length }
    let (rest, s) := placeArrivals i p (m + 1) as (writeStore s pa a.lines)
    (a :: rest, s)

/-- R300: the messages of a cycle taken out of their slots again, the last first; m is the number after the last. -/
def liftArrivals (i : Nat) (p : Word) : Nat → List Arrival → State → State
  | _, [], s => s
  | m, a :: as, s => liftArrivals i p (m - 1) as (writeStore s (storePa i (slotOfMessage p (m - 1))) a.old)

/-- R300: the place of a message in the order of its cycle: its own package before others, then by source logical index. -/
def arrivalKey (other : Bool) (src : Nat) : Nat := 65536 * b2n other + src

/-- R300, R96: message lines go into a slot, the count advances, the target changes, the interrupt is raised. Messages of one cycle
take slots in their order. -/
def deliverLines (s : State) (i mb key : Nat) (lines : List Byte) : State :=
  let m := (tileOf s i).mesh
  let p := smGet 0 m.mb mb
  let n := smGet 0 m.rc mb
  let arrived := if m.stamp = s.fr.cyc then m.arrived else []
  let mine := arrived.filter fun a => a.mb == mb
  let all := insertArrival ⟨key, mb, lines, []⟩ mine
  let s := liftArrivals i p n mine.reverse s
  let (placed, s) := placeArrivals i p (n - mine.length) all s
  let s := modTile s i fun t => { t with mesh := { t.mesh with
    rc := smSet 0 t.mesh.rc mb (n + 1), stamp := s.fr.cyc, arrived := (arrived.filter fun a => a.mb != mb) ++ placed } }
  let sg : BitVec 8 := BitVec.ofNat 8 (b2n (wBit p 12) + 2 * wBits p 10 6 + 64 * b2n (wBit p 11) + 128 * b2n (wBit p 13))
  let s := changeFor s i sg
  if wBit p 5 then raiseInt s i (decide (6 ≤ mb)) 32 (0x10 + mb) 0 else s

/-- R302: a message to a tile of this package: refused (NAK), or delivered. From a tile of this package, `die` is its die; one that no
route joins to the tile's has the tile unavailable (R297). -/
def deliverMessage (s : State) (die : Option Nat) (i mb key : Nat) (lines : List Byte) : Bool × State :=
  if !idxAvail s i || unreachable s die (i / 1280) then (false, s)
  else if !wBit (smGet 0 (tileOf s i).mesh.mb mb) 0 then
    (false, modTile s i fun t => { t with mesh := { t.mesh with rdrop := true } })
  else (true, deliverLines s i mb key lines)

/-- R303: the lines of one flit of a put, checked as a whole: status and state. -/
def performPut (s : State) (cx : BitVec 12) (pa : Nat) (lines : List Byte) : Nat × State :=
  if 0x12000000000 < pa + lines.length then (2, s)
  else match checkedWrite s { write := true, serge := false, cxid := cx, calOwn := none, bar := false, die := none } pa lines with
    | .ok s => (0, s)
    | .error r => (if r = 2 then 2 else 1, s)

/-- R304: a completion of a remote operation, or its end. -/
def remoteDone (s : State) (lti : Nat) (tag : BitVec 12) (nak rto : Bool) : State :=
  let s := { s with tw := { s.tw with remote := s.tw.remote.filter fun r => r.tag != tag || r.lti != lti } }
  match (tileOf s lti).mesh.out.find? fun o => o.remote && o.tag == tag with
  | none => s
  | some o =>
    let s := modTile s lti fun t => { t with mesh := { t.mesh with
      out := t.mesh.out.erase o
      nak := t.mesh.nak || (nak && o.live)
      rto := t.mesh.rto || (rto && o.live) } }
    if o.live then opDone s lti o.wid else s

/-- R304: one flit's completion arrives; the last one completes the operation. -/
def remoteFlitDone (s : State) (lti : Nat) (tag : BitVec 12) (status : Nat) : State :=
  match s.tw.remote.find? fun r => r.tag == tag && r.lti == lti with
  | none => s
  | some r =>
    let nak := r.nak || decide (status ≠ 0)
    if r.flits ≤ 1 then remoteDone s lti tag nak false
    else { s with tw := { s.tw with remote := s.tw.remote.map fun x =>
        if x == r then { x with flits := x.flits - 1, nak := nak } else x } }

/-- R310: the completion that answers a put or message, sent by the table when there is a route. -/
def answer (s : State) (h : BitVec 256) (status : Nat) : State :=
  let d := hField h 49 44
  let f : FlitInfo :=
    { typ := 3, vc := 1, dst := d, addr := 0, slti := hField h 121 108, tag := hField h 133 122, nl := 0,
      cxid := 0, status := status, w := false, ttl := 16, src := s.tw.id.toNat }
  match routeOf s d with
  | some k => sendOn s k ⟨mkHeader f, [], none⟩
  | none => s

/-- Lines of a flit. -/
def flitLines (h : BitVec 256) (p : List Byte) : List Byte := p.take (64 * (hField h 135 134 + 1))

/-- R303: a put flit for this package. -/
def putArrives (s : State) (h : BitVec 256) (p : List Byte) : State :=
  let (st, s) := performPut s (BitVec.ofNat 12 (hField h 147 136)) (hField h 107 64) (flitLines h p)
  answer s h st

/-- R310: whether a message may enter a mailbox: status. -/
def messageStatus (s : State) (h : BitVec 256) : Nat :=
  let i := hField h 77 64
  let mb := hField h 80 78
  let cx := BitVec.ofNat 12 (hField h 147 136)
  if !idxAvail s i then 2
  else if 6 ≤ mb then (if h.getLsbD 62 then 0 else 3)
  else match s.fr.ft with
    | some ft => if ft.cxid = cx then 0 else 3
    | none => 3

/-- R302, R308, R310: a message flit for this package; one for a tile that is being copied is held, in its buffer. -/
def messageArrives (s : State) (h : BitVec 256) (p : List Byte) (buf : Option (Nat × Nat)) : State :=
  let i := hField h 77 64
  if (clusterOf s (i / 16)).copying = some (i % 16) then
    { s with tw := { s.tw with held := s.tw.held ++ [⟨h, p, buf⟩] } }
  else
    let s := oweCredit s buf
    let st := messageStatus s h
    if st ≠ 0 then answer s h st
    else
      let (ok, s) := deliverMessage s none i (hField h 80 78) (arrivalKey true (hField h 121 108)) (flitLines h p)
      answer s h (if ok then 0 else 3)

/-- R306, R310: a flit that this package can neither consume nor forward is dropped and counted; its buffer is free. -/
def dropFlit (s : State) (k : Nat) (buf : Option (Nat × Nat)) : State :=
  let l := linkOf s k
  oweCredit (setLink s k { l with dropped := sat32 l.dropped }) buf

/-- R308, R310: a flit for another package goes on, and leaves its buffer when it does, or is dropped and answered. -/
def forwardFlit (s : State) (k : Nat) (h : BitVec 256) (p : List Byte) (buf : Option (Nat × Nat)) : State :=
  let ttl := hField h 61 56
  let lost := fun (s : State) =>
    let s := dropFlit s k buf
    if hField h 3 0 = 1 ∨ hField h 3 0 = 2 then answer s h 4 else s
  match routeOf s (hField h 55 50) with
  | some out =>
    if ttl = 0 then lost s
    else sendOn s out ⟨hSet (hSet (hSet h 61 56 (ttl - 1)) 43 30 0) 255 224 0, p, buf⟩
  | none => lost s

/-- R306, R310: an accepted flit is consumed or forwarded; one of a reserved type is dropped and counted wherever it is bound. Membership
and management content come by their own commands. -/
def consume (s : State) (k : Nat) (h : BitVec 256) (p : List Byte) : State :=
  let buf := some (k, hField h 5 4)
  let typ := hField h 3 0
  if typ = 0 ∨ typ = 4 ∨ 7 ≤ typ then dropFlit s k buf
  else if hField h 55 50 ≠ s.tw.id.toNat then forwardFlit s k h p buf
  else match typ with
    | 1 => putArrives (oweCredit s buf) h p
    | 2 => messageArrives s h p buf
    | 3 => remoteFlitDone (oweCredit s buf) (hField h 121 108) (BitVec.ofNat 12 (hField h 133 122)) (hField h 151 148)
    | _ => oweCredit s buf

/-! ## Receiving -/

/-- R307: resends the whole replay buffer. -/
def resendAll (s : State) (k : Nat) : State :=
  let l := linkOf s k
  if l.status ≠ 2 then s
  else l.replay.foldl (fun s f =>
    let (h, l) := stamp (linkOf s k) f.hdr
    emit (setLink s k { l with resendCount := sat32 l.resendCount }) (.flit (BitVec.ofNat 3 k) (withCrc h f.payload) f.payload)) s

/-- R309: a link stops and retrains. -/
def startRetrain (s : State) (k : Nat) (l : Link) : State :=
  setLink s k { l with status := 1, retrains := sat32 l.retrains, resends := 0 }

/-- R307: a resend without progress; after 16 of them the link retrains. -/
def resendAgain (s : State) (k : Nat) : State :=
  let l := linkOf s k
  if l.status ≠ 2 || l.replay.isEmpty then s
  else if 16 ≤ l.resends then startRetrain s k l
  else resendAll (setLink s k { l with resends := l.resends + 1 }) k

/-- R307: an acknowledgement frees the replay buffer up to ACK; NAK resends the rest. -/
def takeAck (s : State) (k : Nat) (h : BitVec 256) : State :=
  if hField h 30 30 = 0 then s
  else
    let l := linkOf s k
    let ack := hField h 29 18
    let keep := l.replay.dropWhile fun f => decide ((ack + 4096 - hField f.hdr 17 6) % 4096 < 1024)
    let l' := { l with replay := keep, resends := if keep.length < l.replay.length then 0 else l.resends }
    let s := setLink s k l'
    if hField h 31 31 = 1 then resendAgain s k else s

/-- R308: returned credits. -/
def takeCredits (s : State) (k : Nat) (h : BitVec 256) : State :=
  let l := linkOf s k
  let c := hField h 43 42
  let n := hField h 41 32
  if n = 0 then s else setLink s k { l with credits := smSet 0 l.credits c (smGet 0 l.credits c + n) }

/-- R306: a control flit of this package. -/
def controlHeader (s : State) (nak : Bool) : BitVec 256 :=
  hSet (BitVec.ofNat 256 (7 + s.tw.id.toNat % 64 * 2 ^ 44)) 31 31 (b2n nak)

/-- R307: whether a type carries a sequence number. -/
def sequenced (typ : Nat) : Bool := typ != 0 && typ != 7 && typ != 4

/-- R307, R308: a flit arrives on a link that is up. Its bits are not to be trusted when its CRC fails: a NAK answers it, unless it says
that it is a tick. -/
def flitArrives (s : State) (k : Nat) (h : BitVec 256) (p0 : List Byte) : State :=
  let l := linkOf s k
  let typ := hField h 3 0
  let p := fullPayload p0
  if l.status ≠ 2 then s
  else if (flitCrc h p).toNat ≠ hField h 255 224 then
    let l := { l with crcFails := sat32 l.crcFails }
    if typ = 4 then setLink s k { l with ticksLost := sat32 l.ticksLost }
    else sendPlain (setLink s k l) k (controlHeader s true) []
  else
    let s := pumpAll k (takeCredits (takeAck s k h) k h)
    if !sequenced typ then s
    else
      let l := linkOf s k
      let seq := hField h 17 6
      if seq = l.expSeq.toNat then
        let l := { l with expSeq := l.expSeq + 1, sinceAck := l.sinceAck + 1 }
        consume (setLink s k l) k h p
      else if (l.expSeq.toNat + 4095 - seq) % 4096 < 1024 then s
      else sendPlain s k (controlHeader s true) []

/-! ## Links -/

/-- R308: credits granted at link-up. -/
def freshCredits : SMap Nat := [(0, 512), (1, 256), (2, 16), (3, 32)]

/-- R309: the widest of 16, 8 and 4 lanes without a failed one. -/
def widest (failed : BitVec 16) : Nat :=
  let clear := fun (lo n : Nat) => (List.range n).all fun j => !failed.getLsbD (lo + j)
  if clear 0 16 then 16
  else if clear 0 8 || clear 8 8 then 8
  else if clear 0 4 || clear 4 4 || clear 8 4 || clear 12 4 then 4
  else 0

/-- R308, R309, R405: a link is failed; its replay buffer is discarded, and what waits to leave by it, whose buffers are free. -/
def failLink (s : State) (k : Nat) : State :=
  let l := linkOf s k
  let s := l.waiting.foldl (fun s f => oweCredit s f.buf) s
  let l := linkOf s k
  trace 4 k (logErr 0x41 4 5 k 0 0 (setLink s k { l with status := 3, lanes := 0, replay := [], waiting := [], afresh := false }))

/-- R308: a link comes up: sequence numbers start afresh and credits are granted. -/
def linkAfresh (l : Link) : Link :=
  { l with nextSeq := 0, expSeq := 0, replay := [], sinceAck := 0, resends := 0, credits := freshCredits, owe := [], afresh := false }

/-- R308, R309: the retrain ends; a link that had failed comes up afresh. -/
def retrained (s : State) (k : Nat) : State :=
  let l := linkOf s k
  if l.status ≠ 1 then s
  else
    let w := widest l.failedLanes
    if w = 0 then failLink s k
    else
      let less := decide (w < l.lanes.toNat)
      let l := if l.afresh then linkAfresh l else l
      let s := setLink s k { l with
        status := 2
        lanes := BitVec.ofNat 5 w
        degrades := if less then sat32 l.degrades else l.degrades }
      let s := if less then logErr 0x40 2 5 k w 0 s else s
      trace 4 k (pumpAll k (resendAll s k))

/-! ## Membership flits (R306, R314, R315) -/

/-- What a membership flit carries, by its kind: 1 beacon, 2 join, 3 status, 4 leave, 5 candidate. The payload's layout is the model's
(assumption 116): the kind in byte 0, the sender's identifier in byte 1, its priority in byte 2, e in byte 3, a period in ns in
bytes 4 to 7, then the generation, the current set, the set of the next epoch and the refused identifiers, 8 bytes each. -/
def membershipPayload (s : State) (kind period : Nat) : List Byte :=
  leBytes 1 kind ++ leBytes 1 s.tw.id.toNat ++ leBytes 1 s.tw.prio.toNat ++ leBytes 1 s.tw.e.toNat ++ leBytes 4 period
    ++ (if kind = 1 then leBytes 8 s.tw.gen.toNat ++ leBytes 8 s.tw.members.toNat ++ leBytes 8 s.tw.announced.toNat
          ++ leBytes 8 s.tw.refused.toNat else [])

/-- R306: a membership flit. -/
def membershipFlit (dst ttl src sfn : Nat) (payload : List Byte) : Flit :=
  let f : FlitInfo := { typ := 5, vc := 2, dst := dst, addr := 0, slti := 0, tag := 0, nl := 0, cxid := 0, status := 0, w := true,
                        ttl := ttl, src := src }
  ⟨hSet (mkHeader f) 215 152 sfn, payload, none⟩

/-- R314, R315: a membership flit of this package is routed to a package. -/
def routeMembership (s : State) (kind period dst : Nat) : State :=
  match routeOf s dst with
  | some k => sendOn s k (membershipFlit dst 16 s.tw.id.toNat s.tw.sfn.toNat (membershipPayload s kind period))
  | none => s

end Sys2Proof.Machine
end

