-- ==== Sys2Proof/Machine/Mesh.lean ====
section
/-! DEFINITION. Sends, puts and mailboxes of a tile, and the hand-off of the store buffer (11_tulle_twill.md, R119, R278). -/

namespace Sys2Proof.Machine

open Sys2Proof

/-- Bytes of the own tile store that a send or put takes; an uncorrectable word gives free values, for the manual states no
result of reading one here (assumption 7). -/
def sourceLines (s : State) (i a n : Nat) : List Byte × State :=
  let bad := fun off => s.ms.bad.contains (storePa i off / 8 * 8)
  if (List.range n).any fun j => bad (a + j) then
    ((List.range n).map fun j =>
      if bad (a + j) then BitVec.ofNat 8 (freeAt s j).toNat else readByte s (storePa i (a + j)),
     { s with freeCtr := s.freeCtr + n })
  else (readBytes s (storePa i a) n, correctReads s i [(a, n)])

/-- R301: the destination package of a send or put that is not this one. -/
def otherPackage (s : State) (put : Bool) (x : Word) : Option Nat :=
  let d := if put then wBits x 10 5 else wBits x 25 20
  if (put || wBit x 19) && decide (d ≠ s.tw.id.toNat) then some d else none

/-- R301, R303, R306: the flits of a remote operation, four lines each. -/
def remoteFlits (s : State) (i : Nat) (put : Bool) (x : Word) (pa : Nat) (d tag : Nat) (srg : Bool) (lines : List Byte) :
    List Flit :=
  let parts := lChunks 256 4 lines
  (List.range parts.length).map fun j =>
    let p := parts.getD j []
    let f : FlitInfo :=
      { typ := if put then 1 else 2, vc := 0, dst := d,
        addr := if put then pa + 256 * j else wBits x 13 0 + wBits x 16 14 * 2 ^ 14, slti := i, tag := tag,
        nl := p.length / 64 - 1, cxid := (cxidOf s srg).toNat, status := 0, w := srg, ttl := 16, src := s.tw.id.toNat }
    ⟨mkHeader f, p, none⟩

/-- R127, R302: cycles from the trigger to the delivery, but for the lines after the first: the own tile store 2, the own cluster 4, another
cluster of the die 21, another die 130; a put leaves through the hub, which counts as another die (assumption 117). -/
def deliverCycles (put : Bool) (i dst : Nat) : Nat :=
  if put then 130 else if i = dst then 2 else if i / 16 = dst / 16 then 4 else if i / 1280 = dst / 1280 then 21 else 130

/-- R301 to R304: a send or put is handed off: its source lines are read, a remote one leaves in flits. `force` hands it off though four
are outstanding. -/
def handOffMesh (s : State) (i : Nat) (e : SbEntry) (force : Bool) : State :=
  if e.overload then s
  else if e.skip then opDone (dropSeq s i e.seq) i e.wid
  else if !force && decide (4 ≤ ((tileOf s i).mesh.out.filter fun o => o.live).length) then s
  else
    let put := e.kind == .put
    let (a, n) := meshSource put e.x
    let (lines, s) := sourceLines s i a (64 * n)
    let s := trace 3 i (dropSeq s i e.seq)
    let far := otherPackage s put e.x
    let tag := s.tw.nextTag
    let o : MeshOp :=
      { put := put, x := e.x, pa := e.pa, lines := lines, remote := far.isSome, tag := tag,
        cxid := cxidOf s e.who.serge, serge := e.who.serge, live := true, wid := e.wid,
        due := s.fr.cyc + wOf (deliverCycles put i (wBits e.x 13 0) + n - 1) }
    let s := modTile s i fun t => { t with mesh := { t.mesh with out := t.mesh.out ++ [o] } }
    match far with
    | none => s
    | some d =>
      let fl := remoteFlits s i put e.x e.pa d tag.toNat e.who.serge lines
      let s := { s with tw := { s.tw with nextTag := tag + 1, remote := s.tw.remote ++ [⟨tag, i, fl.length, false⟩] } }
      match routeOf s d with
      | some k => fl.foldl (fun s f => sendOn s k f) s
      | none => remoteDone s i tag true false

/-- The bytes of a descriptor as numbers. -/
def descBits (d : List Byte) (hi lo : Nat) : Nat := bitsOf (leNat d) hi lo

/-- R280: a submission on its way to a channel. -/
def dmaJobOf (s : State) (i : Nat) (e : SbEntry) (d : List Byte) : DmaJob :=
  { lti := i, serge := e.who.serge, sup := e.who.sup, cxid := cxidOf s e.who.serge, det := (tileOf s i).det,
    src := descBits d 51 0, dst := descBits d 115 64, len := descBits d 159 128,
    sg := BitVec.ofNat 8 (descBits d 166 166 + 2 * descBits d 164 160 + 64 * descBits d 165 165 + 128 * descBits d 167 167),
    lc := decide (descBits d 168 168 = 1), fie := decide (descBits d 169 169 = 1), frec := descBits d 211 192,
    early := wBit e.x 22, pages := [], gens := [], frame := s.fr.fnum.toNat, next := 0, wid := e.wid }

/-- R279: descriptors of a tile that a channel has accepted and not started. -/
def waitingOf (c : DmaCh) (i : Nat) : Nat := (c.waiting.filter fun j => j.lti == i).length

/-- R278, R279: a submission is handed off: its descriptor is read, and it is on its way to its channel. -/
def handOffDma (s : State) (i : Nat) (e : SbEntry) (force : Bool) : State :=
  let ch := wBits e.x 21 20
  let c := dmaChOf s (i / 64) ch
  if e.skip then opDone (dropSeq s i e.seq) i e.wid
  else if !force && !(tileOf s i).det && decide (4 ≤ waitingOf c i) then s
  else
    let a := wBits e.x 19 0
    match badStoreWord s i [(a, 64)] with
    | some off => refuseAccess (noteStore i off s) i e.seq e.wid 7 (wOf a)
    | none =>
      let s := correctReads s i [(a, 64)]
      let j := dmaJobOf s i e (readBytes s (storePa i a) 64)
      setDmaCh (dropSeq s i e.seq) (i / 64) ch { c with arriving := c.arriving ++ [j] }

/-- R279: a normal-mode submission of a tile waits at a channel for one of the tile's four to start. -/
def handOffWaits (s : State) (i : Nat) : Bool :=
  (List.range 4).any fun ch =>
    let c := dmaChOf s (i / 64) ch
    decide (4 ≤ waitingOf c i) && c.arriving.any fun j => j.lti == i && !j.det

/-- R119, R279: the oldest entry of the store buffer is handed to its path, if the path accepts it; none while a submission waits. -/
def handOff (s : State) (i : Nat) : State :=
  if handOffWaits s i then s else
  match (tileOf s i).sb with
  | [] => s
  | e :: _ =>
    match e.kind with
    | .store => handOffStore s i e
    | .dma => handOffDma s i e false
    | .send => handOffMesh s i e false
    | .put => handOffMesh s i e false

/-- R278: the oldest entry, a submission, is handed off. -/
def descriptorRead (s : State) (i : Nat) : State :=
  match (tileOf s i).sb with
  | e :: _ => if e.kind == .dma && !handOffWaits s i then handOffDma s i e false else s
  | [] => s

/-- R53, R63: what the store buffer of a tile that ends here still holds goes on its way, in order: the effects of the frame that the
replay skips (assumption 114). -/
def handOffAll (s : State) (i : Nat) : State :=
  (tileOf s i).sb.foldl (fun s e =>
    match e.kind with
    | .store => if e.overload then s else performStore s i e
    | .dma => handOffDma s i e true
    | .send => handOffMesh s i e true
    | .put => handOffMesh s i e true) s

/-- R302: a message whose tile is being copied waits for the remap. -/
def waitsForRemap (s : State) (o : MeshOp) : Bool :=
  let dst := wBits o.x 13 0
  !o.put && (clusterOf s (dst / 16)).copying == some (dst % 16)

/-- R298, R302: operations of one tile to one place: they arrive in the order sent. -/
def sameWay (o p : MeshOp) : Bool := o.put == p.put && (o.put || wBits o.x 13 0 == wBits p.x 13 0)

/-- R298, R302: the operations to the own package that may be delivered: none that waits, none behind another to its place. -/
def deliverable (s : State) : List MeshOp → List MeshOp
  | [] => []
  | o :: os =>
    if o.remote then deliverable s os
    else
      let rest := (deliverable s os).filter fun p => !sameWay o p
      if waitsForRemap s o then rest else o :: rest

/-- R302: the first of some operations that is due. -/
def firstDue : List MeshOp → Option MeshOp
  | [] => none
  | o :: os => match firstDue os with
    | none => some o
    | some p => if (o.due - p.due).toInt ≤ 0 then some o else some p

/-- R302, R303: an operation of a tile to its own package is delivered. -/
def deliverOp (s : State) (i : Nat) (o : MeshOp) : State :=
  let (ok, s) := if o.put then
      (lChunks 256 4 o.lines).foldl (fun (acc : Bool × Nat × State) p =>
        let (st, s) := performPut acc.2.2 o.cxid (o.pa + 256 * acc.2.1) p
        (acc.1 && st == 0, acc.2.1 + 1, s)) (true, 0, s) |> fun r => (r.1, r.2.2)
    else deliverMessage s (some (i / 1280)) (wBits o.x 13 0) (wBits o.x 16 14) (arrivalKey false i) o.lines
  let s := modTile s i fun t => { t with mesh := { t.mesh with
    out := t.mesh.out.erase o
    nak := t.mesh.nak || (!ok && o.live) } }
  if o.live then opDone s i o.wid else s

/-- R302, R303: the operation of a tile to its own package that is due first is delivered. -/
def deliverNext (s : State) (i : Nat) : State :=
  match firstDue (deliverable s (tileOf s i).mesh.out) with
  | none => s
  | some o => deliverOp s i o

/-- R304: at a tick the messages and puts of a tile to its own package are delivered, in the order in which they are due. -/
def deliverAll (s : State) (i : Nat) : State :=
  (List.range (tileOf s i).mesh.out.length).foldl (fun s _ => deliverNext s i) s

/-- R301: sends a message. -/
def execMeshSend (lti : BitVec 14) (x : Word) (sg : BitVec 8) (s : State) : Host.Outcome State Fault Refusal :=
  onTile lti s fun i s => issueOne s i 0x820 x sg

/-- R303: a put. -/
def execMeshPut (lti : BitVec 14) (x : Word) (sg : BitVec 8) (s : State) : Host.Outcome State Fault Refusal :=
  onTile lti s fun i s => issueOne s i 0x821 x sg

/-- R300: writes a mailbox port. -/
def execMeshMailboxWrite (lti : BitVec 14) (n : BitVec 3) (x : Word) (sg : BitVec 8) (s : State) :
    Host.Outcome State Fault Refusal :=
  onTile lti s fun i s => issueOne s i (0x810 + n.toNat) x sg

/-- R302: the send, or put to the own package, that is due is delivered. -/
def execMessageDelivery (lti : BitVec 14) (s : State) : Host.Outcome State Fault Refusal :=
  onTile lti s fun i s => deliverNext s i

/-- R304: a completion for a flit of a remote operation arrives. -/
def execRemoteOpCompletion (lti : BitVec 14) (tag : BitVec 12) (status : BitVec 4) (s : State) :
    Host.Outcome State Fault Refusal :=
  onTile lti s fun i s => remoteFlitDone s i tag status.toNat

/-- R304: a remote operation is not completed 1 ms after its hand-off. -/
def execRemoteOpTimeout (lti : BitVec 14) (tag : BitVec 12) (s : State) : Host.Outcome State Fault Refusal :=
  onTile lti s fun i s => remoteDone s i tag false true

/-- R119: the oldest store-buffer entry is handed off once its path accepts it. -/
def execStoreHandoff (lti : BitVec 14) (s : State) : Host.Outcome State Fault Refusal :=
  onTile lti s fun i s => handOff s i

/-- R278: a DMA descriptor is read at the hand-off of its submission. -/
def execDmaDescriptorRead (lti : BitVec 14) (s : State) : Host.Outcome State Fault Refusal :=
  onTile lti s fun i s => descriptorRead s i

/-- R278: submits a DMA descriptor. -/
def execLsuDma (lti : BitVec 14) (x : Word) (sg : BitVec 8) (s : State) : Host.Outcome State Fault Refusal :=
  onTile lti s fun i s => issueOne s i 0x0B8 x sg

end Sys2Proof.Machine
end

