-- ==== Sys2Proof/Machine/Dma.lean ====
section
/-! DEFINITION. Region DMA: acceptance, translation at submission, units, faults, completion, and the hot-page log
(10_translation.md R278 to R291). -/

namespace Sys2Proof.Machine

open Sys2Proof

/-- A command that names a region and a channel, or a fault when there is no such region (R20). One of a die whose clocks are stopped does
nothing (R383, R447). -/
def onChan (region : BitVec 8) (s : State) (f : Nat → State → State) : Host.Outcome State Fault Refusal :=
  if region.toNat < 160 then .next (if (dieOf s (region.toNat / 20)).clocks then f region.toNat s else s) else .fault .noSuchUnit

/-! ## Fault records -/

/-- R284: the first word of a fault record. -/
def recWord (j : DmaJob) (ch code side : Nat) : Word :=
  wOf (code + side * 256 + b2n j.early * 512 + ch * 1024 + (j.len - j.next) % 2 ^ 32 * 65536)

/-- R284: virtual address of the next unit on a side, the one that fails. -/
def recVa (j : DmaJob) (side : Nat) : Nat := (if side = 0 then j.src else j.dst) + 64 * j.next

/-- A record may be written at FREC. -/
def recFits (s : State) (j : DmaJob) : Bool :=
  decide (j.frec % 32 = 0 ∧ j.frec < 0xC0000) && idxAvail s j.lti && !tsinHit s j.lti j.frec
    && !inCalicoSet (tileOf s j.lti) j.frec

/-- R283, R284, R288: the fault record of a descriptor: log, record in the tile store, interrupt; after the tick that closed
its frame the log only. -/
def dmaFaultAt (s : State) (r ch : Nat) (j : DmaJob) (code side a : Nat) : State :=
  let w0 := recWord j ch code side
  let va := wOf a
  let s := trace 2 r (logErr 0x30 3 3 r (wBits w0 31 0) va s)
  if s.fr.fnum.toNat ≠ j.frame then s
  else
    let s := if recFits s j then
        writeStore s (storePa j.lti j.frec) (wBytes w0 ++ wBytes va ++ wBytes s.fr.fnum ++ wBytes 0)
      else s
    if j.fie then raiseInt s j.lti j.serge 33 ch (wOf j.frec) else s

/-- R284: the fault record of a descriptor whose next unit fails. -/
def dmaFault (s : State) (r ch : Nat) (j : DmaJob) (code side : Nat) : State := dmaFaultAt s r ch j code side (recVa j side)

/-- R280, R288: completion changes the target while the submission's frame runs. -/
def dmaEnds (s : State) (r : Nat) (j : DmaJob) : State :=
  let s := trace 2 r s
  if s.fr.fnum.toNat = j.frame then changeFor s j.lti j.sg else s

/-! ## Acceptance -/

/-- R281: why a descriptor is refused at acceptance. -/
def descRefused (j : DmaJob) : Option Nat :=
  if j.src % 64 ≠ 0 ∨ j.dst % 64 ≠ 0 ∨ 2 ^ 52 < j.src + 64 * j.len ∨ 2 ^ 52 < j.dst + 64 * j.len ∨ j.frec % 32 ≠ 0
      ∨ 0xC0000 ≤ j.frec then some 9
  else if overlap j.src (64 * j.len) j.dst (64 * j.len) && decide (0 < j.len) then some 0xB
  else none

/-- R268, R284: code of a DMA translation: 1 translation, 2 permission. -/
def dmaLeaf (j : DmaJob) (dst : Bool) (e : TlbEntry) : Option Nat :=
  if (leafCheck e j.sup (if dst then .dmaWrite else .dmaRead) false).isSome then some 2 else none

/-- What translation at submission has found so far: pages, granules with generations. -/
structure EarlyTr where
  pages : List RecPage
  grs : List Nat
  deriving DecidableEq, Repr

/-- The 2 MiB granules of stacked memory in [pa, pa + n). -/
def granulesOf (pa n : Nat) : List Nat :=
  if 0x12000000000 ≤ pa ∨ n = 0 then [] else (List.range ((pa + n - 1) / 0x200000 - pa / 0x200000 + 1)).map (pa / 0x200000 + ·)

/-- R284, R285: translates [va, va + n) of one side page by page; a code with the address of the first unit that fails, or the pages and
granules. -/
def earlySide (s : State) (j : DmaJob) (dst : Bool) : Nat → Nat → Nat → EarlyTr → Except (Nat × Nat × State) (EarlyTr × State)
  | 0, _, _, t => .ok (t, s)
  | f + 1, va, n, t =>
    if n = 0 then .ok (t, s)
    else
    let s := countWalk s j.cxid va
    match walk s (some (j.lti / 1280)) j.cxid j.serge va with
      | .error bad => .error (1, va, noteWalk s j.cxid bad)
      | .ok e =>
        let pa := tlbPa e va
        let k := min n (2 ^ pageBits e.level - va % 2 ^ pageBits e.level)
        match dmaLeaf j dst e with
        | some c => .error (c, va, s)
        | none =>
          if isHostWin pa then .error (4, va, s)
          else
            let grs := t.grs ++ (granulesOf pa k).filter fun g => !t.grs.contains g
            if 64 < grs.length then .error (0xC, va, s)
            else earlySide s j dst f (va + k) (n - k) ⟨t.pages ++ [⟨dst, e.vpage, e.level, e.pbase, e.lc⟩], grs⟩
where
  isHostWin (pa : Nat) : Bool := match paClass pa with | .hostWin _ => true | _ => false

/-- R285: translation at submission of both sides: a code with its side and address, or the job with its pages and generations. -/
def earlyTranslate (s : State) (j : DmaJob) : Except (Nat × Nat × Nat × State) (DmaJob × State) :=
  let fuel := 64 * j.len / 0x10000 + 2
  match earlySide s j false fuel j.src (64 * j.len) ⟨[], []⟩ with
  | .error (c, va, s) => .error (c, 0, va, s)
  | .ok (a, s) =>
    match earlySide s j true fuel j.dst (64 * j.len) ⟨[], []⟩ with
    | .error (c, va, s) => .error (c, 1, va, s)
    | .ok (b, s) =>
      .ok ({ j with
        pages := a.pages ++ b.pages
        gens := (a.grs ++ b.grs).foldl (fun m g => smSet 0 m g (smGet 0 s.ms.gen g)) [] }, s)

/-- R129, R279: a deterministic submission that finds four waiting is refused with the overload fault. -/
def dmaOverload (s : State) (j : DmaJob) : State :=
  let a := wOf j.src
  let s := logErr 8 3 0 j.lti 3 a { s with rel := { s.rel with overloads := s.rel.overloads + 1 } }
  addAsync (opLost s j.lti j.wid) j.lti ⟨13, 0, a, (tileOf s j.lti).nextSeq⟩

/-- R279: an arriving submission does not wait for one of its tile's four to start. -/
def arrives (c : DmaCh) (j : DmaJob) : Bool := j.det || decide (waitingOf c j.lti < 4)

/-- R279, R281, R285: the oldest arriving submission that need not wait is accepted, or refused. -/
def dmaAccept (s : State) (r ch : Nat) : State :=
  let c := dmaChOf s r ch
  match c.arriving.find? (arrives c) with
  | none => s
  | some j =>
    let rest := c.arriving.erase j
    let s' := setDmaCh s r ch { c with arriving := rest }
    if 4 ≤ waitingOf c j.lti then dmaOverload s' j
    else
      let fin := fun s => opDone s j.lti j.wid
      match descRefused j with
      | some code => dmaFault (fin s') r ch j code 0
      | none =>
        if j.len = 0 then dmaEnds (fin s') r j
        else if j.early then
          match earlyTranslate s' j with
          | .error (code, side, va, s) => dmaFaultAt (fin s) r ch j code side va
          | .ok (j, s) =>
            let c := dmaChOf s r ch
            fin (setDmaCh s r ch { c with waiting := c.waiting ++ [j] })
        else fin (setDmaCh s' r ch { c with arriving := rest, waiting := c.waiting ++ [j] })

/-- R282: an idle channel starts its oldest waiting descriptor. -/
def dmaStart (s : State) (r ch : Nat) : State :=
  let c := dmaChOf s r ch
  match c.run, c.waiting with
  | none, j :: rest => trace 2 r (setDmaCh s r ch { c with run := some j, waiting := rest, wrEnd := none })
  | _, _ => s

/-! ## Units -/

/-- What a unit does: fails with code and side, waits, or has been performed. -/
inductive UnitRes where
  | fail (code side : Nat) (s : State)
  | wait (s : State)
  | done (s : State)
  deriving DecidableEq, Repr

/-- R285, R288: the physical address of a unit on one side and its page's LC, by the recorded pages, the channel's TLB or a walk. -/
def unitPa (s : State) (r ch : Nat) (j : DmaJob) (dst : Bool) (va : Nat) : Except (Nat × State) (Nat × Bool × State) :=
  if j.early then
    match j.pages.find? fun p => p.dst == dst && p.vpage == va >>> pageBits p.level with
    | some p => .ok (p.pbase + va % 2 ^ pageBits p.level, p.lc, s)
    | none => .error (1, s)
  else
    let c := dmaChOf s r ch
    let s := if (tlbFind c.tlb j.cxid va).isSome then s else countWalk s j.cxid va
    match (match tlbFind c.tlb j.cxid va with | some e => Except.ok e | none => walk s (some (j.lti / 1280)) j.cxid j.serge va) with
    | .error bad => .error (1, noteWalk s j.cxid bad)
    | .ok e =>
      let s := setDmaCh s r ch { c with tlb := tlbPut c.tlb e }
      match dmaLeaf j dst e with
      | some code => .error (code, s)
      | none => .ok (tlbPa e va, e.lc, s)

/-- R285: the granule of a recorded unit still has its generation. -/
def genOk (s : State) (j : DmaJob) (pa : Nat) : Bool :=
  !j.early || decide (0x12000000000 ≤ pa) || smGet 0 s.ms.gen (pa / 0x200000) == smGet 0 j.gens (pa / 0x200000)

/-- R284: the code of a refused unit. -/
def unitCode (r : BitVec 8) : Nat :=
  if r = 2 then 4 else if r = 3 then 3 else if r = 4 then 5 else if r = 5 then 0xD else 6

/-- A DMA access (R55, R91, R272). -/
def dmaAcc (j : DmaJob) (write : Bool) : Acc :=
  { write := write, serge := j.serge, cxid := j.cxid, calOwn := none, bar := false, die := some (j.lti / 1280) }

/-- The key of a host read of a channel from a unit on. -/
def dmaKey (r ch : Nat) (j : DmaJob) : Nat × Nat := (4 * r + ch, j.next)

/-- R330: a host read of a channel holds its next unit. -/
def holdsUnit (r ch : Nat) (j : DmaJob) (q : HostReq) : Bool :=
  match q.dma with
  | some (c, n) => c == 4 * r + ch && decide (n ≤ j.next ∧ j.next < n + q.len / 64)
  | none => false

/-- R317, R330: units that one host read takes: those left, in a page, up to 512 B and the largest read of Device Control. A request
crosses no 4 KiB boundary (PCI Express; assumption 120). -/
def readUnits (s : State) (j : DmaJob) (x : Nat) : Nat :=
  min (min (j.len - j.next) (64 - (x + s.ms.hostBase.toNat) / 64 % 64)) (min 8 (2 * 2 ^ ((s.host.devCtl.toNat >>> 12) % 8)))

/-- R282, R330, R331: the 64 B of a unit's source. A read of stacked memory carries LC and the page's. -/
def unitRead (s : State) (r ch : Nat) (j : DmaJob) (pa : Nat) (lc : Bool) : UnitRes ⊕ (List Byte × State) :=
  match paClass pa with
  | .hostWin x =>
    (match s.host.reqs.find? (holdsUnit r ch j) with
     | none => .inl (.wait (hostReadOut j.cxid none (some (dmaKey r ch j)) x (64 * readUnits s j x) s))
     | some q =>
       let n := match q.dma with | some (_, n) => n | none => j.next
       let used := decide (n + q.len / 64 ≤ j.next + 1)
       let s' := if used then { s with host := { s.host with reqs := s.host.reqs.erase q } } else s
       match q.done with
       | none => .inl (.wait s)
       | some (true, bs) => .inr ((bs.drop (64 * (j.next - n))).take 64, s')
       | some (false, _) => .inl (.fail 0xA 0 { s with host := { s.host with reqs := s.host.reqs.erase q } }))
  | _ =>
    match checkedRead s (dmaAcc j false) pa 64 with
    | .ok bs =>
      let s := noteReads s pa 64
      let stacked := match paClass pa with | .stacked => true | _ => false
      .inr (bs, setDmaCh s r ch { dmaChOf s r ch with lcRead := stacked && (j.lc || lc) })
    | .error c => .inl (.fail (unitCode c) 0 (if c = 7 then noteUncorrectable s j.cxid pa else s))

/-- R317, R330: whether a unit's write goes on with the write of its transfer that left last: the next bytes of host memory, within the max
payload size and a 4 KiB page; `wrEnd` is the end of that write and how many messages had left with it. -/
def joinsWrite (s : State) (r ch a : Nat) : Option (Nat × List Byte) :=
  match s.outbox.getLast? with
  | some (.hostWrite b bs) =>
    if s.host.bme ∧ (dmaChOf s r ch).wrEnd = some (a, s.outbox.length) ∧ b + bs.length = a ∧ a % 4096 ≠ 0
        ∧ bs.length + 64 ≤ (if (s.host.devCtl.toNat >>> 5) % 8 = 0 then 128 else 256)
    then some (b, bs) else none
  | _ => none

/-- R282, R330: the unit's destination is written; consecutive units to host memory are merged. -/
def unitWrite (s : State) (r ch : Nat) (j : DmaJob) (pa : Nat) (bs : List Byte) : UnitRes :=
  match checkedWrite s (dmaAcc j true) pa bs with
  | .ok t =>
    (match paClass pa with
     | .hostWin x =>
       let a := x + s.ms.hostBase.toNat
       let t := match joinsWrite s r ch a with
         | some (b, old) => { t with outbox := s.outbox.dropLast ++ [.hostWrite b (old ++ bs)] }
         | none => t
       .done (setDmaCh t r ch { dmaChOf t r ch with wrEnd := some (a + 64, t.outbox.length) })
     | _ => .done t)
  | .error c => .fail (unitCode c) 1 s

/-- R285: a descriptor translated at submission has outlived the second tick after its frame. -/
def dmaExpired (s : State) (j : DmaJob) : Bool := j.early && decide (j.frame + 2 ≤ s.fr.fnum.toNat)

/-- R282, R283, R285: the next unit of a running transfer. -/
def dmaUnit (s : State) (r ch : Nat) (j : DmaJob) : UnitRes :=
  let sv := j.src + 64 * j.next
  let dv := j.dst + 64 * j.next
  if dmaExpired s j then .fail 8 0 s
  else match unitPa s r ch j false sv with
  | .error (c, s) => .fail c 0 s
  | .ok (spa, lc, s) =>
  if !genOk s j spa then .fail 7 0 s
  else match unitPa s r ch j true dv with
  | .error (c, s) => .fail c 1 s
  | .ok (dpa, _, s) =>
  if !genOk s j dpa then .fail 7 1 s
  else if heldByCopy s spa || heldByCopy s dpa then .wait s
  else match refusal s (dmaAcc j true) dpa 64, unitRead s r ch j spa lc with
  | _, .inl x => x
  | some c, .inr (_, s) => .fail (unitCode c) 1 s
  | none, .inr (bs, s) => unitWrite s r ch j dpa bs

/-- R282: the next unit of the running transfer is performed, unless it fails or waits for the host. -/
def dmaPerform (s : State) (r ch : Nat) : State :=
  match (dmaChOf s r ch).run with
  | none => s
  | some j =>
    if j.len ≤ j.next then s
    else match dmaUnit s r ch j with
      | .fail _ _ _ => s
      | .wait s => s
      | .done s =>
        let c := dmaChOf s r ch
        setDmaCh s r ch { c with run := some { j with next := j.next + 1 } }

/-- R283: the next unit of the running transfer fails: every unit below it is performed, the record is written. -/
def dmaFails (s : State) (r ch : Nat) : State :=
  match (dmaChOf s r ch).run with
  | none => s
  | some j =>
    if j.len ≤ j.next then s
    else match dmaUnit s r ch j with
      | .fail code side s =>
        let c := dmaChOf s r ch
        dmaFault (setDmaCh s r ch { c with run := none }) r ch j code side
      | _ => s

/-- R280: the running transfer has performed every unit. -/
def dmaComplete (s : State) (r ch : Nat) : State :=
  let c := dmaChOf s r ch
  match c.run with
  | none => s
  | some j => if j.next < j.len then s else dmaEnds (setDmaCh s r ch { c with run := none }) r j

/-- R285: the running, or the oldest waiting, descriptor that has expired fails with code 0x08. -/
def dmaExpiry (s : State) (r ch : Nat) : State :=
  let c := dmaChOf s r ch
  match (match c.run with | some j => if dmaExpired s j && decide (j.next < j.len) then some j else none | none => none) with
  | some j => dmaFault (setDmaCh s r ch { c with run := none }) r ch j 8 0
  | none =>
    match c.waiting.find? (dmaExpired s) with
    | some j => dmaFault (setDmaCh s r ch { c with waiting := c.waiting.erase j }) r ch j 8 0
    | none => s

/-! ## Hot pages -/

/-- R291: an entry of the hot-page log. -/
def hotEntry (gi : BitVec 21) (cnt : BitVec 16) (cx : BitVec 12) (fnum : Word) : List Byte :=
  wBytes (wOf (gi.toNat + cnt.toNat * 2 ^ 32 + cx.toNat * 2 ^ 48)) ++ wBytes fnum

/-- R32, R291: the entry due for a granule is appended, or dropped at a full ring; a refused write leaves no entry, nor does a place
outside stacked memory. -/
def hotAppend (s : State) (gi : BitVec 21) : State :=
  match s.ms.hotDue.find? fun e => e.1 == gi with
  | none => s
  | some e =>
    let s := { s with ms := { s.ms with hotDue := s.ms.hotDue.erase e } }
    let size := 2 ^ s.ms.hotM.toNat
    if (s.ms.hotHead - s.ms.hotTail).toNat = size then { s with ms := { s.ms with hotDropped := s.ms.hotDropped + 1 } }
    else
      let pa := s.ms.hotBase.toNat + 16 * (s.ms.hotHead.toNat % size)
      let inStack := match paClass pa with | .stacked => true | _ => false
      let a : Acc := { write := true, serge := false, cxid := 0, calOwn := none, bar := false, die := none }
      if !inStack then s
      else match checkedWrite s a pa (hotEntry e.1 e.2.2.2 e.2.1 e.2.2.1) with
      | .ok s => raiseIrq 5 { s with ms := { s.ms with hotHead := s.ms.hotHead + 1 } }
      | .error _ => s

/-! ## Commands -/

/-- R279: a channel accepts, refuses or holds the oldest arriving submission. -/
def execDmaAccept (region : BitVec 8) (ch : BitVec 2) (s : State) : Host.Outcome State Fault Refusal :=
  onChan region s fun r s => dmaAccept s r ch.toNat

/-- R282: a channel starts its oldest waiting descriptor. -/
def execDmaStart (region : BitVec 8) (ch : BitVec 2) (s : State) : Host.Outcome State Fault Refusal :=
  onChan region s fun r s => dmaStart s r ch.toNat

/-- R282: a unit is performed. -/
def execDmaUnitPerformed (region : BitVec 8) (ch : BitVec 2) (s : State) : Host.Outcome State Fault Refusal :=
  onChan region s fun r s => dmaPerform s r ch.toNat

/-- R280: a transfer completes. -/
def execDmaTransferComplete (region : BitVec 8) (ch : BitVec 2) (s : State) : Host.Outcome State Fault Refusal :=
  onChan region s fun r s => dmaComplete s r ch.toNat

/-- R283: a unit fails. -/
def execDmaUnitFail (region : BitVec 8) (ch : BitVec 2) (s : State) : Host.Outcome State Fault Refusal :=
  onChan region s fun r s => dmaFails s r ch.toNat

/-- R285: a descriptor translated at submission expires. -/
def execDmaExpiry (region : BitVec 8) (ch : BitVec 2) (s : State) : Host.Outcome State Fault Refusal :=
  onChan region s fun r s => dmaExpiry s r ch.toNat

/-- R291: an entry is appended to the hot-page log. -/
def execHotPageLogAppend (gi : BitVec 21) (s : State) : Host.Outcome State Fault Refusal := .next (hotAppend s gi)

end Sys2Proof.Machine
end

