-- ==== Sys2Proof/Machine/Memctl.lean ====
section
/-! DEFINITION. Memory controllers (09_memory.md): queues, service order, merges, refresh, ECC, scrub, margining, repair. -/

namespace Sys2Proof.Machine

open Sys2Proof

/-- A channel serves requests: it is neither fenced nor out of service (R256, R259). -/
def inService (s : State) (c : Nat) : Bool := !(chanOf s c).fenced && !(chanOf s c).out

/-! ## Lines of DRAM -/

/-- The 64 bytes stored at a DRAM place. -/
def lineAt (s : State) (k : Nat) : List Byte := smRead 0 s.ms.mem k 64

/-- Bytes put at a DRAM place. -/
def putDram (s : State) (k : Nat) (bs : List Byte) : State := { s with ms := { s.ms with mem := smWrite 0 s.ms.mem k bs } }

/-- R254: a line stays uncorrectable until it is replaced. -/
def markBad (s : State) (k : Nat) : State :=
  if s.ms.bad.contains k then s else { s with ms := { s.ms with bad := k :: s.ms.bad } }

/-- R252, R253: a read of the array meets a further error in the line. -/
def flipLine (s : State) (k : Nat) (e : List (BitVec 32)) : State :=
  if e.isEmpty || s.ms.bad.contains k then s else setErr s k (addErrors (smGet [] s.ms.errs k) e)

/-- R253: what a read makes of the line at a DRAM place. -/
def eccAt (s : State) (k : Nat) : Ecc := if s.ms.bad.contains k then .uncorrectable else eccOf (smGet [] s.ms.errs k)

/-- R254, R255: an uncorrectable read of a channel is counted and logged. -/
def noteBadRead (s : State) (c : Nat) (cx : BitVec 12) (pa : Nat) : State :=
  logErr 0x21 3 2 c cx.toNat (wOf pa) (countUncorrectable s c)

/-! ## Training records (R257, R261; the layout: assumption 115) -/

/-- R257, R350: the 8 KiB record of a channel: serial number of its stack, a byte of 1, the failed lanes by bit, the settings of the 19
lanes, for each of the 48 banks of its ranks the row that a hard repair maps, plus 1, and zeros. -/
def recOf (c failed : Nat) (lanes : List LaneSet) (repairs : Nat → Nat) : List Byte :=
  leBytes 8 (Config.stackSerial (c / 64)).toNat ++ [1] ++ leBytes 7 failed
    ++ ((List.range 19).flatMap fun j =>
        let l := lanes.getD j LaneSet.zero
        leBytes 2 l.delay.toNat ++ [l.vref, l.drive] ++ leBytes 4 l.margins.toNat)
    ++ ((List.range 48).flatMap fun b => leBytes 2 (repairs b)) ++ List.replicate 7928 0

/-- The first n records of m bytes each. -/
def chunks : Nat → Nat → List Byte → List (List Byte)
  | 0, _, _ => []
  | n + 1, m, bs => bs.take m :: chunks n m (bs.drop m)

/-- R257: a record is intact and matches its stack. -/
def recMatches (c : Nat) (r : List Byte) : Bool :=
  decide (r.length = 8192) && r.getD 8 0 == 1 && leNat (r.take 8) == (Config.stackSerial (c / 64)).toNat

/-- The failed lanes of a record, by bit. -/
def recFailed (r : List Byte) : Nat := leNat ((r.drop 9).take 7)

/-- The lane settings of a record. -/
def recLanes (r : List Byte) : List LaneSet :=
  (List.range 19).map fun j =>
    let b := (r.drop (16 + 8 * j)).take 8
    { delay := BitVec.ofNat 16 (leNat (b.take 2)), vref := b.getD 2 0, drive := b.getD 3 0, margins := BitVec.ofNat 32 (leNat (b.drop 4)) }

/-- R261: the record of a channel holds the row that a hard repair of a bank has mapped. -/
def recRepair (recs : List (List Byte)) (c b v : Nat) : List (List Byte) :=
  recs.zipIdx.map fun e =>
    if e.2 = c ∧ recMatches c e.1 then e.1.take (168 + 2 * b) ++ leBytes 2 v ++ e.1.drop (170 + 2 * b) else e.1

/-! ## Queues -/

/-- A list put in order of a number, equal ones as they stand. -/
def insertOn {α : Type} (f : α → Nat) (x : α) : List α → List α
  | [] => [x]
  | y :: ys => if f x ≤ f y then x :: y :: ys else y :: insertOn f x ys

def sortOn {α : Type} (f : α → Nat) (l : List α) : List α := l.foldr (insertOn f) []

def lineAddr (q : MemReq) : Nat := q.pa / 64 * 64
def sameLine (a b : QReq) : Bool := a.key == b.key

/-- R245: a request is one access inside one line of stacked memory. -/
def reqFits (q : MemReq) : Bool :=
  decide (q.pa < 0x12000000000 ∧ 0 < q.len ∧ q.pa % 64 + q.len ≤ 64) &&
  (if q.write then q.data.length == q.len else q.data.isEmpty)

/-- R249: a merge of a line is pending. -/
def mergePending (ch : Chan) (k : Nat) : Bool := ch.merges.any fun m => m.key == k

/-- R249: the merges of a channel that are pending, each by its first part. -/
def mergeHeads : List QReq → List QReq
  | [] => []
  | m :: ms => m :: (mergeHeads ms).filter fun p => p.key != m.key

/-- R245: entries of the write queue in use. A pending merge holds one. -/
def writeEntries (ch : Chan) : Nat := ch.wq.length + (mergeHeads ch.merges).length

/-- R245, R249: whether a request finds its queue full. A write to the line of a pending merge takes the merge's entry. -/
def queueFull (ch : Chan) (write : Bool) (k : Nat) : Bool :=
  if write then !mergePending ch k && decide (64 ≤ writeEntries ch) else decide (64 ≤ ch.rq.length)

/-- R35, R245: the check before a queue. An uncorrectable line is found only by the read itself. -/
def reqRefused (s : State) (q : MemReq) : Bool :=
  let a : Acc := { write := q.write, serge := q.serge, cxid := q.cxid, calOwn := none, bar := false, die := none }
  match refusal s a q.pa q.len with
  | some r => r != 7
  | none => false

/-- R248, R249: a request enters its queue. A write is performed here: a whole line replaces the line and every pending merge of
it, a part is written at once and its merge stays pending. A part of an uncorrectable line waits for the merge that loses it. -/
def enterQueue (s : State) (c : Nat) (q : MemReq) : State :=
  let k := badKey s q.pa
  let s := if q.write then snapReads s k c q.pa else s
  let ch := chanOf s c
  let r := asAccepted s ch.nextSeq q
  let ch := { ch with nextSeq := ch.nextSeq + 1 }
  if !q.write then setChan s c { ch with rq := ch.rq ++ [r] }
  else if q.len = 64 then
    setChan (putDram (if s.ms.bad.contains k || !s.ms.errs.isEmpty then setErr s k [] else s) k q.data) c
      { ch with wq := ch.wq ++ [r], merges := ch.merges.filter fun m => m.key != k }
  else
    let lost := s.ms.bad.contains k
    let r := { r with
      served := mergeServed ch k
      old := if lost then [] else smRead 0 s.ms.mem (k + q.pa % 64) q.len }
    setChan (if lost then s else putDram s (k + q.pa % 64) q.data) c { ch with merges := ch.merges ++ [r] }

/-- What a controller answers to the sender of a request that it turns away or reads (R245, R253). -/
def replyTo (s : State) (q : MemReq) (line : Option (List Byte)) : State := emit s (.memAnswer q.path q.pa line)

/-- R245: requests come to their controllers in order: one whose path a held request blocks is held behind it; a refused one is
answered and takes no entry; one that finds its queue full is held. Answers the requests held. -/
def offer : List MemReq → List MemReq → State → List MemReq × State
  | held, [], s => (held, s)
  | held, q :: qs, s =>
    let c := chanIdx s.fr.ilv q.pa
    if !reqFits q then offer held qs s
    else if held.any fun h => h.path == q.path then offer (held ++ [q]) qs s
    else if reqRefused s q then offer held qs (replyTo s q none)
    else if queueFull (chanOf s c) q.write (badKey s q.pa) then offer (held ++ [q]) qs s
    else offer held qs (enterQueue s c q)

/-- R245: the requests held come again, in order, and after them the given ones. -/
def takeIn (s : State) (qs : List MemReq) : State :=
  let (held, s) := offer [] (s.ms.held ++ qs) s
  { s with ms := { s.ms with held := held } }

/-- R248: requests of one cycle in the order in which controllers accept them: deterministic ones first, then by arrival port. -/
def arrivalOrder (qs : List MemReq) : List MemReq :=
  let byPort := fun (l : List MemReq) => sortOn (fun q => q.path) l
  byPort (qs.filter fun q => q.det) ++ byPort (qs.filter fun q => !q.det)

/-- MEM_REQUEST_ACCEPT (R245, R248): the requests that arrive in one cycle. -/
def acceptRequests (s : State) (qs : List MemReq) : State := takeIn s (arrivalOrder qs)

/-! ## Service -/

def rowHit (ch : Chan) (q : QReq) : Bool := smGet 0 ch.openRows q.bank == q.row + 1

/-- R250: the bank of a request is not being refreshed. -/
def bankFree (ch : Chan) (q : QReq) : Bool := smGet 0 ch.refresh q.bank == 0

/-- R249: a write that is a part of a line waits for its merge's read. -/
def mergeRead (q : QReq) : Bool := q.req.write && q.req.len != 64

/-- R248: no earlier request for its line is ahead. A read and a merge's read take the data of an earlier write from the queue; a
line merged from several parts is as late as its last part. -/
def inLineOrder (ch : Chan) (q : QReq) : Bool :=
  mergeRead q ||
  !((ch.rq ++ ch.wq).any fun p => sameLine p q &&
      (if p.req.write then q.req.write && decide (p.seq < q.seq) else decide (p.seq < q.upto ∧ p.seq ≠ q.seq)))

/-- R248, R250: a request that may be served now. -/
def servable (ch : Chan) (q : QReq) : Bool := inLineOrder ch q && bankFree ch q

/-- R246, R249: the writes of a channel and the reads of its merges, which are queued at the class of their write, by acceptance. -/
def writeWork (ch : Chan) : List QReq :=
  sortOn (fun q => q.seq) (ch.wq ++ (mergeHeads ch.merges).filter fun m => !m.served)

/-- R246: the choice within a class: a row hit first, else the oldest. -/
def pickIn (ch : Chan) (l : List QReq) : Option QReq :=
  match l.find? (rowHit ch) with
  | some q => some q
  | none => l.head?

/-- The request accepted first. -/
def oldestReq (l : List QReq) : Option QReq :=
  l.foldl (fun o q => match o with | none => some q | some p => if q.seq < p.seq then some q else some p) none

/-- R375, R382: the slots of every eight that non-deterministic requests may use. -/
def slotLimit (s : State) (c : Nat) : Nat :=
  min s.pw.m (if smGet false s.pw.stackLimit (c / 64) then 4 else 8)

/-- R375: the slots of the last seven that non-deterministic requests have used reach the limit. -/
def slotsUsed (s : State) (c : Nat) (ch : Chan) : Bool := decide (slotLimit s c ≤ popCount 7 ch.recent.toNat)

/-- R246: a write of a batch is served; the writes left of it. The read of a merge leaves the batch as it is. -/
def ofBatch (q : Option QReq) (b : Nat) : Option QReq × Nat :=
  match q with
  | some q => (some q, if mergeRead q then b else b - 1)
  | none => (none, b)

/-- R248: the reads that earlier-accepted ones of a batch's writes must follow. -/
def blockers (ch : Chan) (reads : List QReq) : List QReq :=
  reads.filter fun q => ch.wq.any fun w => sameLine w q && decide (q.seq < w.upto)

/-- R246, R247: the request a burst slot serves, and the writes left of the batch after it. A latency-critical read that has
waited 1 µs stops every write, a batch too (R247; assumption 28). Only a deterministic request interrupts a batch (R246): while its writes
wait for the refresh of their banks or for PARTIAL_WRITE_MERGE no read goes, and while each waits behind an earlier read of its line only
such a read goes (R248; assumption 28). -/
def chooseReq (s : State) (c : Nat) (ch : Chan) : Option QReq × Nat :=
  let aged := ch.rq.filter fun q => ch.agedRead.contains q.seq
  let work := if ch.agedRead.isEmpty then writeWork ch else []
  match oldestReq ((ch.rq ++ work).filter fun q => q.req.det && servable ch q) with
  | some q => (some q, ch.batch)
  | none =>
    if slotsUsed s c ch then (none, ch.batch)
    else
      let lc := ch.rq.filter fun q => q.req.lc && !q.req.det
      let reads := ch.rq.filter fun q => !q.req.lc && !q.req.det && servable ch q
      let plain := work.filter fun q => !q.req.det
      let writes := plain.filter (servable ch)
      let size := min 16 (writeEntries ch)
      let left := if ch.agedRead.isEmpty then 0 else ch.batch
      let batch := decide (0 < ch.batch) && ch.agedRead.isEmpty && decide (writeEntries ch ≠ 0)
      if batch && (plain.any (inLineOrder ch) || ch.merges.any fun m => m.served) then ofBatch (pickIn ch writes) ch.batch
      else if batch then (pickIn ch (blockers ch (ch.rq.filter (servable ch))), ch.batch)
      else match pickIn ch (aged.filter (servable ch)) with
      | some q => (some q, ch.batch)
      | none =>
        if (decide (64 ≤ writeEntries ch) || ch.agedWrite) && !writes.isEmpty then ofBatch (pickIn ch writes) size
        else match pickIn ch (lc.filter (servable ch)) with
        | some q => (some q, left)
        | none =>
          if 16 ≤ writeEntries ch && lc.isEmpty && !writes.isEmpty then ofBatch (pickIn ch writes) size
          else (pickIn ch reads, left)

/-- R246: rows that no queued request targets are closed. -/
def closeRows (ch : Chan) : Chan :=
  let want := (ch.rq ++ ch.wq ++ ch.merges).map fun q => (q.bank, q.row)
  { ch with openRows := ch.openRows.filter fun e => want.contains (e.1, e.2 - 1) }

/-- R250, R375: a burst slot of a channel passes, used by a non-deterministic request or not. -/
def slotPasses (ch : Chan) (used : Bool) : Chan :=
  { ch with
    recent := (ch.recent <<< 1) ||| (if used then 1 else 0)
    refresh := (ch.refresh.map fun e => (e.1, e.2 - 1)).filter fun e => e.2 ≠ 0 }

/-- R248: a line as a read delivers it, with the bytes of a mask as they stand. -/
def deliveredPart (parts : Nat) (line : List Byte) (e : List (BitVec 32)) : List Byte :=
  match e with
  | [] => line
  | e => (List.range 64).map fun n => (if parts.testBit n then line else delivered line e).getD n 0

/-- R253 to R255: the read of a line from the array for a queued request: the line as it stood before a later write, with its
error; a corrected one is counted, an uncorrectable one is counted and logged. Answers the line delivered; the bytes of parts of a
pending merge come from the queue (R248). -/
def arrayRead (s : State) (c : Nat) (q : QReq) (e : List (BitVec 32)) : Option (List Byte) × State :=
  let s := if q.snap.isSome then s else flipLine s q.key e
  let (line, err) := match q.snap with
    | some (l, x) => (l, addErrors x e)
    | none => (lineAt s q.key, smGet [] s.ms.errs q.key)
  let parts := if q.snap.isSome then q.parts else partMask (chanOf s c) q.key
  match (if q.snap.isNone then eccAt s q.key else eccOf err) with
  | .clean => (some (deliveredPart parts line err), s)
  | .corrected j => (some (deliveredPart parts line err), noteCorrected s c j q.req.pa)
  | .uncorrectable => (none, noteBadRead s c q.req.cxid q.req.pa)

/-- R248: an earlier write of its line is in the write queue. -/
def supplied (ch : Chan) (q : QReq) : Bool := ch.wq.any fun p => decide (p.seq < q.seq) && sameLine p q

/-- R248, R253: a queued read is served, from the write queue or from the array, and its line delivered. -/
def serveQueued (s : State) (c : Nat) (ch : Chan) (q : QReq) (e : List (BitVec 32)) : State :=
  if supplied ch q then replyTo s q.req (some (match q.snap with | some (l, _) => l | none => lineAt s q.key))
  else
    let (line, s) := arrayRead s c q e
    replyTo s q.req line

/-- BURST_SLOT (R246): the channel serves one request. A merge's read meets the error of its line; the merge itself is
PARTIAL_WRITE_MERGE's. -/
def burstSlot (s : State) (c : Nat) (e : List (BitVec 32)) : State :=
  let ch := chanOf s c
  if !inService s c then s
  else
    let (o, batch) := chooseReq s c ch
    match o with
    | none => setChan s c { slotPasses ch false with batch := batch }
    | some q =>
      let gone : QReq → Bool := fun p => p.seq == q.seq
      let rest := ch.wq.filter fun p => !gone p
      let ch' := closeRows
        { slotPasses ch (!q.req.det) with
          rq := ch.rq.filter fun p => !gone p
          wq := rest
          merges := ch.merges.map fun m => if mergeRead q && sameLine m q then { m with served := true } else m
          batch := if rest.isEmpty && ch.merges.isEmpty then 0 else batch
          agedRead := ch.agedRead.filter fun n => n != q.seq
          agedWrite := ch.agedWrite && !((oldestReq (ch.wq ++ ch.merges)).any gone && !mergeRead q)
          openRows := smSet 0 ch.openRows q.bank (q.row + 1) }
      let s := setChan s c ch'
      let s := if mergeRead q then (if supplied ch q then s else flipLine s q.key e)
               else if q.req.write then s else serveQueued s c ch q e
      takeIn s []

/-! ## Merges -/

/-- R254: a part of an uncorrectable line is discarded, counted and logged. -/
def losePartial (s : State) (c : Nat) (q : QReq) : State :=
  logErr 0x23 3 2 c q.req.cxid.toNat (wOf q.req.pa) { s with ms := { s.ms with lostPartial := s.ms.lostPartial + 1 } }

/-- Takes back writes that were joined to a merge, the newest first. -/
def undoPartials (s : State) (l : List QReq) : State :=
  l.reverse.foldl (fun s q => putDram s (q.key + q.req.pa % 64) q.old) s

/-- R249: the merge whose read came back first. -/
def readyMerge (ch : Chan) : Option QReq := ch.merges.find? fun m => m.served

/-- R249: a queue with an entry at its place of acceptance. -/
def insertWrite (l : List QReq) (w : QReq) : List QReq :=
  (l.filter fun p => decide (p.seq < w.seq)) ++ [w] ++ l.filter fun p => decide (w.seq < p.seq)

/-- R249, R254: the parts of a merge with the line that its read found: one whole write at the place of the first part, or, when the
line cannot be corrected, the parts lost and the line unchanged; the age of the oldest write goes with it (R246). -/
def endMerge (s : State) (c : Nat) (q : QReq) : State :=
  let ch := chanOf s c
  let group := ch.merges.filter fun m => sameLine m q
  let k := q.key
  let oldest := (oldestReq (ch.wq ++ ch.merges)).any fun m => mergeRead m && sameLine m q
  let s := setChan s c { ch with merges := ch.merges.filter fun m => !sameLine m q }
  if eccAt s k = .uncorrectable then
    let s := setChan s c { chanOf s c with agedWrite := ch.agedWrite && !oldest }
    let s := markBad (undoPartials (noteBadRead s c q.req.cxid q.req.pa) group) k
    group.foldl (fun s m => losePartial s c m) s
  else
    let s := match eccAt s k with | .corrected j => noteCorrected s c j q.req.pa | _ => s
    let kept := fun (n : Nat) => group.any fun m => decide (m.req.pa % 64 ≤ n ∧ n < m.req.pa % 64 + m.req.len)
    let now := lineAt s k
    let read := delivered now (smGet [] s.ms.errs k)
    let line := if s.ms.errs.isEmpty then now else (List.range 64).map fun n => if kept n then now.getD n 0 else read.getD n 0
    let s := putDram (if s.ms.errs.isEmpty then s else setErr s k []) k line
    let last := group.foldl (fun a m => max a m.seq) 0
    let w : QReq := { q with
      req := { q.req with pa := lineAddr q.req, len := 64, data := line }, upto := last, old := [], served := true }
    let ch := chanOf s c
    setChan s c { ch with wq := insertWrite ch.wq w }

/-- PARTIAL_WRITE_MERGE (R249, R254): the read of a merge, which a burst slot has served, returns: the line is joined with every
pending part of it and queued as a whole write. -/
def mergeLine (s : State) (c : Nat) (e : List (BitVec 32)) : State :=
  match readyMerge (chanOf s c) with
  | none => s
  | some q => if !inService s c then s else takeIn (endMerge (flipLine s q.key e) c q) []

/-! ## Scrub -/

/-- Physical address that names stack-local address a of stack k (R241). -/
def paOfLocal (glob : Bool) (k a : Nat) : Nat :=
  if glob then a / 4096 * 65536 + k * 4096 + a % 4096
  else k / 2 * 0x2400000000 + a / 4096 * 8192 + k % 2 * 4096 + a % 4096

/-- Stack-local address of line n of a channel (R242). -/
def localOfLine (ch n : Nat) : Nat :=
  let o := 64 * n
  o % 256 + ch % 16 * 256 + o / 256 % 512 * 4096 + ch % 64 / 16 * 0x200000 + o / 256 / 512 * 0x800000

/-- DRAM place of line n of a channel. -/
def lineKey (c n : Nat) : Nat := c / 64 * 0x1200000000 + localOfLine c n

/-- R255: no request wants the slot, and the limit of R375 leaves it. -/
def slotIdle (s : State) (c : Nat) : Bool :=
  let ch := chanOf s c
  (chooseReq s c ch).1.isNone && !slotsUsed s c ch

/-- PATROL_SCRUB (R255): a line is read in a slot that no request wants; a corrected one is written back unless a write of it is
queued. -/
def scrubLine (s : State) (c n : Nat) (e : List (BitVec 32)) : State :=
  let k := lineKey c n
  let pa := paOfLocal s.fr.ilv (c / 64) (localOfLine c n)
  let (rank, bank, _) := rankBankRow (64 * n)
  if !inService s c || s.ms.scrubHours = 0 || decide (18874368 ≤ n) || !slotIdle s c
    || smGet 0 (chanOf s c).refresh (16 * rank + bank) != 0 then s
  else
    let s := setChan s c (slotPasses (chanOf s c) true)
    let s := flipLine s k e
    match eccAt s k with
    | .clean => s
    | .uncorrectable => logErr 0x22 3 2 c 0 (wOf pa) (countUncorrectable s c)
    | .corrected j =>
      let line := delivered (lineAt s k) (smGet [] s.ms.errs k)
      let s := trace 6 c (noteCorrected s c j pa)
      let ch := chanOf s c
      if (ch.wq ++ ch.merges).any fun q => q.key == k then s else setErr (putDram s k line) k []

/-! ## Margining and repair -/

/-- R45: an accepted frame table waits for its tick. -/
def tablePending (s : State) : Bool :=
  let t := fun (o : Option (Option FrameTable)) => match o with | some (some _) => true | _ => false
  t s.fr.ftPend || t s.fr.ftPend2

/-- R259, R365: no frame table is in effect and none is pending. -/
def noTable (s : State) : Bool := s.fr.ft.isNone && !tablePending s

/-- Whether a margining sweep, a repair or a self-test runs. -/
def serviceBusy (s : State) : Bool := s.ms.margining.isSome || s.ms.repair.isSome || s.rel.stRec.isSome

/-- Takes channels out of service, or back (R259). -/
def setOut (s : State) (cs : List Nat) (out : Bool) : State := cs.foldl (fun s c => setChan s c { chanOf s c with out := out }) s

/-- R259: channels of a margining command. -/
def marginChans (rec : Word) : List Nat :=
  if wBit rec 12 then (List.range 64).map fun c => 64 * wBits rec 3 0 + c else [64 * wBits rec 3 0 + wBits rec 9 4]

/-- MARGINING_COMMAND (R259). A command while another of these runs is refused by state too (assumption 29). -/
def marginAccept (rec : Word) (s : State) : Except Nat State :=
  if !noTable s || serviceBusy s then .error 7
  else .ok (setOut { s with ms := { s.ms with margining := some rec } } (marginChans rec) true)

/-- R256, R259: whether a lane of a channel, 0 to 18, is in use: the spare lane 18 stands for the lane whose bits it carries. -/
def laneInUse (ch : Chan) (j : Nat) : Bool :=
  match ch.spareLane with
  | some f => j != f
  | none => j != 18

/-- R259: the report of a sweep: for each channel and lane the low and the high margin as measured, whether the lane is in use, and
the margin kind, a byte each (the layout: assumption 115). -/
def marginReportOf (s : State) (rec : Word) (m : List (BitVec 8 × BitVec 8)) : List Byte :=
  (m.zipIdx).flatMap fun e => match (marginChans rec)[e.2 / 19]? with
    | some c => [e.1.1, e.1.2, BitVec.ofNat 8 (b2n (laneInUse (chanOf s c) (e.2 % 19))), BitVec.ofNat 8 (wBits rec 11 10)]
    | none => []

/-- MARGINING_COMPLETE (R259). -/
def marginDone (s : State) (m : List (BitVec 8 × BitVec 8)) : State :=
  match s.ms.margining with
  | none => s
  | some rec =>
    setOut { s with ms := { s.ms with margining := none, marginReport := marginReportOf s rec m } } (marginChans rec) false

/-- R260: the channel of a repair command. -/
def repairChan (rec : Word) : Nat := 64 * wBits rec 3 0 + wBits rec 9 4

/-- Number of a bank of a channel's ranks, for the repair rows (R260). -/
def repairKey (rec : Word) : Nat := (repairChan rec * 3 + wBits rec 11 10) * 16 + wBits rec 15 12

/-- REPAIR_COMMAND (R260). -/
def repairAccept (rec : Word) (s : State) : Except Nat State :=
  let used := if wBit rec 30 then s.ms.repairsHard else s.ms.repairsSoft
  if !noTable s || serviceBusy s then .error 7
  else if wBits rec 11 10 = 3 ∨ 12288 ≤ wBits rec 29 16 ∨ smGet 0 used (repairKey rec) ≠ 0 then .error 6
  else .ok (setOut { s with ms := { s.ms with repair := some rec } } [repairChan rec] true)

/-- R242: the first of the 32 lines of a row of a bank (R242 numbers a bank after the XOR with the row's low bits). -/
def rowLine (rank bank row : Nat) : Nat := (rank * 402653184 + row * 32768 + Nat.xor bank (row % 16) * 2048) / 64

/-- R261: a line of the row is read with correction and written; an uncorrectable one keeps its stored and check bits. -/
def repairLine (c : Nat) (s : State) (n : Nat) : State :=
  let k := lineKey c n
  let pa := paOfLocal s.fr.ilv (c / 64) (localOfLine c n)
  match eccAt s k with
  | .clean => s
  | .uncorrectable => noteBadRead s c 0 pa
  | .corrected j => setErr (putDram (noteCorrected s c j pa) k (delivered (lineAt s k) (smGet [] s.ms.errs k))) k []

/-- REPAIR_COMPLETE (R260, R261): the row's lines are read, the row is mapped, a hard repair goes into the training record. -/
def repairDone (s : State) : State :=
  match s.ms.repair with
  | none => s
  | some rec =>
    let k := repairKey rec
    let c := repairChan rec
    let row := wBits rec 29 16
    let first := rowLine (wBits rec 11 10) (wBits rec 15 12) row
    let s := if s.ms.errs.isEmpty && s.ms.bad.isEmpty then s
             else (List.range 32).foldl (fun s j => repairLine c s (first + j)) s
    let hard := wBit rec 30
    let ms := { s.ms with
      repair := none
      repairsHard := if hard then smSet 0 s.ms.repairsHard k (row + 1) else s.ms.repairsHard
      repairsSoft := if hard then s.ms.repairsSoft else smSet 0 s.ms.repairsSoft k (row + 1)
      trainRecs := if hard then recRepair s.ms.trainRecs c (k % 48) (row + 1) else s.ms.trainRecs }
    let s := if hard then flashQueue (.trainRecs ms.trainRecs) s else s
    setOut { s with ms := ms } [c] false

/-! ## The commands -/

/-- MEM_REQUEST_ACCEPT (R245). -/
def execMemRequestAccept (reqs : List MemReq) (s : State) : Host.Outcome State Fault Refusal := .next (acceptRequests s reqs)

/-- BURST_SLOT (R246). -/
def execBurstSlot (chan : BitVec 10) (flips : List (BitVec 32)) (s : State) : Host.Outcome State Fault Refusal :=
  .next (burstSlot s chan.toNat flips)

/-- PARTIAL_WRITE_MERGE (R249). -/
def execPartialWriteMerge (chan : BitVec 10) (flips : List (BitVec 32)) (s : State) : Host.Outcome State Fault Refusal :=
  .next (mergeLine s chan.toNat flips)

/-- R247: the latency-critical reads of a channel that wait, oldest first. -/
def lcReads (ch : Chan) : List QReq := ch.rq.filter fun q => q.req.lc && !q.req.det && !ch.agedRead.contains q.seq

/-- LC_READ_AGE_LIMIT (R247): the oldest latency-critical read that has not reached it has waited 1 µs. -/
def execLcReadAgeLimit (chan : BitVec 10) (s : State) : Host.Outcome State Fault Refusal :=
  let ch := chanOf s chan.toNat
  .next (setChan s chan.toNat { ch with agedRead := ch.agedRead ++ ((lcReads ch).take 1).map fun q => q.seq })

/-- WRITE_AGE_LIMIT (R246): the oldest write has waited 1 µs. -/
def execWriteAgeLimit (chan : BitVec 10) (s : State) : Host.Outcome State Fault Refusal :=
  let ch := chanOf s chan.toNat
  .next (setChan s chan.toNat { ch with agedWrite := ch.agedWrite || !ch.wq.isEmpty || !ch.merges.isEmpty })

/-- REFRESH (R250): the bank's row is closed; the bank is unavailable for 60 ns, 24 burst slots of 2.5 ns. -/
def execMemRefresh (chan : BitVec 10) (bank : BitVec 6) (s : State) : Host.Outcome State Fault Refusal :=
  let ch := chanOf s chan.toNat
  .next (if 48 ≤ bank.toNat then s
    else setChan s chan.toNat { ch with
      openRows := smSet 0 ch.openRows bank.toNat 0, refresh := smSet 0 ch.refresh bank.toNat 24 })

/-- PATROL_SCRUB (R255). -/
def execPatrolScrub (chan : BitVec 10) (line : Nat) (flips : List (BitVec 32)) (s : State) :
    Host.Outcome State Fault Refusal := .next (scrubLine s chan.toNat line flips)

/-- MARGINING_COMPLETE (R259). -/
def execMarginingComplete (margins : List (BitVec 8 × BitVec 8)) (s : State) : Host.Outcome State Fault Refusal :=
  .next (marginDone s margins)

/-- REPAIR_COMPLETE (R261). -/
def execRepairComplete (s : State) : Host.Outcome State Fault Refusal := .next (repairDone s)

end Sys2Proof.Machine
end

