-- ==== Sys2Proof/Machine/Messages.lean ====
section
/-! DEFINITION. Dictionary messages and the four paths they take (13_dictionary.md, R340, R353, R358, R360): answers, and what
a tick-latched write answers. -/

namespace Sys2Proof.Machine

open Sys2Proof

/-- The order of the paths (R344). -/
def pathNo : Path → Nat
  | .firmware => 0
  | .mailbox => 1
  | .twill _ => 2
  | .zdp => 3
  | .can _ => 3
  | .away .firmware _ => 0
  | .away .mailbox _ => 1
  | .away .zdp _ => 3

/-- R338: the state a path acts with is the Serge world. -/
def pathSerge : Path → Bool
  | .firmware => true
  | .mailbox => false
  | .zdp => false
  | .twill srg => srg
  | .can _ => false
  | .away _ _ => false

/-- R340: the most data bytes of a message on a path; the firmware's own access has no message limit. -/
def pathLimit : Path → Nat
  | .firmware => 2 ^ 32
  | .mailbox => 2016
  | .twill _ => 248
  | .zdp => 56
  | .can _ => 56
  | .away _ _ => 248

/-- R340: a message. -/
def message (cmd : Nat) (t last : Bool) (idx : BitVec 16) (sub tag : BitVec 8) (data : List Byte) : List Byte :=
  leBytes 1 cmd ++ leBytes 1 (b2n t + 2 * b2n last) ++ leBytes 2 (data.length % 65536) ++ leBytes 2 idx.toNat
    ++ leBytes 1 sub.toNat ++ leBytes 1 tag.toNat ++ data

/-- R353: data lengths of CAN FD frames. -/
def canLength (n : Nat) : Nat :=
  if n ≤ 8 then n else if n ≤ 12 then 12 else if n ≤ 16 then 16 else if n ≤ 20 then 20 else if n ≤ 24 then 24
  else if n ≤ 32 then 32 else if n ≤ 48 then 48 else 64

/-- R353: pads a payload with zeros to a CAN FD length. -/
def canPad (bs : List Byte) : List Byte := bs ++ List.replicate (canLength bs.length - bs.length) 0

/-- R352, R353: the device sends a frame of a function, with ESI while it is error passive. -/
def canSend (fn : Nat) (bs : List Byte) (s : State) : State :=
  emit s (.zdp (BitVec.ofNat 11 (fn * 128 + s.dict.nodeUse.toNat)) (s.dict.canSt == 1) (canPad bs))

/-- R352, R361: a ZDP count of object 0x1012 rises. -/
def zdpCount (n : Nat) (s : State) : State := { s with dict := { s.dict with zdp := smSet 0 s.dict.zdp n (sat32 (smGet 0 s.dict.zdp n)) } }

/-- R355: a ZDP response enters the transmit queue of 32, or is dropped and counted. -/
def canRespond (bs : List Byte) (s : State) : State :=
  if 32 ≤ s.dict.canTx.length then zdpCount 4 s else { s with dict := { s.dict with canTx := s.dict.canTx ++ [bs] } }

/-- R352, R355: the bus takes the oldest response; a node that is bus-off sends nothing. -/
def canDrain (s : State) : State :=
  match s.dict.canTx with
  | [] => s
  | bs :: rest => if s.dict.canSt = 2 then s else canSend 0xC bs { s with dict := { s.dict with canTx := rest } }

/-- R358: a message is put into the response area, which sets DONE. -/
def mailboxPost (bs : List Byte) (s : State) : State :=
  let h := hostNow s
  raiseIrq 4 { s with host := { h with mbRsp := smWrite 0 h.mbRsp 0 bs, mbDone := true, nowDone := true } }

/-- R358: the response area receives a message; a response that a reset of the link has orphaned is discarded (R359). -/
def mailboxAnswer (bs : List Byte) (s : State) : State :=
  if !s.host.mbBusy then s else mailboxPost bs { s with host := { s.host with mbBusy := false } }

/-- R360: a message leaves for another package. -/
def managementSend (dst : Nat) (bs : List Byte) (s : State) : State :=
  let lines := (bs.length + 63) / 64
  let f : FlitInfo := { typ := 6, vc := 3, dst := dst, addr := 0, slti := 0, tag := 0, nl := lines - 1, cxid := 0,
                        status := 0, w := true, ttl := 16, src := s.tw.id.toNat }
  match routeOf s dst with
  | some k => sendOn s k ⟨mkHeader f, bs, none⟩
  | none => s

/-- R360: a message goes to a client of this hub. -/
def toClient (c : HubClient) (bs : List Byte) (s : State) : State :=
  match c with
  | .firmware => emit s (.dictRsp 0 bs)
  | .mailbox => mailboxAnswer bs s
  | .zdp => canRespond bs s

/-- An answer goes back by the path of its request. -/
def sendAnswer (q : DReq) (bs : List Byte) (s : State) : State :=
  if q.dead then s else
  match q.src with
  | some d => managementSend d.toNat bs s
  | none =>
    match q.path with
    | .mailbox => mailboxAnswer bs s
    | .zdp => canRespond bs s
    | .can _ => canRespond bs s
    | .away c _ => toClient c bs s
    | p => emit s (.dictRsp (pathNo p) bs)

/-- R341: a response. -/
def answerReq (q : DReq) (cmd : Nat) (t last : Bool) (data : List Byte) (s : State) : State :=
  sendAnswer q (message cmd t last q.idx q.sub q.tag data) s

/-- R343: an abort. -/
def abortReq (q : DReq) (code : Nat) (s : State) : State := answerReq q 0x7F false false (leBytes 4 code) s

/-- R346: the frame whose tick applies a value accepted now. -/
def tlFrame (s : State) : Nat := if !s.fr.ticked then 0 else s.fr.fnum.toNat + (if s.fr.inGap then 2 else 1)

/-- R341: a write, or a committed domain write, is answered; one to a tick-latched object with the frame. -/
def writeDone (q : DReq) (tl : Bool) (s : State) : State :=
  let data := if tl then leBytes 8 (tlFrame s) else []
  if q.cmd = 0x32 ∨ q.cmd = 0xF0 then answerReq q 0x33 q.t true data s else answerReq q 0x21 false false data s

/-- R6: a value waits for its tick; a later one for the same object replaces it. -/
def tickLatch (idx sub : Nat) (v : Word) (s : State) : State :=
  let i := BitVec.ofNat 16 idx
  let j := BitVec.ofNat 8 sub
  let put := fun (l : List TlWrite) => (l.filter fun w => w.idx != i || w.sub != j) ++ [⟨i, j, v⟩]
  if s.fr.inGap then { s with fr := { s.fr with tl2 := put s.fr.tl2 } } else { s with fr := { s.fr with tl := put s.fr.tl } }

end Sys2Proof.Machine
end

