-- ==== Sys2Proof/Machine/System.lean ====
section
/-! DEFINITION. The SYS triggers of a tile, handler tables, interrupts, windows, flushes and the end of the program (03_tile_isa.md, 04_pipeline_caches.md, 08_exceptions.md). -/

namespace Sys2Proof.Machine

open Sys2Proof

/-- R52: ends the frame program. -/
def execSysFend (lti : BitVec 14) (x : Word) (sg : BitVec 8) (s : State) : Host.Outcome State Fault Refusal :=
  onTile lti s fun i s => issueOne s i 0x3D0 x sg

/-- R376: a power hint. -/
def execSysPhint (lti : BitVec 14) (x : Word) (sg : BitVec 8) (s : State) : Host.Outcome State Fault Refusal :=
  onTile lti s fun i s => issueOne s i 0x3D1 x sg

/-- R117: a cache invalidation. -/
def execSysCinv (lti : BitVec 14) (x : Word) (sg : BitVec 8) (s : State) : Host.Outcome State Fault Refusal :=
  onTile lti s fun i s => issueOne s i 0x3D2 x sg

/-- R123: closes the patch window for stores and starts the flush. -/
def execSysIcflush (lti : BitVec 14) (x : Word) (sg : BitVec 8) (s : State) : Host.Outcome State Fault Refusal :=
  onTile lti s fun i s => issueOne s i 0x3D3 x sg

/-- R122: opens a patch window. -/
def execSysIcpatch (lti : BitVec 14) (x : Word) (sg : BitVec 8) (s : State) : Host.Outcome State Fault Refusal :=
  onTile lti s fun i s => issueOne s i 0x3D4 x sg

/-- R236: returns from the current handler, or is refused (R237). -/
def execSysXret (lti : BitVec 14) (x : Word) (sg : BitVec 8) (s : State) : Host.Outcome State Fault Refusal :=
  onTile lti s fun i s => issueOne s i 0x3D5 x sg

/-- R231: opens or closes a non-interruptible window. -/
def execSysNi (lti : BitVec 14) (x : Word) (sg : BitVec 8) (s : State) : Host.Outcome State Fault Refusal :=
  onTile lti s fun i s => issueOne s i 0x3D6 x sg

/-- R224: a software trap. -/
def execSysTrap (lti : BitVec 14) (x : Word) (sg : BitVec 8) (s : State) : Host.Outcome State Fault Refusal :=
  onTile lti s fun i s => issueOne s i 0x3D7 x sg

/-- R275: asks for a shootdown. -/
def execSysTlbs (lti : BitVec 14) (x : Word) (sg : BitVec 8) (s : State) : Host.Outcome State Fault Refusal :=
  onTile lti s fun i s => issueOne s i 0x3E0 x sg

/-- R334: raises an MSI-X vector. -/
def execSysHostirq (lti : BitVec 14) (x : Word) (sg : BitVec 8) (s : State) : Host.Outcome State Fault Refusal :=
  onTile lti s fun i s => issueOne s i 0x3E1 x sg

/-- R115: writes SYS.ccfg. -/
def execSysCcfgWrite (lti : BitVec 14) (x : Word) (sg : BitVec 8) (s : State) : Host.Outcome State Fault Refusal :=
  onTile lti s fun i s => issueOne s i 0x3CC x sg

/-- R221: a move to XTB.M or XTB.S. -/
def execXtbWrite (lti : BitVec 14) (serge : Bool) (x : Word) (sg : BitVec 8) (s : State) : Host.Outcome State Fault Refusal :=
  onTile lti s fun i s => issueOne s i (if serge then 0x3CE else 0x3CD) x sg

/-- R52: nothing that the program triggered is left: R278's transfers are not waited for, their acceptance is. -/
def drained (s : State) (i : Nat) : Bool :=
  let t := tileOf s i
  let b := bankOf t
  t.sb.isEmpty && t.handed.isEmpty && t.loads.isEmpty && t.fences.isEmpty && t.hostirqs.isEmpty && t.vx.queue.isEmpty
    && t.mx.queue.isEmpty && t.cv.queue.isEmpty && (t.mesh.out.all fun o => !o.live) && t.cache.invalidating.isEmpty
    && t.cache.flushing.isEmpty && b.div.isNone && b.mulp.isEmpty && t.exc.latchPendM.isNone && t.exc.latchPendS.isNone
    && (regionOf s (i / 64)).chans.all fun c => c.2.arriving.all fun j => j.lti != i

/-- R52: asynchronous faults still pending at the end are logged, not taken. -/
def logPending (s : State) (i : Nat) : State :=
  (tileOf s i).asyncs.foldl (fun s a => logErr 0x0B 3 0 i a.vec.toNat a.fa s) (modTile s i fun t => { t with asyncs := [] })

/-- R52, R60: the tile records its end cycle and idles; the frame ends the count of overruns. -/
def frameEnd (s : State) (i : Nat) : State :=
  if (tileOf s i).run != .draining || !drained s i then s
  else
    let s := logPending s i
    let s := modTile s i fun t => { t with run := .ended, endCyc := s.fr.fcyc }
    trace 0 i { s with fr := { s.fr with ovr := smSet 0 s.fr.ovr i 0 } }

/-- R52: after the frame end every earlier operation has completed. -/
def execFrameEndDrained (lti : BitVec 14) (s : State) : Host.Outcome State Fault Refusal :=
  onTile lti s fun i s => frameEnd s i

/-- R117: the oldest invalidation completes. -/
def cinvDone (s : State) (i : Nat) : State :=
  match (tileOf s i).cache.invalidating with
  | [] => s
  | (sel, wid) :: rest =>
    opDone (modTile s i fun t => { t with cache := { dropCaches t.cache sel with invalidating := rest } }) i wid

/-- R117: a cache invalidation completes. -/
def execCacheInvalidateComplete (lti : BitVec 14) (s : State) : Host.Outcome State Fault Refusal :=
  onTile lti s fun i s => cinvDone s i

/-- R123 steps 2 to 5: stores issued before the trigger are performed, the instruction side is invalidated, the window
closes for fetch, the signal fires. A window opened while a flush without one is in progress closes with it (DESIGN CHOICE, assumption
132). -/
def flushDone (s : State) (i : Nat) : State :=
  match (tileOf s i).cache.flushing with
  | [] => s
  | (wid, seq) :: rest =>
    if (tileOf s i).sb.any fun e => e.kind == .store && decide (e.seq < seq) then s
    else
      let s := ((tileOf s i).handed.filter fun e => decide (e.seq < seq)).foldl (fun s e => performStore s i e) s
      opDone (modTile s i fun t => { t with cache := { t.cache with
        ilines := []
        vlines := t.cache.vlines.filter fun v => !v.code
        loopBuf := []
        pred := []
        patch := none
        patchStores := false
        flushing := rest } }) i wid

/-- R123: the instruction-side flush completes. -/
def execIcflushComplete (lti : BitVec 14) (s : State) : Host.Outcome State Fault Refusal :=
  onTile lti s fun i s => flushDone s i

/-- R231: the window runs out: SYS.niovr.OVR, the log, and the interrupts that then qualify. -/
def windowExpires (s : State) (i : Nat) : State :=
  let t := tileOf s i
  if t.exc.niOpen.isNone then s
  else
    let s := logErr 7 0 0 i t.exc.niwin.toNat (wOf t.pc) s
    takeInt (modExc s i fun e => { e with niOpen := none, niOvr := true }) i

/-- R231: a non-interruptible window runs out. -/
def execNiWindowExpire (lti : BitVec 14) (s : State) : Host.Outcome State Fault Refusal :=
  onTile lti s fun i s => windowExpires s i

/-- An access reaches, or may reach, the host window. -/
def mayReachHost (e : SbEntry) : Bool :=
  e.kind == .store && (e.tr == .walking ||
    (pieces e.tr e.data.length).any fun p => match paClass p.1 with | .hostWin _ => true | _ => false)

/-- R334: the oldest host interrupt leaves once the tile's earlier stores to the host window are performed. -/
def hostirqLeaves (s : State) (i : Nat) : State :=
  let t := tileOf s i
  match t.hostirqs with
  | [] => s
  | (v, seq, wid) :: rest =>
    if (t.sb ++ t.handed).any fun e => mayReachHost e && decide (e.seq < seq) then s
    else opDone (raiseIrq v.toNat (setTile s i { t with hostirqs := rest })) i wid

/-- R334: the tile's MSI-X message leaves the package. -/
def execHostirqSent (lti : BitVec 14) (s : State) : Host.Outcome State Fault Refusal :=
  onTile lti s fun i s => hostirqLeaves s i

/-- R221: the lines of a handler table: physical addresses, or a fault. -/
def tableLines (s : State) (i : Nat) (srg : Bool) (base : Nat) : Option (List Nat) × State :=
  (List.range 8).foldl (fun (acc : Option (List Nat) × State) k =>
    match acc.1 with
    | none => acc
    | some l =>
      let va := base + 64 * k
      if 2 ^ 52 ≤ va then (none, acc.2)
      else match fillTlb acc.2 i srg false va with
        | (none, s) => (none, s)
        | (some e, s) => (if (leafCheck e true .load false).isSome then none else some (l ++ [tlbPa e va]), s)) (some [], s)

/-- R34, R35: one line of a table: refused, in host memory, or read. -/
def tableLine (s : State) (i : Nat) (srg : Bool) (pa : Nat) : Option (List Byte) :=
  match checkedRead s (accOf s i srg false false) pa 64 with
  | .ok bs => some bs
  | .error _ => none

/-- R331: the answers of the host to the lines of a table that lie in host memory. -/
def hostLines (s : State) (key : Nat × Nat) : List HostReq := s.host.reqs.filter fun r => r.lti == some key

/-- All lines of a table, host lines from their answers in order. -/
def tableBytes (s : State) (i : Nat) (srg : Bool) : List Nat → List HostReq → Option (List Byte)
  | [], _ => some []
  | pa :: pas, rs =>
    match paClass pa, rs with
    | .hostWin _, r :: rs =>
      (match r.done, tableBytes s i srg pas rs with
       | some (true, bs), some rest => some (bs ++ rest)
       | _, _ => none)
    | .hostWin _, [] => none
    | _, rs =>
      (match tableLine s i srg pa, tableBytes s i srg pas rs with
       | some bs, some rest => some (bs ++ rest)
       | _, _ => none)

/-- R221: the vector latch of a world changes: 64 entries of a table, or all invalid. -/
def setLatch (s : State) (i : Nat) (srg : Bool) (bs : List Byte) (wid : Nat) : State :=
  let l := (List.range 64).foldl (fun m k => smSet 0 m k (fw bs (8 * k))) []
  opDone (modExc s i fun e =>
    if srg then { e with latchS := l, latchPendS := none, latchedS := true } else { e with latchM := l, latchPendM := none }) i wid

/-- R221: a handler-table read that is under way ends; one that reads host memory waits for the answers. -/
def tableLatched (s : State) (i : Nat) (srg : Bool) : State :=
  match (if srg then (tileOf s i).exc.latchPendS else (tileOf s i).exc.latchPendM) with
  | none => s
  | some (x, wid) =>
    let base := x.toNat / 64 * 64
    let key := (i, 2 ^ 40 + wid)
    let fault := fun s => setLatch (logErr 9 3 0 i (b2n srg) (wOf base) s) i srg [] wid
    match tableLines s i srg base with
    | (none, s) => fault s
    | (some pas, s) =>
      let rs := hostLines s key
      if rs.isEmpty && pas.any isHostPa then
        pas.foldl (fun s pa => match paClass pa with
          | .hostWin x => hostReadOut (cxidOf s srg) (some key) none x 64 s
          | _ => s) s
      else if rs.any fun r => r.done.isNone then s
      else
        let s' := { s with host := { s.host with reqs := s.host.reqs.filter fun r => r.lti != some key } }
        match tableBytes s i srg pas rs with
        | some bs => setLatch (pas.foldl (fun s pa => noteReads s pa 64) s') i srg bs wid
        | none => fault s'

/-- R221: a handler-table read completes. -/
def execHandlerTableLatched (lti : BitVec 14) (serge : Bool) (s : State) : Host.Outcome State Fault Refusal :=
  onTile lti s fun i s => tableLatched s i serge

/-- R225: the interrupt that qualifies is taken. -/
def execInterruptEntry (lti : BitVec 14) (s : State) : Host.Outcome State Fault Refusal :=
  onTile lti s fun i s => takeInt s i

/-- R223: hub firmware requests service of a tile: interrupt 34 of the Serge world. -/
def execServiceRequest (lti : BitVec 14) (code : BitVec 8) (s : State) : Host.Outcome State Fault Refusal :=
  onTile lti s fun i s => raiseInt s i true 34 code.toNat 0

/-- R129: a refused request is counted and logged, and the fault is pending. -/
def overloadFault (s : State) (i seq wid cls : Nat) (a : Word) : State :=
  let s := logErr 8 3 0 i cls a { s with rel := { s.rel with overloads := s.rel.overloads + 1 } }
  addAsync (endFences (opLost (dropSeq s i seq) i wid) i) i ⟨13, 0, a, seq⟩

/-- R129, R301: the oldest request of the tile that met a limit is refused. -/
def findOverload (s : State) (i : Nat) : State :=
  let t := tileOf s i
  match t.loads.find? fun l => l.overload with
  | some l => overloadFault s i l.seq l.wid l.overAt (wOf l.va)
  | none => match t.sb.find? fun e => e.overload with
    | some e =>
      if e.kind == .store then overloadFault s i e.seq e.wid e.overAt (wOf e.va)
      else overloadFault s i e.seq e.wid 4 (wOf (meshSource (e.kind == .put) e.x).1)
    | none =>
      if t.fetchWalk && t.fetchOver then
        overloadFault (setTile s i { t with fetchWalk := false, fetchOver := false, nextSeq := t.nextSeq + 1 }) i t.nextSeq 0 2 (wOf t.pc)
      else s

/-- R129: the deterministic-overload fault is taken when the result was due. -/
def overload (s : State) (i : Nat) : State :=
  let s := if (tileOf s i).asyncs.any fun a => a.vec == 13 then s else findOverload s i
  takeAsyncOf (fun a => a.vec == 13) s i

/-- R129: the deterministic-overload fault is taken, or logged after the frame end (R52). -/
def execDeterministicOverload (lti : BitVec 14) (s : State) : Host.Outcome State Fault Refusal :=
  onTile lti s fun i s => overload s i

end Sys2Proof.Machine
end

