-- ==== Sys2Proof/Machine/Frames.lean ====
section
/-! DEFINITION. Frame tables, the tick gap and the tick (02_frames.md, with what other chapters bind to them). -/

namespace Sys2Proof.Machine

open Sys2Proof

/-! ## Frame tables -/

/-- R45: bytes of a frame table. -/
def tableSize : Nat := 0x50240

/-- A byte the hub reads of a table; the manual states no result of an uncorrectable line here: a free value (assumption 7). -/
def hubByte (s : State) (pa : Nat) : Byte :=
  if s.ms.bad.contains (badKey s pa) then BitVec.ofNat 8 (freeAt s (pa % 2 ^ 20)).toNat else readByte s pa

/-- n bytes of a table as a number. -/
def hubNat (s : State) (pa n : Nat) : Nat := leNat ((List.range n).map fun j => hubByte s (pa + j))

/-- R47: an entry. -/
def parseEntry (x : Nat) : FtEntry :=
  { en := x.testBit 0, det := x.testBit 1, wl := BitVec.ofNat 2 (bitsOf x 3 2), entry := bitsOf x 63 12,
    work := bitsOf x 95 64, rsv := bitsOf x 127 96, acc := bitsOf x 159 128, tsin := BitVec.ofNat 48 (bitsOf x 239 192) }

/-- R48: an input range. -/
def parseInput (x : Nat) : FtInput :=
  { base := bitsOf x 27 0 * 65536, len := bitsOf x 63 32, p2 := BitVec.ofNat 2 (bitsOf x 65 64), ph := BitVec.ofNat 3 (bitsOf x 68 66) }

/-- R56: the work window in cycles. -/
def cWin (p : Nat) : Nat := (p - 1500) * 2388 / 1000 - 4

/-- R57: an entry fits its work window. -/
def budgetOk (p : Nat) (e : FtEntry) : Bool := decide (e.work + e.acc + e.rsv + (if 0 < e.rsv then 1540 else 0) ≤ cWin p)

/-- R49: [pa, pa + n) lies in stacked memory, in granules that a context owns. -/
def ownedBy (s : State) (cx : BitVec 12) (pa n : Nat) : Bool :=
  cx != 0xFFF && decide (pa + n ≤ 0x12000000000) && (granulesOf pa n).all fun g => ownerOf s g == cx

/-- The lowest index of a list of n that fails. -/
def firstBad (n : Nat) (p : Nat → Bool) : Option Nat := (List.range n).find? p

/-- R46 to R49: the table at a base, or the code and index of its refusal; the first reason in the order of the codes
(assumption 30). -/
def validate (s : State) (base : Nat) : Except (Nat × Nat) FrameTable :=
  let hd := hubNat s base 64
  let cx := BitVec.ofNat 12 (bitsOf hd 27 16)
  if base % 64 ≠ 0 ∨ 0x12000000000 < base + tableSize then .error (1, 0)
  else if !ownedBy s cx base tableSize then .error (1, 0)
  else if bitsOf hd 7 0 ≠ 1 then .error (2, 0)
  else if 2 ≤ bitsOf hd 29 28 then .error (3, 0)
  else
    let es := (List.range 10240).map fun i => parseEntry (hubNat s (base + 0x40 + 32 * i) 32)
    let at_ := fun (i : Nat) => es.getD i FtEntry.zero
    match firstBad 10240 fun i => (at_ i).wl == 2 || ((at_ i).wl == 3 && cx != 0) with
    | some i => .error (3, i)
    | none =>
      let p := bitsOf hd 61 32
      let nin := bitsOf hd 69 64
      if p < 10000 ∨ 1000000000 < p then .error (4, 0)
      else if 32 < nin then .error (5, 0)
      else
        let ins := (List.range nin).map fun k => parseInput (hubNat s (base + 0x50040 + 16 * k) 16)
        let badIn := fun (k : Nat) => match ins[k]? with
          | some r => decide (r.len = 0) || decide (2 ^ r.p2.toNat ≤ r.ph.toNat) || !ownedBy s cx r.base (r.len * 65536)
          | none => false
        match firstBad nin badIn with
        | some k => .error (5, k)
        | none =>
          match firstBad 10240 fun i => (at_ i).en && !budgetOk p (at_ i) with
          | some i => .error (6, i)
          | none =>
            let ilv := BitVec.ofNat 2 (bitsOf hd 29 28)
            let other := s.fr.inGap && match s.fr.ftPend with | some (some t) => t.ilv != ilv | _ => false
            if s.boot.upBuffer && ((ilv == 1) != s.fr.ilv || other) then .error (9, 0)
            else .ok
              { ver := 1, cxid := cx, ilv := ilv, period := p, nin := nin, inputs := ins
                entries := (List.range 10240).foldl (fun m i => smSet FtEntry.zero m i (at_ i)) [] }

/-- R49, R332: the status changes. -/
def setFtStatus (code idx : Nat) (s : State) : State :=
  raiseIrq 2 { s with fr := { s.fr with ftCode := BitVec.ofNat 8 code, ftIndex := BitVec.ofNat 14 idx } }

/-- R45, R346: a table, or the removal of one, is accepted and pends for its tick. -/
def acceptTable (t : Option FrameTable) (base : Word) (q : DReq) (s : State) : State :=
  let fr := if s.fr.inGap then { s.fr with ftPend2 := some t } else { s.fr with ftPend := some t }
  writeDone q true (setFtStatus 0 0 (tickLatch 0x5010 0 base (trace 7 0x5010 { s with fr := fr })))

/-- R45, R60, R347, R365, R399: whether a write of the base is refused where the device stands; the refusal. -/
def baseRefused (q : DReq) (s : State) : Option State :=
  if s.fr.wedged then some (abortReq q 0x10 (setFtStatus 8 0 s))
  else if s.rel.svc.toNat ≤ 1 || s.rel.stRec.isSome then some (abortReq q 7 s)
  else none

/-- FRAME_TABLE_BASE_WRITE (R45): 0 removes the table; another base starts validation. -/
def baseWrite (q : DReq) (v : Word) (s : State) : State :=
  match baseRefused q s with
  | some s => s
  | none => if v = 0 then acceptTable none 0 q s else { s with fr := { s.fr with validating := some (v, q) } }

/-- FRAME_TABLE_VALIDATION_DONE (R49). -/
def baseValidated (s : State) : State :=
  match s.fr.validating with
  | none => s
  | some (v, q) =>
    let s := { s with fr := { s.fr with validating := none } }
    match baseRefused q s with
    | some s => s
    | none =>
      let s' := { s with freeCtr := s.freeCtr + 2 ^ 20 }
      let s' := if v.toNat % 64 = 0 ∧ v.toNat + tableSize ≤ 0x12000000000 then noteBads (noteReads s' v.toNat tableSize) 0 v.toNat tableSize
        else s'
      match validate s v.toNat with
      | .ok t => acceptTable (some t) v q s'
      | .error (c, i) => abortReq q 0x10 (setFtStatus c i s')

/-- R18, R44: the first enabled entry of a table whose index is unavailable. -/
def unavailableEntry (s : State) (t : FrameTable) : Option Nat :=
  (t.entries.find? fun e => e.2.en && !idxAvail s e.1).map fun e => e.1

/-- R44, R49, R54: the check of a pending table in the gap: a refused one goes, its base with it; the status shows the result. -/
def tickCheck (s : State) : State :=
  match s.fr.ftPend with
  | some (some t) =>
    (match unavailableEntry s t with
     | some i =>
       setFtStatus 7 i { s with fr := { s.fr with ftPend := none, tl := s.fr.tl.filter fun w => w.idx != 0x5010 } }
     | none => if s.fr.ftCode = 0 ∧ s.fr.ftIndex = 0 then s else setFtStatus 0 0 s)
  | _ => s

/-- The table of the coming frame. -/
def comingTable (s : State) : Option FrameTable := match s.fr.ftPend with | some t => t | none => s.fr.ft

/-! ## Staging -/

/-- R104: the cluster reads n bytes for tile i, on one page, in a context; the reason number of R99 or the bytes. -/
def stageRead (s : State) (i : Nat) (cx : BitVec 12) (srg sup : Bool) (u : Use) (va n : Nat) :
    Except Nat (List Byte) × State :=
  if 2 ^ 52 < va + n then (.error 1, s)
  else
    let s := countWalk s cx va
    match walk s (some (i / 1280)) cx srg va with
    | .error bad => (.error 1, noteWalk s cx bad)
    | .ok e =>
      if (leafCheck e sup u false).isSome then (.error 1, s)
      else
        let pa := tlbPa e va
        let a : Acc := { write := false, serge := srg, cxid := cx, calOwn := none, bar := false, die := some (i / 1280) }
        if isHostPa pa then (.error 5, s)
        else match checkedRead s a pa n with
          | .ok bs => (.ok bs, noteReads s pa n)
          | .error r => if r = 7 then (.error 6, noteUncorrectable s cx pa) else (.error 5, s)

/-- R104: the physical address of the line that holds the first word of tile i, when it can be read. -/
def stageLine (s : State) (i : Nat) (cx : BitVec 12) (srg sup : Bool) (va : Nat) : Option Nat × State :=
  match stageRead s i cx srg sup .fetch va 64, walk s (some (i / 1280)) cx srg va with
  | (.ok _, s), .ok e => (some (tlbPa e va), s)
  | (_, s), _ => (none, s)

/-- R99: the reason that the fields of a header give against it, 0 none; they lie in its first half. -/
def headerFault (s : State) (i : Nat) (h : Nat) : Nat :=
  if bitsOf h 7 0 ≠ 1 then 2
  else if bitsOf h 115 64 % 16 ≠ 0 then 3
  else if h.testBit 9 && !(clusterOf s (i / 16)).calico then 4 else 0

/-- R98, R99: the two halves of a header, with the lowest reason when one fails or its fields do. -/
def stageHeader (s : State) (i : Nat) (cx : BitVec 12) (srg sup : Bool) (va : Nat) : Except Nat (List Byte) × State :=
  let (a, s) := stageRead s i cx srg sup .load va 16
  let (b, s) := stageRead s i cx srg sup .load (va + 16) 16
  match a, b with
  | .ok x, .ok y => (match headerFault s i (leNat x) with | 0 => .ok (x ++ y) | r => .error r, s)
  | .error r, .ok _ => (.error r, s)
  | .ok x, .error r => (.error (match headerFault s i (leNat x) with | 0 => r | q => min q r), s)
  | .error r, .error q => (.error (min r q), s)

/-- R221: the Muslin latch of a frame: its entries, or none after a fault, which is logged. -/
def stageLatch (s : State) (i : Nat) (cx : BitVec 12) (xtbm : Nat) : SMap Word × State :=
  if xtbm = 0 then ([], s)
  else
    let base := xtbm / 64 * 64
    let (bs, s) := (List.range 8).foldl (fun (acc : Option (List Byte) × State) k =>
      match acc.1 with
      | none => acc
      | some l => match stageRead acc.2 i cx false true .load (base + 64 * k) 64 with
        | (.ok b, s) => (some (l ++ b), s)
        | (.error _, s) => (none, s)) (some [], s)
    match bs with
    | some bs => ((List.range 64).foldl (fun m k => smSet 0 m k (fw bs (8 * k))) [], s)
    | none => ([], logErr 9 3 0 i 0 (wOf base) s)

/-- R98, R99: a header fault. -/
def faultStaged (r : Nat) : Staged :=
  { fault := BitVec.ofNat 8 r, loopen := false, calen := false, scr := 0, cdis := false, code := 0, xtbm := 0, xspi := 0,
    latch := [], line := none }

/-- R98, R99, R104, R221: header, first code line and Muslin latch of an enabled entry. -/
def stageEntry (s : State) (i : Nat) (cx : BitVec 12) (e : FtEntry) : Staged × State :=
  let srg := e.wl.getLsbD 1
  let sup := e.wl.getLsbD 0
  let cxw := if srg then 0 else cx
  match stageHeader s i cxw srg sup e.entry with
  | (.error r, s) => (faultStaged r, s)
  | (.ok bs, s) =>
    let h := leNat bs
    let code := bitsOf h 115 64
    let (latch, s) := stageLatch s i cx (bitsOf h 179 128)
    let (line, s) := stageLine s i cxw srg sup (code / 64 * 64)
    ({ fault := 0, loopen := h.testBit 8, calen := h.testBit 9, scr := BitVec.ofNat 2 (bitsOf h 11 10), cdis := h.testBit 12,
         code := code, xtbm := BitVec.ofNat 52 (bitsOf h 179 128), xspi := BitVec.ofNat 52 (bitsOf h 243 192),
         latch := latch, line := line }, s)

/-- R104: the coming frame's entries are staged at their tiles, read as that frame will see memory (its context and its
interleave). -/
def stageFrame (s : State) : State :=
  match comingTable s with
  | none => s
  | some ft =>
    let ft0 := s.fr.ft
    let ilv0 := s.fr.ilv
    let s := { s with fr := { s.fr with ft := some ft, ilv := ft.ilv == 1 } }
    let s := (ft.entries.filter fun (e : Nat × FtEntry) => e.2.en && idxAvail s e.1).foldl (fun s e =>
      let (st, s) := stageEntry s e.1 ft.cxid e.2
      modTile s e.1 fun t => { t with staged := some st }) s
    { s with fr := { s.fr with ft := ft0, ilv := ilv0 } }

/-! ## The gap -/

/-- R275: every TLB of the package is invalidated for the shootdowns asked for. -/
def gapShootdown (s : State) : State :=
  if !s.fr.shootReq then s
  else
    { s with
      tiles := smMap Tile.zero (fun t => { t with itlb := [], dtlb := [] }) s.tiles
      clusters := smMap Cluster.zero (fun c => { c with l2 := [] }) s.clusters
      regions := smMap Region.zero (fun r => { r with chans := smMap DmaCh.zero (fun c => { c with tlb := [] }) r.chans }) s.regions
      ms := { s.ms with shootdowns := s.ms.shootdowns + 1 }
      fr := { s.fr with shootReq := false, shootDone := true } }

/-- R290: the host-window counters are cleared in the gap that ends a period, and what the rest of the gap has counted with them. -/
def gapCounters (s : State) : State :=
  if (s.fr.fnum.toNat + 1) % 2 ^ s.ms.hotK.toNat = 0 then { s with ms := { s.ms with hotCount := [] } } else s

/-- R43: a tile still running in the gap is late; one that has issued its end and waits for earlier operations is, a halted one is not
(DESIGN CHOICE, assumption 114). -/
def isLate (t : Tile) : Bool := t.run == .running || t.run == .draining

/-- R44: the work of the gap. -/
def gapWork (s : State) : State :=
  let late := (s.tiles.filter fun e => isLate e.2).length
  let s := { s with
    tiles := smMap Tile.zero (fun t => { t with late := isLate t }) s.tiles
    fr := { s.fr with inGap := true, gapCyc := s.fr.cyc, lateTiles := s.fr.lateTiles + late }
    pw := { s.pw with gapP := s.pw.p, gapPm := s.pw.pm, gapRegion := s.pw.regionPm } }
  gapCounters (stageFrame (gapShootdown (tickCheck (gapPower s))))

/-- TICK_GAP (R42, R44): the gap begins 1,500 ns before the period ends; it is the first of its frame. -/
def tickGap (s : State) : State :=
  if s.fr.inGap || !s.fr.ticked then s
  else
    let p := match s.fr.ft with | some t => t.period | none => 1000000
    gapWork { s with fr := { s.fr with now := max s.fr.now (s.fr.lastTick + p - 1500) } }

/-! ## The tick: tiles -/

/-- R53, R63: the store buffer of a tile that is stopped: stores already accepted are written, in order; a store whose page is not known
yet is translated first. At the tick submissions, sends and puts that are still in the store buffer are dropped; those of a
tile that retires go on their way (DESIGN CHOICE, assumption 114). -/
def endTile (s : State) (i : Nat) (all : Bool) : State :=
  let t := tileOf s i
  let s := setTile s i { t with loads := [] }
  let s := (List.range (t.sb.length + t.handed.length)).foldl (fun s _ => endDataWalk s i) s
  let s := ((tileOf s i).handed.filter fun e => e.kind == .store && !e.overload).foldl (fun s e => performStore s i e) s
  if all then handOffAll s i
  else ((tileOf s i).sb.filter fun e => e.kind == .store && !e.overload).foldl (fun s e => performStore s i e) s

/-- R53, R59: a tile that has not ended is stopped at the tick; its overrun is counted and logged. A frame that has reached its
end ends the count of consecutive ones (R60). -/
def overrun (s : State) (i : Nat) : State :=
  let t := tileOf s i
  let n := if t.run == .draining then 0 else smGet 0 s.fr.ovr i + 1
  let s := logErr 1 2 0 i t.held.toNat (wOf t.pc) s
  { s with fr := { s.fr with overruns := s.fr.overruns + 1, ovr := smSet 0 s.fr.ovr i n } }

/-- R59, R235, R395: whether a tile has not ended. -/
def unended (t : Tile) : Bool := t.run == .running || t.run == .draining || t.run == .halted || t.replay

/-- R53, R59, R60, R239: the end of the frame at a tile. An asynchronous fault that waits at a tile stopped after its frame end is dropped
(DESIGN CHOICE, assumption 132). -/
def stopTile (s : State) (i : Nat) : State :=
  let t := tileOf s i
  let s := if unended t && !t.unhandled then overrun s i else { s with fr := { s.fr with ovr := smSet 0 s.fr.ovr i 0 } }
  endTile s i false

/-- R15, R227, R299: a tile at a tick: what persists, all else discarded. The operations on their way outside the tile keep
their numbers, so that none is taken for one of the new frame. -/
def freshTile (s : State) (t : Tile) (det : Bool) : Tile :=
  { Tile.zero with
    exc := { Exc.zero with xtbS := t.exc.xtbS, xspS := t.exc.xspS, latchS := t.exc.latchS, latchedS := t.exc.latchedS }
    cv := { Cv.zero with slots := t.cv.slots, slotsTick := t.cv.slots, sren := s.dict.sren }
    mx := { Mx.zero with cfg := BitVec.ofNat 2 (b2n s.dict.f19t + 2 * b2n s.dict.f19z) }
    mesh := { Mesh.zero with out := t.mesh.out.map fun o => { o with live := false } }
    itlb := if det then [] else t.itlb
    dtlb := if det then [] else t.dtlb
    hostirqs := t.hostirqs
    nextWid := t.nextWid
    nextSeq := t.nextSeq }

/-- R51, R98, R104, R125: a tile that starts the frame program of an entry from its staged header; a first line in stacked memory
holds what was written in the earlier frame. -/
def startedTile (s : State) (t : Tile) (e : FtEntry) (h : Staged) : Tile :=
  let n := freshTile s t e.det
  { n with
    run := .running
    world := if e.wl.getLsbD 1 then .serge else .muslin
    sup := e.wl.getLsbD 0
    det := e.det
    loopen := h.loopen
    calen := h.calen
    pc := h.code
    hdr := some h
    exc := { n.exc with xtbM := h.xtbm, xspM := wOf h.xspi.toNat, latchM := h.latch }
    cache := cachesAtTick h.scr (h.cdis && !e.det)
    line0 := match h.line with
      | some pa =>
        (match paClass pa with
         | .stacked => if s.ms.bad.contains (badKey s pa) then none else some (h.code, pa, readBytes s pa 64)
         | _ => some (h.code, pa, []))
      | none => none }

/-- R51, R99: the start of tile i in the frame, or its header fault, after which it counts as ended. -/
def startTile (s : State) (i : Nat) (e : FtEntry) (h : Staged) : State :=
  let t := tileOf s i
  if h.fault ≠ 0 then
    trace 0 i (logErr 3 3 0 i h.fault.toNat (wOf e.entry) (setTile s i { freshTile s t e.det with run := .ended, hdr := some h }))
  else setTile s i (startedTile s t e h)

/-- R26, R51, R66, R235, R395: a tile at the tick: halted ones stay so; one whose store is being copied starts when the copy
ends. -/
def tickTile (s : State) (i : Nat) : State :=
  let t := tileOf s i
  let e := entryOf s i
  if t.run == .halted then
    setTile s i { freshTile s t t.det with run := .halted, world := t.world, sup := t.sup, det := t.det, pc := t.pc, held := t.held }
  else if !idxAvail s i || !e.en then setTile s i (freshTile s t false)
  else
    let h := match t.staged with | some h => h | none => faultStaged 1
    if (clusterOf s (i / 16)).copying = some (i % 16) then
      setTile s i { freshTile s t e.det with hdr := some h, replay := true, det := e.det }
    else startTile s i e h

/-- R204: slots are cleared at the tick at which a table of another context takes effect. -/
def clearSlots (s : State) : State :=
  { s with tiles := smMap Tile.zero (fun t => { t with cv := { t.cv with slots := [] } }) s.tiles }

/-- The tiles a tick concerns: those that hold state, and the enabled entries. -/
def tickTiles (s : State) : List Nat :=
  let held := s.tiles.map fun e => e.1
  let on := match s.fr.ft with
    | some t => (t.entries.filter fun (e : Nat × FtEntry) => e.2.en).map fun (e : Nat × FtEntry) => e.1
    | none => []
  held ++ on.filter fun i => !held.contains i

/-! ## The tick: values -/

/-- R54: one tick-latched value applies. -/
def applyTl (s : State) (w : TlWrite) : State :=
  let j := w.sub.toNat
  let v := w.v
  match w.idx.toNat with
  | 0x2040 =>
    if j = 1 then { s with dict := { s.dict with f19t := v == 1 } }
    else if j = 2 then { s with dict := { s.dict with f19z := v == 1 } }
    else { s with dict := { s.dict with sren := v == 1 } }
  | 0x2050 => { s with fr := { s.fr with spreadPend := some (v == 1) } }
  | 0x2120 => { s with tw := { s.tw with dieRoutes := smSet 0 s.tw.dieRoutes (j - 1) (v.setWidth 8) } }
  | 0x2130 => { s with ms := { s.ms with hostBase := v } }
  | 0x2200 => { s with tw := { s.tw with id := v.setWidth 8 } }
  | 0x2202 => { s with tw := { s.tw with e := v.setWidth 8 } }
  | 0x2203 => { s with tw := { s.tw with d := v.setWidth 32 } }
  | 0x2220 => { s with tw := { s.tw with routes := smSet 0xF s.tw.routes (j - 1) (v.setWidth 8) } }
  | 0x3000 => { s with dict := { s.dict with cap := v.setWidth 16 } }
  | 0x3010 => { s with pw := { s.pw with tthr := v.setWidth 8 } }
  | 0x3013 => { s with pw := { s.pw with iLimit := v.setWidth 16 } }
  | 0x3014 => { s with pw := { s.pw with qThrottle := v.setWidth 8 } }
  | 0x3016 => { s with pw := { s.pw with railRaise := v.setWidth 8 } }
  | 0x4030 => { s with ms := { s.ms with scrubHours := v.setWidth 16 } }
  | 0x4070 =>
    if j = 1 then { s with ms := { s.ms with hotBase := v, hotHead := 0, hotTail := 0 } }
    else if j = 2 then { s with ms := { s.ms with hotM := v.setWidth 8, hotHead := 0, hotTail := 0 } }
    else if j = 3 then { s with ms := { s.ms with hotT := v.setWidth 16 } }
    else { s with ms := { s.ms with hotK := v.setWidth 8 } }
  | 0x5000 => { s with fr := { s.fr with source := v.setWidth 8 } }
  | 0x5001 => { s with fr := { s.fr with holdover := v.setWidth 32 } }
  | 0x5010 => { s with fr := { s.fr with ftBase := v } }
  | 0x5020 => { s with fr := { s.fr with wedgeK := v.setWidth 8 } }
  | 0x9000 =>
    if j = 1 then { s with rel := { s.rel with traceMask := v.setWidth 32 } }
    else if j = 0 then { s with rel := { s.rel with traceOwner := v.setWidth 12 } }
    else if j = 2 then { s with rel := { s.rel with traceBase := v, tracePos := 0 } }
    else { s with rel := { s.rel with traceExp := v.setWidth 8, tracePos := 0 } }
  | _ => s

/-- R54: every value accepted before the gap applies; those of the gap wait for the next tick. -/
def applyLatched (s : State) : State :=
  let l := s.fr.tl
  l.foldl applyTl { s with fr := { s.fr with tl := s.fr.tl2, tl2 := [] } }

/-- R264: context roots apply in the order of acceptance. -/
def applyRoots (s : State) : State :=
  let put := fun (m : SMap Nat) (r : BitVec 64) =>
    smSet 0 m (wBits r 11 0) (if wBit r 12 then wBits r 43 16 * 65536 + 1 else 0)
  { s with ms := { s.ms with
      roots := s.ms.rootsNext.foldl put s.ms.roots
      rootsNext := s.ms.rootsNext2
      rootsNext2 := [] } }

/-- R273: G advances at a tick whose gap has performed a shootdown. -/
def advanceG (s : State) : State :=
  if !s.fr.shootDone then s
  else { s with ms := { s.ms with
    g := s.ms.g + 1
    gWraps := if s.ms.g = 0xFFFFFFFF then s.ms.gWraps + 1 else s.ms.gWraps } }

/-- R274: the last record for each granule that a tick applies: 1 + owner, with 4,096 added for an assignment that has waited. -/
def ownTargets (l : List OwnChange) : SMap Nat :=
  let put := fun (m : SMap Nat) (c : OwnChange) => (List.range c.count).foldl (fun m k =>
    smSet 0 m (c.first + k) (1 + c.own.toNat + 4096 * b2n c.late)) m
  ((l.filter fun c => c.late) ++ l.filter fun c => !c.late).foldl put []

/-- R273, R274: a granule receives an owner; its generation becomes G. -/
def setOwner (s : State) (g : Nat) (own : BitVec 12) : State :=
  if ownerOf s g = own then s
  else { s with ms := { s.ms with owner := smSet 0xFFF s.ms.owner g own, gen := smSet 0 s.ms.gen g s.ms.g } }

/-- R274: one granule at a tick: unowned takes its owner at once, owned by another becomes unowned for a frame. -/
def ownGranule (s : State) (e : Nat × Nat) : State :=
  let own := BitVec.ofNat 12 ((e.2 - 1) % 4096)
  let cur := ownerOf s e.1
  if 4096 < e.2 ∨ cur = 0xFFF ∨ own = 0xFFF then setOwner s e.1 own
  else if cur = own then s
  else
    let s := setOwner s e.1 0xFFF
    { s with ms := { s.ms with ownNext := s.ms.ownNext ++ [⟨e.1, 1, own, true⟩] } }

/-- R274: ownership records apply. -/
def applyOwners (s : State) : State :=
  let l := s.ms.ownNext
  (ownTargets l).foldl ownGranule { s with ms := { s.ms with ownNext := s.ms.ownNext2, ownNext2 := [] } }

/-- R48: the input ranges that protect memory in the frame. -/
def frameInputs (s : State) : List FtInput :=
  match s.fr.ft with
  | some t => t.inputs.filter fun r => s.fr.frel.toNat % 2 ^ r.p2.toNat == r.ph.toNat
  | none => []

/-- R45, R50, R204, R244: a pending table takes effect, or the one in effect goes on. Without a table SYS.frel counts frames from the
first tick, or from the removal (DESIGN CHOICE, assumption 114). -/
def applyTable (s : State) (first : Bool) : State :=
  match s.fr.ftPend with
  | none => { s with fr := { s.fr with frel := if first then 0 else s.fr.frel + 1, ftPend := s.fr.ftPend2, ftPend2 := none } }
  | some t =>
    let s := raiseIrq 2 { s with fr := { s.fr with ft := t, frel := 0, ftPend := s.fr.ftPend2, ftPend2 := none } }
    match t with
    | none => s
    | some ft =>
      let s := if ft.cxid = s.fr.lastCx then s else clearSlots s
      { s with fr := { s.fr with lastCx := ft.cxid, ilv := ft.ilv == 1 } }

/-- R407: tracing stops when a granule of the ring has left the owner recorded at acceptance. -/
def traceCheck (s : State) : State :=
  if s.rel.traceMask = 0 ∨ s.rel.traceOwner = 0xFFF then s
  else match (granulesOf s.rel.traceBase.toNat (2 ^ s.rel.traceExp.toNat)).find? fun g => ownerOf s g != s.rel.traceOwner with
    | none => s
    | some g => logErr 0x0A 0 6 0 g s.rel.traceBase { s with rel := { s.rel with traceMask := 0 } }

/-- R377, R378: the preloaded ceiling, the rails that return to nominal, and hints of past frames. -/
def tickPower (s : State) : State :=
  let n := s.fr.fnum.toNat
  let s := match s.pw.preload with
    | some q =>
      let s := noteHolds s
      { s with pw := { s.pw with preload := none, qc := min s.pw.qc q, preloaded := s.pw.preloaded || decide (q < s.pw.qc) } }
    | none => s
  let s := { s with regions := smMap Region.zero (fun r => { r with hints := r.hints.filter fun h => decide (n ≤ h.1) }) s.regions }
  (List.range 8).foldl (fun s d => match (dieOf s d).raised with
    | some f => if f < n then emit (setDie s d { dieOf s d with raised := none }) (.smbusRaise (BitVec.ofNat 3 d) false) else s
    | none => s) s

/-- R304: what the tiles have handed off to their own package is delivered, into the mailboxes of the new frame. -/
def tickMessages (s : State) : State :=
  ((s.tiles.filter fun e => !e.2.mesh.out.isEmpty).map fun e => e.1).foldl deliverAll s

/-- R312: the tick source decides whether the package is Alone. A member that leaves sends a leave flit to its master. -/
def tickMembership (s : State) : State :=
  if s.fr.source = 2 then (if s.tw.st = 0 then trace 4 0 { s with tw := { s.tw with st := 1 } } else s)
  else if s.tw.st = 0 then s
  else
    let s := if s.tw.st = 2 then routeMembership s 4 0 s.tw.master.toNat else s
    trace 4 0 { s with
      tw := { s.tw with
        st := 0
        master := 0xFF
        members := 0
        nextSet := 0
        announced := 0
        candidate := false
        admitAt := none
        yielding := false } }

/-- R383, R447: the clocks of a tile's die run. -/
def clocked (s : State) (i : Nat) : Bool := (dieOf s (i / 1280)).clocks

/-- R39 to R44, R50 to R54: the tick at instant t ns of the timebase. An index that has ended its frame ends its count of overruns
(R60). -/
def frameTick (t : Nat) (s : State) : State :=
  let s := if s.fr.inGap then s else gapWork s
  let s := gapCounters s
  let first := !s.fr.ticked
  let s := { s with fr := { s.fr with ovr := s.fr.ovr.filter fun e => unended (tileOf s e.1) } }
  let s := ((s.tiles.map fun e => e.1).filter (clocked s)).foldl stopTile s
  let s := { s with
    fr := { s.fr with
      ticked := true
      now := max s.fr.now t
      lastTick := t
      fnum := if first then 0 else s.fr.fnum + 1
      cyc := s.fr.cyc + 4
      fcyc := 4
      inGap := false
      frameOutDue := true
      shootReq := s.fr.shootNext
      shootNext := false }
    rel := { s.rel with onceMarks := [] } }
  let s := applyOwners (advanceG (applyRoots (applyLatched s)))
  let s := applyTable { s with fr := { s.fr with shootDone := false } } first
  let s := { s with fr := { s.fr with inputs := frameInputs s } }
  let s := { s with clusters := smMap Cluster.zero (fun c => { c with f := 0, c := [], same := CycleOps.zero }) s.clusters }
  let s := tickMessages (((tickTiles s).filter (clocked s)).foldl tickTile (traceCheck s))
  let s := trace 0 0 (tickMembership (tickPower { s with tw := { s.tw with flooded := [] } }))
  if s.fr.fnum.toNat % 2 ^ s.host.tdiv.toNat = 0 then raiseIrq 3 s else s

/-- R39, R41: the period in effect. -/
def periodOf (s : State) : Nat := match s.fr.ft with | some t => t.period | none => 1000000

/-- R39, R41: whether ticks come from the internal timer: source 0, or Twill before the master has admitted the package. -/
def timerTicks (s : State) : Bool := s.fr.source == 0 || (s.fr.source == 2 && decide (s.tw.st.toNat < 2))

/-! ## The commands -/

/-- R314: a package that a beacon lists takes no internal tick within P before its epoch, whose instant follows from the last
system tick it has received the time of. -/
def suppressed (s : State) (t : Nat) : Bool :=
  match s.tw.admitAt, s.tw.releases.getLast? with
  | some e, some (at_, n) =>
    let epoch := at_ + (e.toNat - n.toNat) * s.fr.sysPeriod
    decide (s.fr.source = 2 ∧ t ≤ epoch ∧ epoch < t + periodOf s)
  | _, _ => false

/-- TICK_TIMER_EXPIRY (R39, R314). -/
def execTickTimerExpiry (s : State) : Host.Outcome State Fault Refusal :=
  let t := s.fr.lastTick + periodOf s
  .next (if timerTicks s && s.boot.ready && !suppressed s t then frameTick t s else s)

/-- FRAME_IN_EDGE (R40): the edge at an instant makes a tick 120 ns later, or is ignored and counted. -/
def execFrameInEdge (at_ : Nat) (s : State) : Host.Outcome State Fault Refusal :=
  .next (if s.fr.source ≠ 1 || !s.boot.ready then s
    else if s.fr.ticked && decide (at_ + 120 < s.fr.lastTick + periodOf s) then
      { s with fr := { s.fr with edgesIgnored := s.fr.edgesIgnored + 1 } }
    else frameTick (at_ + 120) s)

/-- SUBSTITUTE_TICK (R40). -/
def execSubstituteTick (s : State) : Host.Outcome State Fault Refusal :=
  .next (if s.fr.source ≠ 1 ∨ s.fr.holdover = 0 ∨ !s.fr.ticked ∨ !s.boot.ready then s
    else frameTick (s.fr.lastTick + periodOf s + 1000 * s.fr.holdover.toNat)
      { s with fr := { s.fr with substitutes := s.fr.substitutes + 1 } })

/-- R315: after every tick a member sends its status to the master. -/
def sendStatus (s : State) : State := if s.tw.st = 2 then routeMembership s 3 0 s.tw.master.toNat else s

/-- HOLDOVER_TICK (R41, R315). -/
def execHoldoverTick (s : State) : Host.Outcome State Fault Refusal :=
  .next (if s.fr.source ≠ 2 ∨ s.tw.st ≠ 2 then s
    else sendStatus (frameTick (s.fr.lastTick + s.fr.sysPeriod + 1000)
      { s with fr := { s.fr with substitutes := s.fr.substitutes + 1, holdovers := s.fr.holdovers + 1 } }))

/-- WEDGE (R60): logical index lti has overrun K consecutive frames. An index that follows the first one only joins the record (DESIGN
CHOICE, assumption 114). -/
def execWedge (lti : BitVec 14) (s : State) : Host.Outcome State Fault Refusal :=
  onTile lti s fun i s =>
    if smGet 0 s.fr.ovr i < s.fr.wedgeK.toNat || s.fr.wedgeRec.contains i then s
    else
      let s := { s with fr := { s.fr with wedgeRec := s.fr.wedgeRec ++ [i] } }
      if s.fr.wedged then s
      else logErr 2 5 0 i s.fr.wedgeK.toNat (wOf s.fr.wedgeRec.length) (declareWedged s i)

/-- TICK_GAP (R44). -/
def execTickGap (s : State) : Host.Outcome State Fault Refusal := .next (tickGap s)

/-- FRAME_OUT_RISE (R442): 100 ns after a tick. -/
def execFrameOutRise (s : State) : Host.Outcome State Fault Refusal :=
  .next (if s.fr.frameOutDue then
      { s with fr := { s.fr with frameOut := true, frameOutDue := false, now := max s.fr.now (s.fr.lastTick + 100) } }
    else s)

/-- FRAME_OUT_FALL (R442): 1,000 ns after it rose. -/
def execFrameOutFall (s : State) : Host.Outcome State Fault Refusal :=
  .next (if s.fr.frameOut then
      { s with fr := { s.fr with frameOut := false, now := max s.fr.now (s.fr.lastTick + 1100) } }
    else s)

/-- SPREAD_PEAK_CHANGE (R431): the first peak at or after the tick that applied a change, on the grid of 31,746 ns. -/
def execSpreadPeakChange (s : State) : Host.Outcome State Fault Refusal :=
  .next (match s.fr.spreadPend with
    | some on => { s with fr := { s.fr with
        spreadOn := on
        spreadPend := none
        now := max s.fr.now (ceilDiv s.fr.lastTick 31746 * 31746) } }
    | none => s)

/-- R183, R203, R391, R447: a cycle of the matrix arrays and conversion units that have an operation in progress, but for frozen tiles and
those of a stopped die: what they read in it is read before any other change of the cycle. -/
def engineCycles (frozen : List Nat) (s : State) : State :=
  (s.tiles.filter fun e => (!e.2.mx.queue.isEmpty || !e.2.cv.queue.isEmpty) && !frozen.contains e.1 && clocked s e.1).foldl (fun s e => lineCycle (arrayCycle s e.1) e.1) s

/-- R391: a cycle passes at a tile: in one of a freeze its results in flight do not come nearer. -/
def thaw (t : Tile) : Tile := if 0 < t.frozen then { t with frozen := t.frozen - 1, landed := t.landed + 1 } else t

/-- A tile-clock cycle passes: SYS.cyc, SYS.fcyc, and the open non-interruptible windows count (R97, R231; assumption 2). The CAN bus
takes a waiting response (R355; assumption 119). -/
def idleCycle (s : State) : State :=
  let frozen := (s.tiles.filter fun e => decide (0 < e.2.frozen)).map fun e => e.1
  let count := fun (t : Tile) =>
    let t := thaw t
    match t.exc.niOpen with
    | some (srg, n) => { t with exc := { t.exc with niOpen := some (srg, n - 1) } }
    | none => t
  { s with
    tiles := smMap Tile.zero count s.tiles
    fr := { s.fr with cyc := s.fr.cyc + 1, fcyc := s.fr.fcyc + 1 } }
  |> canDrain
  |> engineCycles frozen

end Sys2Proof.Machine
end

