-- ==== Sys2Proof/Machine/Retire.lean ====
section
/-! DEFINITION. Retries, retirement, sparing, device faults, service levels and the error log (15_reliability.md). -/

namespace Sys2Proof.Machine

open Sys2Proof

/-! ## Service -/

/-- R398, R451, R24: usable counts: logical indices, dies, channels. -/
def usableIndices (s : State) : Nat :=
  16 * ((List.range 640).filter fun k => !(clusterOf s k).unavailable && !(dieOf s (k / 80)).fenced).length

def usableDies (s : State) : Nat := ((List.range 8).filter fun d => !(dieOf s d).fenced).length

/-- A channel that is neither fenced nor on a fenced die. -/
def chanUsable (s : State) (c : Nat) : Bool := !(chanOf s c).fenced && !(dieOf s (c / 128)).fenced

def usableChannels (s : State) : Nat := ((List.range 1024).filter (chanUsable s)).length

/-- R258, R398: a channel group of a stack with all its channels in service. -/
def groupUsable (s : State) (stack g : Nat) : Bool := (List.range 16).all fun k => chanUsable s (64 * stack + 16 * g + k)

/-- R294, R297: a die reaches the hub: it is bridged to the hub, or to a die with transit that is. -/
def hubRoute (s : State) (d : Nat) : Bool :=
  decide (d % 2 = 1) || (dieOf s ((d + 1) % 8)).transit || (dieOf s ((d + 7) % 8)).transit

/-- R398: the compute minimum: a die with a cluster in service and a route to the hub, and a channel group of one of its stacks. -/
def computeMinimum (s : State) : Bool :=
  (List.range 8).any fun d =>
    !(dieOf s d).fenced && hubRoute s d && ((List.range 80).any fun k => !(clusterOf s (80 * d + k)).unavailable) &&
    (List.range 8).any fun k => groupUsable s (2 * d + k / 4) (k % 4)

/-- R398: the level that the resources in service give. -/
def serviceLevel (s : State) : BitVec 8 :=
  if !computeMinimum s then 1
  else if usableIndices s = 10240 ∧ usableDies s = 8 ∧ usableChannels s = 1024 then 3 else 2

/-! ## Retirement -/

/-- R402: number of the physical tile that carries a logical index. -/
def physicalTile (s : State) (i : Nat) : Nat :=
  17 * (i / 16) + (if (clusterOf s (i / 16)).spareFor = some (i % 16) then 16 else i % 16)

/-- R396: a retirement goes to the sparing record in flash. -/
def recordSparing (p : Nat) (s : State) : State :=
  flashQueue (.sparing p) { s with rel := { s.rel with sparingPend := s.rel.sparingPend ++ [p] } }

/-- R66: the programs of a cluster that becomes unavailable stop; stores that are still in their buffers are not written (DESIGN
CHOICE, assumption 114). -/
def stopCluster (s : State) (k : Nat) : State :=
  (List.range 16).foldl (fun s p =>
    if (s.tiles.any fun e => e.1 == 16 * k + p) then
      setTile s (16 * k + p) (freshTile s (tileOf s (16 * k + p)) false)
    else s) s

/-- R18, R66, R399, R405: a cluster becomes unavailable. The encoding of the retired tiles in its entry is not given: a free
value (assumption 7). -/
def loseCluster (s : State) (k : Nat) : State :=
  let s := stopCluster (setCluster s k { clusterOf s k with unavailable := true, copying := none }) k
  let (d, s) := takeFree s
  let s := logErr 0x12 4 1 k d.toNat 0 s
  let lvl := serviceLevel s
  if lvl.toNat < s.rel.svc.toNat then setService s lvl else s

/-- R62, R66, R395: the tile that carries logical index i retires for a cause of R456. The Serge-world state that persists across ticks (R15)
goes to the spare as it is at the retirement (DESIGN CHOICE, assumption 132). -/
def retire (s : State) (i cause : Nat) : State :=
  let k := i / 16
  let p := i % 16
  let c := clusterOf s k
  if c.unavailable then s
  else
    let phys := physicalTile s i
    let t := tileOf s i
    let s := trace 8 i (logErr 0x11 2 0 i (cause + 256 * phys) (wOf t.pc) s)
    let s := recordSparing phys { s with rel := { s.rel with retiredTiles := s.rel.retiredTiles + 1 } }
    let s := endTile s i true
    let c := { clusterOf s k with retired := c.retired ++ [phys % 17] }
    if c.spareFor.isSome || c.spareBad || c.copying.isSome then loseCluster (setCluster s k c) k
    else
      let running := t.run == .running || t.run == .draining
      let t := tileOf s i
      let n := freshTile s t t.det
      let n := { n with
        cv := { n.cv with slots := t.cv.slotsTick, slotsTick := t.cv.slotsTick }
        run := if t.run == .halted then .halted else .idle
        det := t.det
        pc := t.pc
        held := t.held
        staged := t.staged
        hdr := t.hdr
        replay := running
        skip := t.effects }
      let s := setCluster (setTile s i n) k { c with copying := some p }
      if running then { s with fr := { s.fr with replays := s.fr.replays + 1 } } else s

/-- R62, R302: messages held for the tile are delivered. -/
def deliverHeld (s : State) (i : Nat) : State :=
  let mine := fun (f : Flit) => hField f.hdr 77 64 == i
  let now := s.tw.held.filter mine
  now.foldl (fun s f => messageArrives s f.hdr f.payload f.buf)
    { s with tw := { s.tw with held := s.tw.held.filter fun f => !mine f } }

/-- SPARE_REMAP (R62, R63, R395): the copy ends; the index runs on the spare, from its start if it must start. -/
def remap (s : State) (k : Nat) : State :=
  match (clusterOf s k).copying with
  | none => s
  | some p =>
    let i := 16 * k + p
    let s := setCluster s k { clusterOf s k with copying := none, spareFor := some p }
    let t := tileOf s i
    let s := if t.replay then
        let s := startTile s i (entryOf s i) (match t.hdr with | some h => h | none => faultStaged 1)
        modTile s i fun n => { n with skip := t.skip, staged := t.staged }
      else s
    deliverHeld s i

/-! ## Retries -/

/-- R390, R391: the cycles for which a retry freezes the tile, by unit: AL0, AL1, the address adder, MUL, DIV; the others do not. -/
def freezeOf (unit : BitVec 4) : Nat := ([0, 1, 1, 1, 3, 34] : List Nat).getD unit.toNat 0

/-- The accumulation whose steps issue (R180): its place in the queue. -/
def mxRunning (t : Tile) : Option MxOp := t.mx.queue.find? fun o => o.started && o.op == 0x20 && !o.run.issued

/-- R393: the operation of a unit whose check fails, by the number of its word, and its chunk: that of the last word for the scalar units and
Calico words, the oldest product, the division, the vector operation that completes next, the conversion in progress, the accumulation
in progress; a bank's is the oldest accumulation held on it (assumption 127). -/
def retryKey (t : Tile) (unit : BitVec 4) : Nat × Nat :=
  match unit.toNat with
  | 4 => (match (bankOf t).mulp.head? with | some p => p.wid | none => 0, 0)
  | 5 => (match (bankOf t).div with | some d => d.wid | none => 0, 0)
  | 6 => (match t.vx.queue[vxNext t.vx]? with | some o => o.wid | none => 0, 0)
  | 7 => (match t.cv.queue.head? with | some o => o.wid | none => 0, 0)
  | 8 => (match mxRunning t with | some o => (o.wid, (o.run.opened - 1) / (16 * stepCycles o.desc)) | none => (0, 0))
  | 12 => (match mxRunning t with | some o => (o.wid, (o.run.opened - 1) / (16 * stepCycles o.desc)) | none => (0, 0))
  | 10 => (match t.mx.queue.find? fun o => o.op == 0x20 && !wBit o.desc 0 with | some o => o.wid | none => 0, 0)
  | 11 => (match t.mx.queue.find? fun o => o.op == 0x20 && wBit o.desc 0 with | some o => o.wid | none => 0, 0)
  | _ => (t.nextWid, 0)

/-- R393: how often the operation of a unit that is under way has been retried. -/
def retryCount (t : Tile) (unit : BitVec 4) : Nat :=
  match t.retry.find? fun r => r.unit == unit && (r.op, r.chunk) == retryKey t unit with
  | some r => r.n
  | none => 0

/-- R393: one more retry of the operation of a unit. -/
def countRetry (t : Tile) (unit : BitVec 4) : Tile :=
  let k := retryKey t unit
  { t with retry := { unit := unit, op := k.1, chunk := k.2, n := retryCount t unit + 1 } ::
      t.retry.filter fun r => !(r.unit == unit && (r.op, r.chunk) == k) }

/-- R392: the operations of the vector queue from place p on that have started are 5 cycles later. -/
def delayGroups (p : Nat) (vx : Vx) : Vx :=
  { vx with queue := vx.queue.take p ++ (vx.queue.drop p).map fun o =>
      if o.started then { o with run := { o.run with start := o.run.start + 5 } } else o }

/-- R392: the conversion in progress reads its next line 7 cycles later. -/
def delayLine (cv : Cv) : Cv :=
  match cv.queue with
  | o :: rest => { cv with queue := { o with run := { o.run with stall := o.run.stall + 7 } } :: rest }
  | [] => cv

/-- 06_matrix.md, Residue and parity faults: the array issues the steps of the failed chunk again, after 5 cycles. -/
def redoChunk (now : Word) (m : Mx) : Mx :=
  match lFind (fun o => o.started && o.op == 0x20 && !o.run.issued) m.queue with
  | none => m
  | some k =>
    match m.queue[k]? with
    | none => m
    | some o =>
      let n := 16 * stepCycles o.desc
      { m with queue := lSet m.queue k { o with run := { o.run with opened := (o.run.opened - 1) / n * n, t0 := now + 5 } } }

/-- 06_matrix.md, Residue and parity faults: a bank with a valid list is replayed with k = 0: its listed operations give it the same values
again, but for operands that have changed (R190); the accumulation in progress on it starts again from step 0. -/
def bankReplay (s : State) (i : Nat) (b : Bool) : State :=
  let m := (tileOf s i).mx
  let bk := mxBank m b
  match mxRunning (tileOf s i) with
  | some o =>
    if mxBankOf o = b then
      let (was, now) := listedReads s i (listBefore bk o)
      let again := { fromStep0 o with run := { (fromStep0 o).run with t0 := s.fr.cyc } }
      modTile s i fun t => { t with mx := { setMxBank t.mx b (spoilt was now bk) with
        queue := t.mx.queue.map fun e => if e = o then again else e } }
    else
      let (was, now) := listedReads s i bk.ops
      modTile s i fun t => { t with mx := setMxBank t.mx b (spoilt was now bk) }
  | none =>
    let (was, now) := listedReads s i bk.ops
    modTile s i fun t => { t with mx := setMxBank t.mx b (spoilt was now bk) }

/-- R391, R392: what a retry of a unit does to what it computes. -/
def retryUnit (s : State) (i : Nat) (unit : BitVec 4) : State :=
  match unit.toNat with
  | 6 => modTile s i fun t => { t with vx := delayGroups (vxNext t.vx) t.vx }
  | 7 => modTile s i fun t => { t with cv := delayLine t.cv }
  | 8 => modTile s i fun t => { t with mx := redoChunk s.fr.cyc t.mx }
  | 10 => bankReplay s i false
  | 11 => bankReplay s i true
  | 12 => modTile s i fun t => { t with mx := redoChunk s.fr.cyc t.mx }
  | _ => s

/-- R456: the unit as the log numbers it: 8 for every structure of the matrix engine. -/
def logUnit (unit : BitVec 4) : Nat := if 10 ≤ unit.toNat then 8 else unit.toNat

/-- R456: the cause of a retirement at the retry limit of a unit. -/
def retryCause (unit : BitVec 4) : Nat := if unit = 9 then 3 else if 8 ≤ unit.toNat then 4 else 1

/-- A bank of the matrix engine without a valid replay list. -/
def unlistedBank (t : Tile) (unit : BitVec 4) : Bool :=
  (unit == 10 && !t.mx.bankA.listValid) || (unit == 11 && !t.mx.bankB.listValid)

/-- RESIDUE_FAULT (R61, R390, R393): the operation of a unit is retried; a fault still present after the second retry of the same operation,
or chunk, retires the tile, after the first for Calico words, at once for a bank without a valid list. -/
def residueFault (s : State) (i : Nat) (unit : BitVec 4) : State :=
  let t := tileOf s i
  if (t.run != .running && t.run != .draining) || unit == 0 || decide (12 < unit.toNat) then s
  else
    let limit := if unit = 9 then 1 else 2
    if limit ≤ retryCount t unit || unlistedBank t unit then retire s i (retryCause unit)
    else
      let r := satAdd (2 ^ 24 - 1) t.retries.toNat 1
      let s := setTile s i { countRetry t unit with retries := BitVec.ofNat 24 r, frozen := t.frozen + freezeOf unit }
      trace 8 i (logOnce 0x10 2 0 i (logUnit unit + 256 * r) (wOf t.pc) (retryUnit s i unit))

/-- R389: an entry that a parity fault has invalidated is counted. -/
def countParity (s : State) : State := { s with rel := { s.rel with parities := s.rel.parities + 1 } }

/-- R394: a bit of a tile-store word flips: a single-bit error, or with one there already an uncorrectable word. -/
def flipBit (s : State) (k : Nat) : State :=
  if s.ms.bad.contains k then s
  else if s.ms.soft.contains k then
    { s with ms := { s.ms with soft := s.ms.soft.filter fun x => x != k, bad := k :: s.ms.bad } }
  else { s with ms := { s.ms with soft := k :: s.ms.soft } }

/-- R390, R394: a parity or tile-store check fails: the tile retires, an entry is invalidated and will be fetched again as a miss, a word of
the tile store holds a single-bit error until it is read or replaced, or becomes uncorrectable until a whole write replaces it. -/
def parityFault (s : State) (i : Nat) (f : ParityFault) : State :=
  let cache := fun (g : CacheSt → CacheSt) => countParity (modTile s i fun t => { t with cache := g t.cache })
  match f with
  | .retires cause => retire s i cause.toNat
  | .line true n => cache fun c => { c with ilines := c.ilines.eraseIdx n }
  | .line false n => cache fun c => { c with dlines := c.dlines.eraseIdx n }
  | .victim n => cache fun c => { c with vlines := c.vlines.eraseIdx n }
  | .loopBuffer pc => cache fun c => { c with loopBuf := smSet 0 c.loopBuf pc 0 }
  | .prediction k => cache fun c => { c with pred := smSet (0, 0) c.pred k (0, 0) }
  | .tlb true n => countParity (modTile s i fun t => { t with itlb := t.itlb.eraseIdx n })
  | .tlb false n => countParity (modTile s i fun t => { t with dtlb := t.dtlb.eraseIdx n })
  | .clusterTlb n => countParity (setCluster s (i / 16) { clusterOf s (i / 16) with l2 := (clusterOf s (i / 16)).l2.eraseIdx n })
  | .storeBit off => if 786432 ≤ off.toNat then s else flipBit s (badKey s (storePa i off.toNat))
  | .storeWord off =>
    let k := badKey s (storePa i off.toNat)
    if 786432 ≤ off.toNat || s.ms.bad.contains k then s
    else { s with ms := { s.ms with bad := k :: s.ms.bad, soft := s.ms.soft.filter fun x => x != k } }

/-- DEVICE_FAULT (R397): the function is wedged at once. A package in reset or before READY has no function (R410, R413). -/
def deviceFault (s : State) (kind : Nat) : State :=
  if !s.boot.ready then s else
  let s := logErr 0x60 5 6 0 kind 0 { s with rel := { s.rel with deviceFaults := s.rel.deviceFaults + 1 } }
  if s.fr.wedged then s else declareWedged s 0

/-! ## Error log -/

/-- R403: the queue whose entry is the oldest: of one cycle the hub's own first, then the dies'. -/
def nextQueue (s : State) : Option Nat :=
  ((List.range 9).foldl (fun (best : Option (Nat × Nat)) q =>
    match smGet [] s.rel.queues q, best with
    | [], _ => best
    | e :: _, none => some (q, e.cyc.toNat)
    | e :: _, some (p, c) => if e.cyc.toNat < c then some (q, e.cyc.toNat) else some (p, c)) none).map (·.1)

/-- ERROR_LOG_APPEND (R403, R356): an uncorrectable stacked-memory entry raises an emergency; an entry goes to the ring of 1,024, a serious one to the persistent record of 64. -/
def appendLog (s : State) : State :=
  match nextQueue s with
  | none => s
  | some q =>
    match smGet [] s.rel.queues q with
    | [] => s
    | e :: rest =>
      let full := decide (1024 ≤ s.rel.log.length)
      let keep := decide (4 ≤ e.sev.toNat)
      let p := s.rel.persist ++ [e]
      let s := { s with rel := { s.rel with
        queues := smSet [] s.rel.queues q rest
        log := (if full then s.rel.log.drop 1 else s.rel.log) ++ [e]
        written := s.rel.written + 1
        lost := if full then s.rel.lost + 1 else s.rel.lost
        persist := if keep then p.drop (p.length - 64) else s.rel.persist } }
      let s := if keep then flashQueue (.persist s.rel.persist) s else s
      let s := if e.code = 0x21 ∨ e.code = 0x22 then emergency 2 0 s else s
      raiseIrq 0 s

/-- R418: the flash after a record's write. -/
def flashTaken (fl : Flash) : FlashWrite → Flash
  | .sparing _ => fl
  | .node v => { fl with nodeStored := v }
  | .nomRate v => { fl with nomRate := v }
  | .datRate v => { fl with datRate := v }
  | .training v => { fl with training := v }
  | .regulators l => { fl with regulators := l }
  | .trainRecs l => { fl with trainRecs := l }
  | .persist l => { fl with persist := l }

/-- FLASH_WRITE_COMPLETE (R418): the oldest record write ends and its previous copy is invalidated, or fails its read-back, is logged, and
leaves the previous copy for the next reset (assumption 90). -/
def flashDone (s : State) (ok : Bool) : State :=
  match s.boot.flashWrites with
  | [] => s
  | w :: rest =>
    let s := { s with boot := { s.boot with flashWrites := rest, flash := if ok then flashTaken s.boot.flash w else s.boot.flash } }
    let s := match w with
      | .sparing p => { s with rel := { s.rel with
          sparing := if ok then s.rel.sparing ++ [p] else s.rel.sparing
          sparingPend := s.rel.sparingPend.drop 1 } }
      | _ => s
    if ok then s else logErr 0x60 5 6 0 7 0 s

/-! ## The commands -/

/-- DEVICE_FAULT (R397). -/
def execDeviceFault (kind : BitVec 8) (s : State) : Host.Outcome State Fault Refusal := .next (deviceFault s kind.toNat)

/-- ERROR_LOG_APPEND (R403). -/
def execErrorLogAppend (s : State) : Host.Outcome State Fault Refusal := .next (appendLog s)

/-- FLASH_WRITE_COMPLETE (R418). -/
def execFlashWriteComplete (ok : Bool) (s : State) : Host.Outcome State Fault Refusal := .next (flashDone s ok)

end Sys2Proof.Machine
end

