-- ==== Sys2Proof/Machine/Objects.lean ====
section
/-! DEFINITION. The objects of the dictionary: which exist, their types, access codes and rights, and what a read gives
(13_dictionary.md and the object tables of the other chapters). -/

namespace Sys2Proof.Machine

open Sys2Proof

/-- R336: access codes. -/
inductive Acs where | ro | rw | wo | tl
  deriving DecidableEq, Repr

/-- R336 to R338: the entries of an index: its subindices, type code (R337), access, whether Serge only. -/
structure ObjRow where
  idx : Nat
  lo : Nat
  hi : Nat
  typ : Nat
  acs : Acs
  srg : Bool
  deriving DecidableEq, Repr

def row (idx lo hi typ : Nat) (acs : Acs) : ObjRow := ⟨idx, lo, hi, typ, acs, false⟩

/-- R361: identity, communication and reset. -/
def rows1 : List ObjRow :=
  [row 0x1000 1 2 2 .ro, row 0x1000 3 3 1 .ro, row 0x1000 4 4 7 .ro, row 0x1000 5 5 4 .ro, row 0x1000 6 7 3 .ro,
   row 0x1000 8 8 2 .ro, row 0x1010 1 1 1 .rw, row 0x1010 2 2 1 .ro, row 0x1010 3 4 1 .rw, row 0x1010 5 5 1 .ro,
   row 0x1011 0 0 2 .rw, row 0x1012 0 0 8 .ro, row 0x1020 1 2 1 .wo, row 0x1020 3 3 1 .ro, row 0x1030 1 2 3 .ro,
   row 0x1030 3 3 4 .ro]

/-- R292, R316, R335, R363, R431: configuration. -/
def rows2 : List ObjRow :=
  [row 0x2040 1 3 1 .tl, row 0x2050 0 0 1 .tl, row 0x2101 0 0 8 .wo, row 0x2102 1 1 2 .rw, row 0x2102 2 2 4 .ro,
   row 0x2110 0 0 1 .wo, row 0x2111 0 0 4 .ro, row 0x2120 1 64 1 .tl, row 0x2121 1 8 1 .ro, row 0x2130 0 0 4 .tl,
   row 0x2200 0 0 1 .tl, row 0x2201 0 0 1 .rw, row 0x2202 0 0 1 .tl, row 0x2203 0 0 3 .tl, row 0x2210 1 8 3 .rw,
   row 0x2211 1 8 3 .ro, row 0x2212 0 0 8 .ro, row 0x2220 1 64 1 .tl, row 0x2230 1 1 4 .ro, row 0x2230 2 3 1 .ro,
   row 0x2230 4 4 4 .ro, row 0x2230 5 6 3 .ro]

/-- R363, R388: power and temperature. -/
def rows3 : List ObjRow :=
  [row 0x3000 0 0 2 .tl, row 0x3001 1 2 2 .ro, row 0x3001 3 3 3 .ro, row 0x3001 4 5 4 .ro, row 0x3002 1 2 1 .ro,
   row 0x3003 0 0 8 .ro, row 0x3010 0 0 1 .tl, row 0x3011 1 4 5 .ro, row 0x3013 0 0 2 .tl, row 0x3014 0 0 1 .tl,
   row 0x3015 0 0 8 .rw, row 0x3016 0 0 1 .tl, row 0x3020 1 6 3 .ro, row 0x3021 0 0 8 .ro, row 0x3022 1 2 4 .ro,
   row 0x3023 1 8 4 .ro]

/-- R262, R292, R430: memory. -/
def rows4 : List ObjRow :=
  [row 0x4000 1 16 3 .ro, row 0x4001 1 16 4 .ro, row 0x4010 0 0 1 .rw, row 0x4011 0 0 4 .ro, ⟨0x4012, 0, 0, 8, .rw, true⟩,
   row 0x4020 1 16 4 .ro, row 0x4021 1 16 4 .ro, row 0x4022 0 0 8 .ro, row 0x4023 0 0 4 .ro, row 0x4030 0 0 2 .tl,
   row 0x4040 0 0 8 .wo, row 0x4041 0 0 8 .ro, row 0x4050 0 0 8 .ro, row 0x4051 0 0 8 .wo, row 0x4060 0 0 8 .wo,
   row 0x4061 1 1 3 .rw, row 0x4061 2 2 4 .ro, row 0x4062 1 2 3 .ro, row 0x4063 0 0 3 .ro, row 0x4070 1 1 4 .tl,
   row 0x4070 2 2 1 .tl, row 0x4070 3 3 2 .tl, row 0x4070 4 4 1 .tl, row 0x4070 5 5 3 .ro, row 0x4070 6 6 3 .rw,
   row 0x4070 7 7 4 .ro, row 0x4071 1 1 3 .rw, row 0x4071 2 2 2 .ro]

/-- R54, R364, R409: frames, errors, self-test. -/
def rows5 : List ObjRow :=
  [row 0x5000 0 0 1 .tl, row 0x5001 0 0 3 .tl, row 0x5010 0 0 4 .tl, row 0x5011 0 0 3 .ro, row 0x5020 0 0 1 .tl,
   row 0x5030 1 6 4 .ro, row 0x5031 0 0 8 .ro, row 0x6000 0 0 8 .ro, row 0x6001 1 2 4 .ro, row 0x6002 0 0 4 .ro,
   row 0x6003 0 0 8 .rw, row 0x6010 1 1 1 .ro, row 0x6010 2 2 2 .ro, row 0x6010 3 3 1 .ro, row 0x6010 4 5 2 .ro,
   row 0x6011 0 0 8 .ro, row 0x6020 0 0 4 .ro, row 0x6030 1 5 4 .ro, row 0x7000 0 0 8 .wo, row 0x7001 0 0 3 .ro,
   row 0x7002 0 0 8 .ro]

/-- R364, R409, R430: security and trace. -/
def rows8 : List ObjRow :=
  [row 0x8000 0 0 8 .ro, row 0x8001 0 0 8 .ro, row 0x8010 1 2 8 .wo, row 0x8010 3 3 8 .ro, row 0x8010 4 4 1 .ro,
   row 0x8020 0 0 8 .wo, row 0x8021 0 0 3 .ro, row 0x8022 0 0 1 .wo, row 0x8023 1 2 1 .ro, row 0x9000 1 1 3 .tl,
   row 0x9000 2 2 4 .tl, row 0x9000 3 3 1 .tl, row 0x9000 4 5 4 .ro, row 0x9001 0 0 8 .ro, row 0x9002 0 0 4 .ro]

def objRows : List ObjRow := rows1 ++ rows2 ++ rows3 ++ rows4 ++ rows5 ++ rows8

/-- R336, R339, R342: the object of an index and subindex, or the abort code. An unpublished object is taken to exist, as U64
(assumption 11). -/
def objFind (idx sub : Nat) : Except Nat ObjRow :=
  if 0xE000 ≤ idx then .ok ⟨idx, sub, sub, 4, .rw, true⟩
  else
    let rs := objRows.filter fun r => r.idx == idx
    if rs.isEmpty then .error 1
    else match rs.find? fun r => decide (r.lo ≤ sub ∧ sub ≤ r.hi) with
      | some r => .ok r
      | none => .error 2

/-- R337: bytes of a type of fixed size. -/
def typeSize (t : Nat) : Nat :=
  if t = 1 then 1 else if t = 2 ∨ t = 5 then 2 else if t = 3 ∨ t = 6 then 4 else if t = 4 then 8 else 0

/-- Text as bytes. -/
def ascii (x : String) : List Byte := x.toList.map fun c => BitVec.ofNat 8 c.toNat

/-! ## Values -/

/-- R424: update status. -/
def updateStatus (s : State) : Nat :=
  b2n s.boot.upSlot + 2 * b2n s.boot.upPend + 4 * b2n s.boot.upStoring.isSome + 8 * b2n s.boot.upFallbk + 16 * s.boot.upRes.toNat

/-- R49: frame-table status. -/
def ftStatus (s : State) : Nat :=
  s.fr.ftCode.toNat + 256 * s.fr.ftIndex.toNat + 2 ^ 22 * b2n (tablePending s)

/-- R323: H.STAT. -/
def hStat (s : State) : Nat :=
  b2n s.boot.ready + 2 * b2n s.fr.ft.isSome + 4 * b2n (tablePending s) + 8 * b2n s.fr.wedged
    + 16 * b2n (decide (2 ≤ s.tw.st.toNat)) + 256 * s.rel.svc.toNat

/-- R262: stack status. -/
def stackStatus (s : State) (k : Nat) : Nat :=
  let chans := (List.range 64).map fun c => chanOf s (64 * k + c)
  let fenced := fun (g : Nat) => (List.range 16).any fun c => (chanOf s (64 * k + 16 * g + c)).fenced
  let dead := (dieOf s (k / 2)).fenced
  b2n (!dead) + 2 * b2n (!dead && chans.any fun c => !c.fenced)
    + 4 * ((List.range 4).foldl (fun a g => a + b2n (fenced g || dead) * 2 ^ g) 0)
    + 64 * (chans.filter fun c => c.spareLane.isSome).length
    + 2 ^ 13 * b2n (decide (340 < (smGet 100 s.pw.sensors (160 + k)).toInt))

/-- R262: fenced channels of a stack. -/
def fencedChans (s : State) (k : Nat) : Nat :=
  (List.range 64).foldl (fun a c => a + b2n (!chanUsable s (64 * k + c)) * 2 ^ c) 0

/-- The highest of n sensors from number k, in quarter degrees. -/
def hottestOf (s : State) (k n : Nat) : Nat :=
  ((List.range n).foldl (fun (a : Int) j => max a (smGet 100 s.pw.sensors (k + j)).toInt) (-32768) % 65536).toNat

/-- R274: the pending owner of a granule: that of the last record, or, with none, of an assignment that waits (ownTargets). -/
def pendingOwner (s : State) (g : Nat) : Option (BitVec 12) :=
  let l := (s.ms.ownNext ++ s.ms.ownNext2).filter fun c => decide (c.first ≤ g ∧ g < c.first + c.count)
  ((l.filter fun c => c.late) ++ l.filter fun c => !c.late).getLast?.map fun c => c.own

/-- R292: the granule query. -/
def granuleQuery (s : State) : Nat :=
  let g := s.ms.q4061.toNat
  let p := pendingOwner s g
  (ownerOf s g).toNat + 2 ^ 12 * (match p with | some o => o.toNat | none => 0xFFF) + 2 ^ 24 * b2n p.isSome
    + 2 ^ 32 * (smGet 0 s.ms.gen g).toNat

/-- R264, R292: the root entry of the queried context. -/
def rootQuery (s : State) : Nat :=
  let r := smGet 0 s.ms.roots s.ms.q2102.toNat
  s.ms.q2102.toNat % 4096 + (if r = 0 then 0 else 2 ^ 12 + (r - 1) / 65536 * 65536)

/-- R258, R415: granules of 2 MiB that fencing makes unavailable under the interleave in effect. -/
def unavailableGranules (s : State) : Nat :=
  if s.fr.ilv then
    147456 * ((List.range 4).filter fun g => (List.range 16).any fun k => groupFenced s k g).length
  else
    18432 * ((List.range 32).filter fun n => groupFenced s (n / 4 * 2) (n % 4) || groupFenced s (n / 4 * 2 + 1) (n % 4)).length

/-- R415: the granules that are cleared under the interleave in effect: those whose first stack-local granule is, and all others. -/
def granulesCleared (s : State) : List Nat :=
  (s.ms.cleared.flatMap fun e =>
    if s.fr.ilv then (if e.1 < 36864 then (List.range 16).map fun k => 16 * e.1 + k else [])
    else if e.1 / 36864 % 2 = 0 then (List.range 2).map fun k => e.1 / 73728 * 73728 + 2 * (e.1 % 36864) + k else []).filter (granuleCleared s)

/-- R415: granules still to be cleared under the interleave in effect. -/
def granulesLeft (s : State) : Nat :=
  589824 - unavailableGranules s - ((granulesCleared s).filter fun g => !granuleFenced s (g * 0x200000)).length

/-- R431: the spread setting in effect. -/
def spreadSet (s : State) : Bool := match s.fr.spreadPend with | some b => b | none => s.fr.spreadOn

/-- Values of 0x1000 to 0x1FFF (R361) as numbers. -/
def value1 (s : State) (idx sub : Nat) : Nat :=
  match idx, sub with
  | 0x1000, 1 => 0x1F8A
  | 0x1000, 2 => 9
  | 0x1000, 3 => 0xA0
  | 0x1000, 5 => Config.serialNumber.toNat
  | 0x1000, 6 => s.boot.running.ver.toNat
  | 0x1000, 7 => Config.bootRomVersion.toNat
  | 0x1000, _ => 1
  | 0x1010, 1 => s.dict.nodeStored.toNat
  | 0x1010, 2 => s.dict.nodeStrap.toNat
  | 0x1010, 3 => s.dict.nomRate.toNat
  | 0x1010, 4 => s.dict.datRate.toNat
  | 0x1010, _ => s.dict.nodeUse.toNat
  | 0x1011, _ => s.dict.heartbeat.toNat
  | 0x1020, _ => s.dict.cause.toNat
  | 0x1030, 1 => (timestamp s).toNat % 2 ^ 32
  | 0x1030, 2 => s.dict.tsWraps.toNat
  | _, _ => (timestamp s).toNat

/-- Values of 0x2000 to 0x2FFF. -/
def value2 (s : State) (idx sub : Nat) : Nat :=
  let l := linkOf s (sub - 1)
  match idx, sub with
  | 0x2040, 1 => b2n s.dict.f19t
  | 0x2040, 2 => b2n s.dict.f19z
  | 0x2040, _ => b2n s.dict.sren
  | 0x2050, _ => b2n (spreadSet s)
  | 0x2102, 1 => s.ms.q2102.toNat
  | 0x2102, _ => rootQuery s
  | 0x2111, _ => s.ms.shootdowns
  | 0x2120, n => (smGet 0 s.tw.dieRoutes (n - 1)).toNat
  | 0x2121, n => b2n (dieOf s (n - 1)).transit
  | 0x2130, _ => s.ms.hostBase.toNat
  | 0x2200, _ => s.tw.id.toNat
  | 0x2201, _ => s.tw.prio.toNat
  | 0x2202, _ => s.tw.e.toNat
  | 0x2203, _ => s.tw.d.toNat
  | 0x2210, _ => l.status.toNat + 4 * l.lanes.toNat
  | 0x2211, _ => l.delayPs.toNat
  | 0x2220, n => (smGet 0xF s.tw.routes (n - 1)).toNat
  | 0x2230, 1 => s.tw.members.toNat
  | 0x2230, 2 => s.tw.master.toNat
  | 0x2230, 3 => s.tw.st.toNat
  | 0x2230, 4 => s.tw.gen.toNat
  | 0x2230, 5 => s.tw.admissions.toNat
  | _, _ => s.tw.departures.toNat

/-- Values of 0x3000 to 0x3FFF (R388). -/
def value3 (s : State) (idx sub : Nat) : Nat :=
  match idx, sub with
  | 0x3000, _ => s.dict.cap.toNat
  | 0x3001, 1 => (s.pw.p + 32768) / 65536
  | 0x3001, 2 => s.pw.meas
  | 0x3001, 3 => s.pw.gain.toNat
  | 0x3001, 4 => s.pw.energy.toNat
  | 0x3001, _ => s.pw.telFail
  | 0x3002, 1 => s.pw.qc
  | 0x3002, _ => s.pw.m
  | 0x3010, _ => s.pw.tthr.toNat
  | 0x3011, 1 => hottestOf s 0 160
  | 0x3011, 2 => hottestOf s 160 16
  | 0x3011, 3 => hottestOf s 176 2
  | 0x3011, _ => s.pw.hottest.toNat
  | 0x3013, _ => s.pw.iLimit.toNat
  | 0x3014, _ => s.pw.qThrottle.toNat
  | 0x3016, _ => s.pw.railRaise.toNat
  | 0x3020, n => (smGet 0 s.pw.durations n).toNat
  | 0x3022, 1 => s.pw.eventsWritten
  | 0x3022, _ => s.pw.eventsLost
  | _, n => (dieOf s (n - 1)).trips

/-- Values of 0x4000 to 0x4FFF (R262, R292). -/
def value4 (s : State) (idx sub : Nat) : Nat :=
  match idx, sub with
  | 0x4000, n => stackStatus s (n - 1)
  | 0x4001, n => fencedChans s (n - 1)
  | 0x4010, _ => s.ms.training.toNat
  | 0x4011, _ => s.ms.bringup.toNat
  | 0x4020, n => smGet 0 s.ms.correctedReads (n - 1)
  | 0x4021, n => smGet 0 s.ms.uncorrectableReads (n - 1)
  | 0x4023, _ => s.ms.lostPartial
  | 0x4030, _ => s.ms.scrubHours.toNat
  | 0x4061, 1 => s.ms.q4061.toNat
  | 0x4061, _ => granuleQuery s
  | 0x4062, 1 => s.ms.g.toNat
  | 0x4062, _ => s.ms.gWraps.toNat
  | 0x4063, _ => granulesLeft s
  | 0x4070, 1 => s.ms.hotBase.toNat
  | 0x4070, 2 => s.ms.hotM.toNat
  | 0x4070, 3 => s.ms.hotT.toNat
  | 0x4070, 4 => s.ms.hotK.toNat
  | 0x4070, 5 => s.ms.hotHead.toNat
  | 0x4070, 6 => s.ms.hotTail.toNat
  | 0x4070, _ => s.ms.hotDropped
  | 0x4071, 1 => s.ms.q4071.toNat
  | _, _ => (smGet 0 s.ms.hotCount s.ms.q4071.toNat).toNat

/-- Values of 0x5000 to 0x7FFF (R54, R364, R409). -/
def value5 (s : State) (idx sub : Nat) : Nat :=
  match idx, sub with
  | 0x5000, _ => s.fr.source.toNat
  | 0x5001, _ => s.fr.holdover.toNat
  | 0x5010, _ => s.fr.ftBase.toNat
  | 0x5011, _ => ftStatus s
  | 0x5020, _ => s.fr.wedgeK.toNat
  | 0x5030, 1 => s.fr.fnum.toNat
  | 0x5030, 2 => s.fr.overruns
  | 0x5030, 3 => s.fr.lateTiles
  | 0x5030, 4 => s.fr.replays
  | 0x5030, 5 => s.fr.edgesIgnored
  | 0x5030, _ => s.fr.substitutes
  | 0x6001, 1 => s.rel.written
  | 0x6001, _ => s.rel.lost
  | 0x6002, _ => s.rel.dropped
  | 0x6010, 1 => s.rel.svc.toNat
  | 0x6010, 2 => usableIndices s
  | 0x6010, 3 => usableDies s
  | 0x6010, 4 => usableChannels s
  | 0x6010, _ => (s.clusters.filter fun e => e.2.spareFor.isSome).length
  | 0x6020, _ => s.rel.overloads
  | 0x6030, 1 => s.rel.retriesOk
  | 0x6030, 2 => s.rel.retiredTiles
  | 0x6030, 3 => s.rel.tsCorrections
  | 0x6030, 4 => s.rel.tsUncorrectable
  | 0x6030, _ => s.rel.deviceFaults
  | _, _ => s.rel.stStatus.toNat

/-- Values of 0x8000 to 0x9FFF (R364, R409, R430). -/
def value8 (s : State) (idx sub : Nat) : Nat :=
  match idx, sub with
  | 0x8010, _ => s.boot.attState.toNat
  | 0x8021, _ => updateStatus s
  | 0x8023, 1 => s.boot.svn.toNat
  | 0x8023, _ => s.boot.revoked.toNat
  | 0x9000, 1 => s.rel.traceMask.toNat
  | 0x9000, 2 => s.rel.traceBase.toNat
  | 0x9000, 3 => s.rel.traceExp.toNat
  | 0x9000, 4 => s.rel.traceBytes
  | 0x9000, _ => s.rel.traceOver
  | _, _ => s.rel.traceDropped

/-- R341: the bytes of the value of an object that is no domain. -/
def objValue (s : State) (r : ObjRow) (sub : Nat) : List Byte :=
  let n := typeSize r.typ
  if r.typ = 7 then ascii "LZ9-0816-A0"
  else if 0xE000 ≤ r.idx then leBytes 8 (Config.vendorObject (BitVec.ofNat 16 r.idx) (BitVec.ofNat 8 sub)).toNat
  else
    let v := if r.idx < 0x2000 then value1 s r.idx sub else if r.idx < 0x3000 then value2 s r.idx sub
             else if r.idx < 0x4000 then value3 s r.idx sub else if r.idx < 0x5000 then value4 s r.idx sub
             else if r.idx < 0x8000 then value5 s r.idx sub else value8 s r.idx sub
    leBytes n (v % 2 ^ (8 * n))

/-! ## Domains -/

/-- R404: an error-log entry. -/
def logBytes (e : LogEntry) : List Byte :=
  leBytes 4 (e.code.toNat + 2 ^ 8 * e.sev.toNat + 2 ^ 12 * e.src.toNat + 2 ^ 16 * e.idx.toNat) ++ leBytes 4 e.d1.toNat
    ++ wBytes e.d2 ++ wBytes e.fnum ++ wBytes e.time

/-- R387: a throttle event. -/
def throttleBytes (e : Throttle) : List Byte :=
  leBytes 4 (e.reason.toNat + 2 ^ 4 * e.scope.toNat + 2 ^ 16 * e.index.toNat + 2 ^ 24 * e.qmin.toNat
      + 2 ^ 31 * b2n (e.dur == 0xFFFFFFFF))
    ++ leBytes 4 e.dur.toNat ++ wBytes e.start ++ wBytes e.fnum ++ leBytes 8 e.count.toNat

/-- R316: counts of a link. -/
def linkCounts (l : Link) : List Byte :=
  [l.crcFails, l.resendCount, l.retrains, l.degrades, l.ticksLost, l.dropped].flatMap fun c => leBytes 4 c.toNat

/-- R409: state of a physical tile: 0 in service, 1 retired, 2 unusable spare, 3 in an unavailable cluster. -/
def tileState (s : State) (k p : Nat) : Nat :=
  let c := clusterOf s k
  if c.unavailable then 3 else if p = 16 && c.spareBad then 2 else if c.retired.contains p then 1 else 0

/-- R372: the ceilings of a region: qc, q_th, q_cur, q_ext, droop clamp, and q, the least of them. -/
def ceilings (s : State) (r : Nat) : List Nat :=
  let d := dieOf s (r / 20)
  let l := [s.pw.qc, (regionOf s r).qth, d.qcur, s.pw.qext, if d.clamped then 16 else 64]
  l ++ [l.foldl min 64]

/-- R367: the trace ring, oldest first. -/
def traceDump (s : State) : List Byte :=
  let n := 2 ^ s.rel.traceExp.toNat / 32
  let k := min n s.rel.tracePos
  if s.rel.traceOwner = 0xFFF then []
  else (List.range k).flatMap fun j => readBytes s (s.rel.traceBase.toNat + 32 * ((s.rel.tracePos - k + j) % n)) 32

/-- R262, R316, R336: a domain of counts is empty while every count is 0, as after a full reset. -/
def countsOf (l : List Byte) : List Byte := if l.all fun b => b == 0 then [] else l

/-- R349: the snapshot of a domain. The layouts of 0x3003, 0x4022, 0x4050, 0x5031 and 0x6011 are not given (assumption 14). -/
def snapshot (s : State) (idx sub : Nat) : List Byte :=
  match idx with
  | 0x1012 => if s.dict.zdp.isEmpty then [] else (List.range 6).flatMap fun n => leBytes 4 (smGet 0 s.dict.zdp n).toNat
  | 0x2212 => countsOf ((List.range 8).flatMap fun k => linkCounts (linkOf s k))
  | 0x3003 =>
    ((List.range 160).flatMap fun r => (ceilings s r).map fun q => BitVec.ofNat 8 q)
      ++ ((List.range 178).flatMap fun k => leBytes 2 (smGet 100 s.pw.sensors k).toNat)
      ++ (List.range 8).flatMap fun d => leBytes 2 (Config.coreSetpoint d).toNat
  | 0x3015 => s.dict.regulatorsStored
  | 0x3021 => s.pw.events.flatMap throttleBytes
  | 0x4012 => s.ms.trainRecs.flatten
  | 0x4022 => countsOf ((List.range 1024).flatMap fun c =>
      (List.range 18).flatMap (fun j => leBytes 4 (smGet 0 (chanOf s c).corrected j)) ++ leBytes 4 (chanOf s c).uncorrected)
  | 0x4041 => s.ms.marginReport
  | 0x4050 => countsOf ((List.range 49152).map fun k =>
      BitVec.ofNat 8 (b2n (smGet 0 s.ms.repairsSoft k != 0) + 2 * b2n (smGet 0 s.ms.repairsHard k != 0)))
  | 0x5031 => s.fr.wedgeRec.flatMap fun i => leBytes 2 i
  | 0x6000 => s.rel.log.flatMap logBytes
  | 0x6003 => s.rel.persist.flatMap logBytes
  | 0x6011 =>
    ((List.range 640).flatMap fun k => (List.range 17).map fun p => BitVec.ofNat 8 (tileState s k p))
      ++ leBytes 1 ((List.range 8).foldl (fun a d => a + b2n (dieOf s d).fenced * 2 ^ d) 0)
      ++ (List.range 16).flatMap fun k => leBytes 8 (fencedChans s k)
  | 0x7002 => s.rel.stReport
  | 0x8000 => Config.certificate.take 16384
  | 0x8001 => leBytes 32 Config.identityKey.toNat
  | 0x8010 => if sub = 3 then s.boot.attReport else []
  | 0x9001 => traceDump s
  | _ => []

/-- R425, R426: reads that the device state refuses. -/
def readState (s : State) (idx sub : Nat) : Bool :=
  idx == 0x8010 && ((decide (3 ≤ sub) && !s.boot.identOk) || (sub == 3 && s.boot.attState == 1))

end Sys2Proof.Machine
end

