-- ==== Sys2Proof/Machine/Service.lean ====
section
/-! DEFINITION. Firmware images, attestation and self-test (16_boot_security.md, 15_reliability.md). -/

namespace Sys2Proof.Machine

open Sys2Proof

/-! ## Firmware images -/

/-- R419: the header of an image. -/
def imageHeader (img : List Byte) : Nat := leNat (img.take 128)

/-- R419: what a slot keeps of an image. -/
def imageOf (img : List Byte) : Image :=
  let h := imageHeader img
  { ver := BitVec.ofNat 32 (bitsOf h 63 32), digest := Config.sha256 (img.take 128), svn := BitVec.ofNat 8 (bitsOf h 71 64),
    key := BitVec.ofNat 2 (bitsOf h 73 72), revk := BitVec.ofNat 4 (bitsOf h 77 74), good := true }

/-- R420, R424: the first check an image fails, as the result code of the update status. A security version above 64, which R419's header
does not have, is refused as one below the fuses (DESIGN CHOICE, assumption 124). -/
def imageFails (s : State) (img : List Byte) : Option Nat :=
  let h := imageHeader img
  let i := imageOf img
  let len := bitsOf h 127 96
  let pk := (img.drop 48).take 32
  let body := (img.drop 0x2000).take len
  if img.length < 0x2000 ∨ bitsOf h 31 0 ≠ 0x395A4C5A ∨ len = 0 ∨ 16769024 < len ∨ img.length < 0x2000 + len then some 2
  else if s.boot.revoked.getLsbD i.key.toNat || Config.sha256 pk != Config.vendorKeyHash i.key then some 3
  else if i.svn.toNat < s.boot.svn.toNat ∨ 64 < i.svn.toNat then some 4
  else if !Config.slhVerify pk (img.take 128) ((img.drop 0x80).take 7856) then some 5
  else if Config.sha256 body != (img.drop 16).take 32 then some 6
  else if i.revk.getLsbD i.key.toNat then some 7
  else none

/-- FIRMWARE_IMAGE_COMMIT (R366, R423): a valid image is stored in the background; another is refused with its reason. -/
def imageCommit (img : List Byte) (s : State) : Except (Nat × State) State :=
  match imageFails s img with
  | some r => .error (0xE, { s with boot := { s.boot with upRes := BitVec.ofNat 4 r, upBuffer := false } })
  | none => .ok { s with boot := { s.boot with upStoring := some (imageOf img), upBuffer := true } }

/-- R417: the bytes of a directory copy that its CRC-32 covers (their layout: assumption 90). -/
def dirBytes (d : DirCopy) : List Byte :=
  leBytes 4 d.seq.toNat ++ [BitVec.ofNat 8 (b2n d.active), (match d.trial with | some k => BitVec.ofNat 8 (b2n k) | none => 2),
    BitVec.ofNat 8 (b2n d.tried)]

/-- R306, R417: the CRC-32 of a directory copy. -/
def dirCrc (d : DirCopy) : BitVec 32 := ~~~((dirBytes d).foldl crcByte 0xFFFFFFFF)

/-- R417: a copy whose CRC holds. -/
def dirHolds : Option DirCopy → Bool
  | some d => d.crc == dirCrc d
  | none => false

/-- R417: the copy in use: that of the higher sequence number whose CRC holds; `true` names the second one. -/
def dirInUse (b : Boot) : Option Bool :=
  match b.dirA, b.dirB with
  | some x, some y =>
    if dirHolds (some x) && dirHolds (some y) then some (decide (x.seq.toNat < y.seq.toNat))
    else if dirHolds (some x) then some false else if dirHolds (some y) then some true else none
  | x, y => if dirHolds x then some false else if dirHolds y then some true else none

/-- R417, R418: a new copy of the directory takes the place of the one not in use. -/
def writeDir (b : Boot) : Boot :=
  let d : DirCopy := { seq := b.dirSeq + 1, active := b.active, trial := b.trial, tried := b.tried, crc := 0 }
  let d := some { d with crc := dirCrc d }
  let b := { b with dirSeq := b.dirSeq + 1 }
  if dirInUse b = some false then { b with dirB := d } else { b with dirA := d }

/-- A slot's image. -/
def setSlot (b : Boot) (k : Bool) (i : Option Image) : Boot := if k then { b with slot1 := i } else { b with slot0 := i }

/-- FIRMWARE_STORE_COMPLETE (R418, R423): the slot that is not active holds the image and is named as trial. A write that fails its read-back
has overwritten the slot, and nothing is pending (assumption 124). -/
def imageStored (s : State) (ok : Bool) : State :=
  match s.boot.upStoring with
  | none => s
  | some i =>
    let b := { s.boot with upStoring := none, upBuffer := false }
    let other := !s.boot.active
    if !ok then logErr 0x60 5 6 0 7 0 { s with boot := setSlot { b with upRes := 8, upPend := false } other none }
    else { s with boot := writeDir (setSlot { b with trial := some other, tried := false, upPend := true, upRes := 1 } other (some i)) }

/-- SVN_RAISE (R422). -/
def svnRaise (s : State) : Except Nat State :=
  if s.boot.upPend then .error 7
  else .ok { s with boot := { s.boot with
    svn := if s.boot.svn.toNat < s.boot.running.svn.toNat then s.boot.running.svn else s.boot.svn
    revoked := s.boot.revoked ||| s.boot.running.revk } }

/-! ## Attestation -/

/-- ATTESTATION_NONCE (R366, R426). -/
def nonceCommit (n : List Byte) (s : State) : Except Nat State :=
  if s.boot.attState = 1 then .error 8
  else .ok { s with boot := { s.boot with nonce := n, attState := 0, attReport := [] } }

/-- R427: the entry of a selected object. -/
def attEntry (s : State) (idx sub : Nat) : Option (List Byte) :=
  match objFind idx sub with
  | .error _ => none
  | .ok r =>
    if r.acs = .wo then none
    else
      let v := if r.typ = 8 then Config.sha256 (snapshot s idx sub) else objValue s r sub
      some (leBytes 2 idx ++ leBytes 1 sub ++ leBytes 1 r.typ ++ leBytes 2 v.length ++ [0, 0] ++ v
        ++ List.replicate ((8 - v.length % 8) % 8) 0)

/-- R366: whether a path may select an object. An object without a readable value is refused too (assumption 31). -/
def selectable (srg : Bool) (idx sub : Nat) : Bool :=
  match objFind idx sub with
  | .error _ => false
  | .ok r => r.acs != .wo && (!r.srg || srg)

/-- R427: the report before its signature. -/
def attBody (s : State) (pairs : List (Nat × Nat)) : List Byte :=
  let es := pairs.flatMap fun p => match attEntry s p.1 p.2 with | some e => e | none => []
  leBytes 4 1 ++ leBytes 4 (112 + es.length + 7856) ++ wBytes Config.serialNumber ++ s.boot.nonce ++ s.boot.running.digest
    ++ leBytes 4 s.boot.running.ver.toNat ++ leBytes 1 s.boot.svn.toNat ++ leBytes 1 s.boot.revoked.toNat
    ++ leBytes 1 s.rel.svc.toNat ++ leBytes 1 s.dict.cause.toNat ++ wBytes s.fr.fnum ++ wBytes (timestamp s)
    ++ leBytes 2 pairs.length ++ leBytes 6 0 ++ es

/-- ATTESTATION_SELECTION (R366, R425, R426): the values are taken and signing starts. A selection before any nonce is refused by
state (assumption 31). A device whose identity does not match signs nothing. -/
def selectionCommit (srg : Bool) (pairs : List (Nat × Nat)) (s : State) : Except Nat State :=
  if s.boot.attState = 1 then .error 8
  else if s.boot.nonce.isEmpty then .error 7
  else if pairs.any fun p => !selectable srg p.1 p.2 then .error 6
  else if !s.boot.identOk then .ok { s with boot := { s.boot with attState := 0, attReport := [] } }
  else .ok { s with boot := { s.boot with attState := 1, attReport := attBody s pairs } }

/-- ATTESTATION_SIGNED (R426, R427). -/
def attSigned (s : State) : State :=
  if s.boot.attState ≠ 1 then s
  else { s with boot := { s.boot with attState := 2, attReport := s.boot.attReport ++ Config.slhSign s.boot.attReport } }

/-! ## Self-test -/

/-- R400: dies, stacks and groups of a command. -/
def stDies (rec : Word) : List Nat := (List.range 8).filter fun d => wBit rec (8 + d)
def stStacks (rec : Word) : List Nat := (List.range 16).filter fun k => wBit rec (16 + k)
def stGroups (rec : Word) : List Nat := (List.range 4).filter fun g => wBit rec (32 + g)
def stScope (rec : Word) : Nat := wBits rec 3 0

/-- R400: channels of a stack test. -/
def stChans (rec : Word) : List Nat :=
  (stStacks rec).flatMap fun k => (stGroups rec).flatMap fun g => (List.range 16).map fun c => 64 * k + 16 * g + c

/-- R400: a granule has bytes in a tested channel group under the interleave in effect. -/
def stHolds (s : State) (rec : Word) (g : Nat) : Bool :=
  let p := g * 0x200000
  if s.fr.ilv then !(stStacks rec).isEmpty && (stGroups rec).contains (p / 0x2000000 % 4)
  else
    let d := p / 0x2400000000
    ((stStacks rec).contains (2 * d) || (stStacks rec).contains (2 * d + 1))
      && (stGroups rec).contains (p % 0x2400000000 / 0x400000 % 4)

/-- SELF_TEST_COMMAND (R365, R400, R402). -/
def selfTestAccept (rec : Word) (s : State) : Except Nat State :=
  let sc := stScope rec
  if !noTable s || serviceBusy s then .error 7
  else if !(([1, 2, 3, 4, 5, 8, 15] : List Nat).contains sc) then .error 6
  else if sc ≠ 8 && (stDies rec).isEmpty then .error 6
  else if sc = 5 && s.ms.owner.any (fun e => stHolds s rec e.1) then .error 6
  else
    let s := { s with rel := { s.rel with stRec := some rec, stStatus := 1, stReport := [] } }
    .ok (if sc = 5 then setOut s (stChans rec) true else s)

/-- R402: targets of one scope. -/
def stTargets (rec : Word) (sc : Nat) : Nat :=
  let d := (stDies rec).length
  if sc = 1 ∨ sc = 2 ∨ sc = 3 then 1360 * d else if sc = 4 then 2 * d else if sc = 5 then (stChans rec).length
  else if sc = 15 then 4082 * d else 0

/-- R402: a report entry; TGT holds the low 14 bits of a count of targets that exceeds it (assumption 128). -/
def stEntry (scope : Nat) (pass ret sum : Bool) (target : Nat) (sig expect : Word) : List Byte :=
  leBytes 8 (scope + 16 * b2n pass + 32 * b2n ret + 64 * b2n sum + 256 * (target % 2 ^ 14)) ++ wBytes sig ++ wBytes expect

/-- R401: a physical tile fails that no retirement has taken out of service yet. -/
def stRetires (s : State) (phys : Nat) : Bool :=
  let c := clusterOf s (phys / 17)
  decide (phys / 17 < 640) &&
    (if phys % 17 = 16 then !c.spareBad && !c.retired.contains 16 else !c.retired.contains (phys % 17))

/-- R401: a tile of an unavailable cluster retires: its programs have stopped already and its store has no spare to go to. -/
def retireIdle (s : State) (phys : Nat) : State :=
  let k := phys / 17
  let p := phys % 17
  let c := clusterOf s k
  if p = 16 then recordSparing phys (setCluster s k { c with spareBad := true })
  else
    let i := 16 * k + p
    let s := setCluster s k { c with retired := c.retired ++ [p] }
    recordSparing phys (trace 8 i (logErr 0x11 2 0 i (5 + 256 * phys) (wOf (tileOf s i).pc)
      { s with rel := { s.rel with retiredTiles := s.rel.retiredTiles + 1 } }))

/-- R395, R401: a physical tile that failed with RET = 1: a tile retires, and so does the index that a spare carries; a spare standing by is
marked unusable; one to which a store is being copied takes its cluster with it. -/
def stRetire (s : State) (phys : Nat) : State :=
  let k := phys / 17
  let c := clusterOf s k
  if !stRetires s phys then s
  else if c.unavailable then retireIdle s phys
  else if phys % 17 ≠ 16 then retire s (16 * k + phys % 17) 5
  else match c.spareFor with
    | some q => retire s (16 * k + q) 5
    | none =>
      let s := recordSparing phys (setCluster s k { c with spareBad := true })
      if c.copying.isSome then loseCluster s k else s

/-- R401, R402, R405: one failing target; a controller's fails the device when its ownership SRAM does. -/
def stFail (rec : Word) (s : State) (f : TestFail) : State :=
  let n := f.target.toNat
  let sc := f.scope.toNat
  let tile := decide (sc = 1 ∨ sc = 2 ∨ sc = 3)
  let ret := tile && wBit rec 4 && stRetires s n
  let s := if sc = 5 then logErr 0x61 2 2 n sc (wOf n) s
    else if sc = 4 then logErr 0x61 2 2 (64 * n) sc (wOf n) s
    else logErr 0x61 (if ret then 4 else 2) 1 (n / 17) sc (wOf n) s
  let s := { s with rel := { s.rel with stReport := s.rel.stReport ++ stEntry sc false ret false n f.sig f.expected } }
  if ret then stRetire s n else if sc = 4 && f.owner then deviceFault s 5 else s

/-- R400, R429: what a scope leaves of the tiles of a die; a tile that has halted stays so until a full reset. -/
def stTile (sc : Nat) (t : Tile) : Tile :=
  if sc = 1 then { Tile.tested with run := if t.run == .halted then .halted else .idle }
  else if sc = 3 then
    { t with
      cache := { t.cache with scratch := [], dlines := [], ilines := [], vlines := [], reqs := [], loopBuf := [], pred := [] }
      itlb := []
      dtlb := []
      mx := { t.mx with bankA := MxBank.zero, bankB := MxBank.zero }
      cv := { t.cv with slots := [], slotsTick := [], ctr := [] } }
  else t

/-- R400: the tiles after a scope: the logic test leaves none of the tested ones as it was. -/
def stTiles (s : State) (rec : Word) (sc : Nat) : SMap Tile :=
  if sc = 1 then (List.range 8).flatMap fun d =>
    if (stDies rec).contains d then (List.range 1280).map fun j => (1280 * d + j, stTile 1 (tileOf s (1280 * d + j)))
    else s.tiles.filter fun e => e.1 / 1280 == d
  else (s.tiles.map fun e => (e.1, if (stDies rec).contains (e.1 / 1280) then stTile sc e.2 else e.2)).filter fun e => e.2 ≠ Tile.zero

/-- R34: the tile whose store an address lies in. -/
def storeTile (pa : Nat) : Option Nat := match paClass pa with | .store i _ => some i | _ => none

/-- R400: what a scope leaves of memory: tested tile stores, or tested channels, read 0. -/
def stMemory (s : State) (rec : Word) (sc : Nat) : State :=
  let inDies := fun (i : Nat) => (stDies rec).contains (i / 1280)
  let dramIn := fun (k : Nat) =>
    decide (k < 0x12000000000) &&
      (stChans rec).contains (64 * (k / 0x1200000000) + 16 * bitsOf (k % 0x1200000000) 22 21 + bitsOf k 11 8)
  let gone := fun (pa : Nat) =>
    if sc = 2 then (match storeTile pa with | some i => inDies i | none => false)
    else if sc = 5 then dramIn pa else false
  { s with ms := { s.ms with mem := s.ms.mem.filter fun e => !gone e.1, bad := s.ms.bad.filter fun k => !gone k, errs := s.ms.errs.filter fun e => !gone e.1, soft := s.ms.soft.filter fun k => !gone k } }

/-- R400: effect of one scope. -/
def stScopeEffect (rec : Word) (s : State) (sc : Nat) : State :=
  let s := stMemory s rec sc
  let s := { s with tiles := stTiles s rec sc }
  if sc = 8 then
    { s with
      rel := { s.rel with sparing := [], sparingPend := [] }
      boot := { s.boot with flashWrites := s.boot.flashWrites.filter fun w => match w with | .sparing _ => false | _ => true } }
  else s

/-- SELF_TEST_COMPLETE (R400 to R402). -/
def selfTestDone (s : State) (fails : List TestFail) : State :=
  match s.rel.stRec with
  | none => s
  | some rec =>
    let sc := stScope rec
    let n := stTargets rec sc
    let s := (if sc = 15 then [1, 2, 3, 4] else [sc]).foldl (stScopeEffect rec) s
    let s := fails.foldl (stFail rec) s
    let s := if sc = 5 then setOut s (stChans rec) false else s
    let bad := !fails.isEmpty
    { s with rel := { s.rel with
        stRec := none
        stStatus := BitVec.ofNat 32 (2 + 4 * b2n bad + 256 * n)
        stReport := s.rel.stReport ++ stEntry sc (!bad) false true n 0 0 } }

end Sys2Proof.Machine
end

