-- ==== Sys2Proof/Machine/Dictionary.lean ====
section
/-! DEFINITION. Serving the dictionary: checks, writes, records, domain transfers (13_dictionary.md). -/

namespace Sys2Proof.Machine

open Sys2Proof

/-! ## Records -/

/-- The 8 B records of a domain write. -/
def records (bs : List Byte) : List Word := (lChunks 8 (bs.length / 8) bs).map fun b => wOf (leNat b)

/-- CONTEXT_ROOT_RECORDS (R264, R277): rights first, then values; all records are latched, with a shootdown. -/
def rootsCommit (srg : Bool) (rs : List Word) (s : State) : Except Nat State :=
  if rs.any fun r => wBits r 11 0 = 0 && !srg then .error 3
  else if rs.any fun r => wBits r 11 0 = 0xFFF || (wBit r 12 && decide (0x12000000000 ≤ wBits r 43 16 * 65536)) then .error 6
  else
    let ms := if s.fr.inGap then { s.ms with rootsNext2 := s.ms.rootsNext2 ++ rs } else { s.ms with rootsNext := s.ms.rootsNext ++ rs }
    .ok (askShootdown { s with ms := ms })

/-- R274: granules of a record. -/
def ownFirst (r : Word) : Nat := wBits r 19 0
def ownCount (r : Word) : Nat := wBits r 39 20
def ownNew (r : Word) : BitVec 12 := BitVec.ofNat 12 (wBits r 51 40)

/-- R274: a record passes the last granule, or is empty. -/
def ownRange (r : Word) : Bool := decide (ownCount r = 0 ∨ 589824 < ownFirst r + ownCount r)

/-- A granule of a record. -/
def ownAny (r : Word) (p : Nat → Bool) : Bool := (List.range (ownCount r)).any fun k => p (ownFirst r + k)

/-- OWNERSHIP_RECORDS (R274, R277, R415): rights, then cleared granules, then values; records are latched, with a shootdown. -/
def ownersCommit (srg : Bool) (rs : List Word) (s : State) : Except Nat State :=
  let fenced := fun (g : Nat) => granuleFenced s (g * 0x200000)
  let rights := fun (r : Word) => ownNew r == 0 || (!ownRange r && ownAny r fun g => ownerOf s g == 0)
  if !srg && rs.any rights then .error 3
  else if rs.any fun r => !ownRange r && ownAny r fun g => !fenced g && !granuleCleared s g then .error 7
  else if rs.any fun r => ownRange r || ownAny r fenced then .error 6
  else
    let cs := rs.map fun r => (⟨ownFirst r, ownCount r, ownNew r, false⟩ : OwnChange)
    let ms := if s.fr.inGap then { s.ms with ownNext2 := s.ms.ownNext2 ++ cs } else { s.ms with ownNext := s.ms.ownNext ++ cs }
    .ok (askShootdown { s with ms := ms })

/-- R351: what a writable domain accepts: its buffer, the record size, whether the size is exact. -/
def domainSize (idx sub : Nat) : Nat × Nat × Bool :=
  match idx, sub with
  | 0x2101, _ => (32768, 8, false)
  | 0x3015, _ => (16, 1, false)
  | 0x4012, _ => (8388608, 8192, false)
  | 0x4040, _ => (8, 8, true)
  | 0x4051, _ => (8, 8, true)
  | 0x4060, _ => (32768, 8, false)
  | 0x6003, _ => (1, 1, true)
  | 0x7000, _ => (8, 8, true)
  | 0x8010, 1 => (32, 32, true)
  | 0x8010, _ => (192, 3, false)
  | _, _ => (16777216, 0, false)

/-- R348, R351: why a declared size is refused. -/
def sizeRefused (idx sub n : Nat) : Option Nat :=
  let (cap, unit, exact) := domainSize idx sub
  if exact && n != cap then some (if cap < n then 0xB else 5)
  else if cap < n then some 0xB
  else if 0 < unit && (n % unit != 0 || n == 0) then some 5
  else none

/-- The pairs of an attestation selection. -/
def attPairs (bs : List Byte) : List (Nat × Nat) :=
  (lChunks 3 (bs.length / 3) bs).map fun b => (leNat (b.take 2), leNat (b.drop 2))

/-- R344, R348: a domain write commits whole, or is refused whole; the code of a refusal, with the state (a failed image shows its
reason, R424). -/
def commitDomain (srg : Bool) (idx sub : Nat) (bs : List Byte) (s : State) : Except (Nat × State) State :=
  let keep := fun (r : Except Nat State) => match r with
    | .ok s => (Except.ok s : Except (Nat × State) State)
    | .error c => .error (c, s)
  let rec1 := wOf (leNat bs)
  match idx, sub with
  | 0x2101, _ => keep (rootsCommit srg (records bs) s)
  | 0x3015, _ => .ok (flashQueue (.regulators bs) { s with dict := { s.dict with regulatorsStored := bs } })
  | 0x4012, _ =>
    let recs := chunks (bs.length / 8192) 8192 bs
    .ok (flashQueue (.trainRecs recs) { s with ms := { s.ms with trainRecs := recs } })
  | 0x4040, _ => keep (marginAccept rec1 s)
  | 0x4051, _ => keep (repairAccept rec1 s)
  | 0x4060, _ => keep (ownersCommit srg (records bs) s)
  | 0x6003, _ => if leNat bs = 0 then .ok (flashQueue (.persist []) { s with rel := { s.rel with persist := [] } }) else .error (6, s)
  | 0x7000, _ => keep (selfTestAccept rec1 s)
  | 0x8010, 1 => keep (nonceCommit bs s)
  | 0x8010, _ => keep (selectionCommit srg (attPairs bs) s)
  | 0x8020, _ => imageCommit bs s
  | _, _ => .error (4, s)

/-! ## Single values -/

/-- R342 item 5: writes that the device state refuses. -/
def writeState (path : Path) (idx sub : Nat) (s : State) : Bool :=
  match idx, sub with
  | 0x1020, 2 => s.dict.armed != some (pathNo path)
  | 0x2200, _ => decide (2 ≤ s.tw.st.toNat)
  | 0x8022, _ => s.boot.upPend
  | _, _ => false

/-- R296: whether a die route may be set. -/
def dieRouteOk (s : State) (sub v : Nat) : Bool :=
  let a := (sub - 1) / 8
  let b := (sub - 1) % 8
  v == 0 || (decide (v ≤ 4) && decide (a ≠ b) && routeServes s v a b)

/-- The value that waits for its tick, or the one in effect. -/
def latchedOr (s : State) (idx sub : Nat) (v : Nat) : Nat :=
  match ((s.fr.tl ++ s.fr.tl2).filter fun w => w.idx.toNat == idx && w.sub.toNat == sub).getLast? with
  | some w => w.v.toNat
  | none => v

/-- R407: the one owner of the granules of a ring. -/
def ringOwner (s : State) (base n : Nat) : Option (BitVec 12) :=
  match granulesOf base n with
  | [] => none
  | g :: gs => if ownerOf s g != 0xFFF && decide (base + n ≤ 0x12000000000) && gs.all fun x => ownerOf s x == ownerOf s g
      then some (ownerOf s g) else none

/-- R407: base and size of the ring after a write. -/
def ringAfter (s : State) (sub v : Nat) : Nat × Nat :=
  (if sub = 2 then v else latchedOr s 0x9000 2 s.rel.traceBase.toNat,
   if sub = 3 then v else latchedOr s 0x9000 3 s.rel.traceExp.toNat)

/-- R407: a write of the ring is accepted when its granules have one owner. -/
def ringOk (s : State) (sub v : Nat) : Bool :=
  let (b, e) := ringAfter s sub v
  (ringOwner s b (2 ^ e)).isSome

/-- R342 item 7: whether a value is in range. -/
def valueOk (s : State) (idx sub v : Nat) : Bool :=
  match idx, sub with
  | 0x1010, 1 => decide (1 ≤ v ∧ v ≤ 127)
  | 0x1010, _ => decide (v ≤ 3)
  | 0x1020, 1 => v == 0xA5
  | 0x1020, _ => v == 0x5A
  | 0x2040, _ => decide (v ≤ 1)
  | 0x2050, _ => decide (v ≤ 1)
  | 0x2102, _ => decide (v ≤ 0xFFF)
  | 0x2110, _ => v == 1
  | 0x2120, n => dieRouteOk s n v
  | 0x2130, _ => v % 4096 == 0
  | 0x2200, _ => decide (v ≤ 63)
  | 0x2202, _ => decide (v ≤ 12)
  | 0x2203, _ => decide (1000 ≤ v ∧ v ≤ 100000)
  | 0x2220, _ => decide (v ≤ 7) || v == 0xF
  | 0x3000, _ => decide (800 ≤ v ∧ v ≤ 3000)
  | 0x3010, _ => decide (70 ≤ v ∧ v ≤ 100)
  | 0x3013, _ => decide (100 ≤ v ∧ v ≤ 500)
  | 0x3014, _ => decide (1 ≤ v ∧ v ≤ 64)
  | 0x3016, _ => decide (v ≤ 1)
  | 0x4010, _ => decide (v ≤ 1)
  | 0x4030, _ => decide (v ≤ 168)
  | 0x4061, _ => decide (v < 589824)
  | 0x4070, 1 => v % 4096 == 0 && decide (v < 0x12000000000)
  | 0x4070, 2 => decide (8 ≤ v ∧ v ≤ 20)
  | 0x4070, 4 => decide (v ≤ 20)
  | 0x4071, _ => decide (v < 2097152)
  | 0x5000, _ => decide (v ≤ 2)
  | 0x5020, _ => decide (1 ≤ v)
  | 0x8022, _ => v == 1
  | 0x9000, 2 => v % 0x200000 == 0 && ringOk s 2 v
  | 0x9000, 3 => decide (21 ≤ v ∧ v ≤ 32) && ringOk s 3 v
  | _, _ => true

/-- R362: the reset of a path is armed, or fires. -/
def resetWrite (path : Path) (sub : Nat) (s : State) : State :=
  if sub = 1 then { s with dict := { s.dict with armed := some (pathNo path) } }
  else { s with dict := { s.dict with armed := none, firing := true } }

/-- R309: a retrain at full width is commanded. -/
def retrainFull (s : State) (k : Nat) : State :=
  let l := linkOf s k
  startRetrain s k { l with failedLanes := 0, afresh := l.afresh || l.status == 3 || l.status == 0 }

/-- R5: a write of an RW or WO object takes effect at once; a setting stored in flash is written there in the background (R418, assumption
90). -/
def writeNow (path : Path) (idx sub : Nat) (v : Nat) (s : State) : State :=
  match idx, sub with
  | 0x1010, 1 => flashQueue (.node (BitVec.ofNat 8 v)) { s with dict := { s.dict with nodeStored := BitVec.ofNat 8 v } }
  | 0x1010, 3 => flashQueue (.nomRate (BitVec.ofNat 8 v)) { s with dict := { s.dict with nomRate := BitVec.ofNat 8 v } }
  | 0x1010, _ => flashQueue (.datRate (BitVec.ofNat 8 v)) { s with dict := { s.dict with datRate := BitVec.ofNat 8 v } }
  | 0x1011, _ => { s with dict := { s.dict with heartbeat := BitVec.ofNat 16 v } }
  | 0x1020, n => resetWrite path n s
  | 0x2102, _ => { s with ms := { s.ms with q2102 := BitVec.ofNat 16 v } }
  | 0x2110, _ => askShootdown s
  | 0x2201, _ => { s with tw := { s.tw with prio := BitVec.ofNat 8 v } }
  | 0x2210, n => if v.testBit 7 then retrainFull s (n - 1) else s
  | 0x4010, _ => flashQueue (.training (BitVec.ofNat 8 v)) { s with ms := { s.ms with training := BitVec.ofNat 8 v } }
  | 0x4061, _ => { s with ms := { s.ms with q4061 := BitVec.ofNat 32 v } }
  | 0x4070, _ => { s with ms := { s.ms with hotTail := BitVec.ofNat 32 v } }
  | 0x4071, _ => { s with ms := { s.ms with q4071 := BitVec.ofNat 32 v } }
  | 0x8022, _ => (match svnRaise s with | .ok s => s | .error _ => s)
  | _, _ => s

/-- R6, R407: the owner of the ring is recorded at acceptance, and in force with the ring (subindex 0 of the latch). -/
def recordRing (idx sub v : Nat) (s : State) : State :=
  if idx = 0x9000 ∧ (sub = 2 ∨ sub = 3) then
    let (b, e) := ringAfter s sub v
    match ringOwner s b (2 ^ e) with
    | some o => tickLatch 0x9000 0 (o.setWidth 64) s
    | none => s
  else s

/-! ## Requests -/

/-- R342 items 1 to 4: the object, or the code. -/
def objCheck (q : DReq) (write : Bool) : Except Nat ObjRow :=
  let idx := q.idx.toNat
  match objFind idx q.sub.toNat with
  | .error c => .error c
  | .ok r =>
    if (r.srg || (write && idx == 0x6003)) && !pathSerge q.path then .error 3
    else if (write && r.acs == .ro) || (!write && r.acs == .wo) then .error 4
    else .ok r

/-- An open transfer of a path. -/
def openAt (m : SMap DomXfer) (p : Nat) : Option DomXfer :=
  match m.find? fun e => e.1 == p with
  | some e => if e.2.closed then none else some e.2
  | none => none

/-- No transfer. -/
def noXfer : DomXfer := { idx := 0, sub := 0, closed := false, size := 0, data := [], lastT := none, lastRsp := [], pos := 0, src := none }

/-- R350: a domain write is open on an object. -/
def writeOpenOn (s : State) (idx : BitVec 16) (sub : BitVec 8) : Bool :=
  s.dict.domW.any fun e => !e.2.closed && e.2.idx == idx && e.2.sub == sub

/-- R340: a request carries more data than its path allows. -/
def tooLong (q : DReq) : Bool := q.cmd != 0xF0 && decide (pathLimit q.path < q.data.length)

/-- R341, R349: a read. -/
def serveRead (q : DReq) (s : State) : State :=
  let idx := q.idx.toNat
  let p := pathNo q.path
  match objCheck q false with
  | .error c => abortReq q c s
  | .ok r =>
    if readState s idx q.sub.toNat then abortReq q 7 s
    else if !q.data.isEmpty then abortReq q 5 s
    else if r.typ = 8 then
      if (openAt s.dict.domR p).isSome then abortReq q 8 s
      else
        let d := snapshot s idx q.sub.toNat
        let x := { noXfer with idx := q.idx, sub := q.sub, size := d.length, data := d, src := q.src }
        answerReq q 0x41 false false (leBytes 4 d.length) { s with dict := { s.dict with domR := smSet noXfer s.dict.domR p x } }
    else answerReq q 0x11 false false (objValue s r q.sub.toNat) s

/-- R341, R342: a write of a single value. -/
def serveWrite (q : DReq) (s : State) : State :=
  let idx := q.idx.toNat
  let sub := q.sub.toNat
  match objCheck q true with
  | .error c => abortReq q c s
  | .ok r =>
    if r.typ = 8 && writeOpenOn s q.idx q.sub then abortReq q 8 s
    else if idx = 0x5010 then (if q.data.length = 8 then baseWrite q (wOf (leNat q.data)) s
      else match baseRefused q s with | some s => s | none => abortReq q 5 s)
    else if writeState q.path idx sub s then abortReq q 7 s
    else if r.typ = 8 ∨ q.data.length ≠ typeSize r.typ then abortReq q 5 s
    else
      let v := leNat q.data
      if !valueOk s idx sub v then abortReq q 6 s
      else
        let s := trace 7 idx s
        if r.acs = .tl then writeDone q true (tickLatch idx sub (wOf v) (recordRing idx sub v s))
        else writeDone q false (writeNow q.path idx sub v s)

/-- R346: whether a domain is tick-latched. -/
def domainTl (idx : BitVec 16) : Bool := idx == 0x2101 || idx == 0x4060

/-- R342, R348, R350, R423: why a domain write of n bytes may not open; `lenOk` says that its request has the length of an open. -/
def openRefused (q : DReq) (n : Nat) (lenOk : Bool) (s : State) : Option Nat :=
  match objCheck q true with
  | .error c => some c
  | .ok r =>
    if r.typ ≠ 8 || !lenOk then some 5
    else if writeOpenOn s q.idx q.sub || (openAt s.dict.domW (pathNo q.path)).isSome then some 8
    else if q.idx = 0x8020 && s.boot.upStoring.isSome then some 8
    else sizeRefused q.idx.toNat q.sub.toNat n

/-- R348: a domain write opens. -/
def serveOpen (q : DReq) (s : State) : State :=
  let p := pathNo q.path
  let n := leNat q.data
  match openRefused q n (q.data.length == 4) s with
  | some c => abortReq q c s
  | none =>
      let x := { noXfer with idx := q.idx, sub := q.sub, size := n, src := q.src }
      answerReq q 0x31 false false [] { s with dict := { s.dict with domW := smSet noXfer s.dict.domW p x } }

/-- A domain write of a path ends with nothing committed. -/
def dropWrite (p : Nat) (s : State) : State :=
  let img := match openAt s.dict.domW p with | some x => x.idx == 0x8020 | none => false
  let s := { s with dict := { s.dict with domW := smSet noXfer s.dict.domW p noXfer } }
  if img then { s with boot := { s.boot with upBuffer := false } } else s

def dropRead (p : Nat) (s : State) : State := { s with dict := { s.dict with domR := smSet noXfer s.dict.domR p noXfer } }

/-- R348: a taken segment is answered; the answer is kept for a repeat. -/
def segmentTaken (q : DReq) (x : DomXfer) (bs : List Byte) (s : State) : State :=
  let x' := { x with data := if q.last then [] else bs, pos := bs.length, lastT := some q.t, closed := q.last }
  let data := if q.last && domainTl q.idx then leBytes 8 (tlFrame s) else []
  let rsp := message 0x33 q.t q.last q.idx q.sub q.tag data
  sendAnswer q rsp { s with dict := { s.dict with domW := smSet noXfer s.dict.domW (pathNo q.path) { x' with lastRsp := rsp } } }

/-- R342, R348: a segment of a domain write. A segment without an open transfer is refused by state (assumption 33). -/
def serveSegment (q : DReq) (s : State) : State :=
  let p := pathNo q.path
  match objCheck q true with
  | .error c => abortReq q c s
  | .ok _ =>
  match s.dict.domW.find? fun e => e.1 == p && e.2.idx == q.idx && e.2.sub == q.sub with
  | none => abortReq q 7 s
  | some (_, x) =>
    if x.closed && x.lastT != some q.t then abortReq q 7 s
    else if tooLong q then abortReq q 5 s
    else if x.lastT = some q.t then sendAnswer q x.lastRsp s
    else if x.lastT = none && q.t then abortReq q 9 (dropWrite p s)
    else
      let bs := x.data ++ q.data
      if x.size < bs.length then abortReq q 0xB (dropWrite p s)
      else if !q.last then
        let s := if q.idx = 0x8020 then { s with boot := { s.boot with upBuffer := true } } else s
        segmentTaken q x bs s
      else if bs.length < x.size then abortReq q 0xC (dropWrite p s)
      else match commitDomain (pathSerge q.path) q.idx.toNat q.sub.toNat bs s with
        | .ok s => segmentTaken q x bs (trace 7 q.idx.toNat s)
        | .error (c, s) => abortReq q c (dropWrite p s)

/-- R342, R349: a segment of a domain read. -/
def serveReadSegment (q : DReq) (s : State) : State :=
  let p := pathNo q.path
  match objCheck q false with
  | .error c => abortReq q c s
  | .ok _ =>
  match s.dict.domR.find? fun e => e.1 == p && e.2.idx == q.idx && e.2.sub == q.sub with
  | none => abortReq q 7 s
  | some (_, x) =>
    if x.closed && x.lastT != some q.t then abortReq q 7 s
    else if !q.data.isEmpty then abortReq q 5 s
    else if x.lastT = some q.t then sendAnswer q x.lastRsp s
    else if x.lastT = none && q.t then abortReq q 9 (dropRead p s)
    else
      let part := (x.data.drop x.pos).take (pathLimit q.path)
      let pos := x.pos + part.length
      let last := decide (x.size ≤ pos)
      let rsp := message 0x43 q.t last q.idx q.sub q.tag part
      let x' := { x with pos := pos, lastT := some q.t, lastRsp := rsp, closed := last, data := if last then [] else x.data }
      sendAnswer q rsp { s with dict := { s.dict with domR := smSet noXfer s.dict.domR p x' } }

/-- R348, R360: the device tells the requester of a transfer that it is aborted. In the mailbox the message does not end a request that is
in service. -/
def sayAborted (p : Nat) (x : DomXfer) (code : Nat) (tag : BitVec 8) (s : State) : State :=
  let bs := message 0x7F false false x.idx x.sub tag (leBytes 4 code)
  match x.src with
  | some d => managementSend d.toNat bs s
  | none =>
    if p = 1 then mailboxPost bs s else if p = 3 then canRespond bs s else emit s (.dictRsp p bs)

/-- R348, R352: what the CAN bus has not taken yet leaves ahead of a reset. -/
def canFlush (s : State) : State := s.dict.canTx.foldl (fun s _ => canDrain s) s

/-- R348: a full reset aborts every open transfer; the requester is told, by the state code (assumption 121). -/
def abortOpen (s : State) : State :=
  let told := fun (s : State) (e : Nat × DomXfer) =>
    if e.2.closed then s else let (t, s) := takeFree s; sayAborted e.1 e.2 7 (t.setWidth 8) s
  canFlush ((s.dict.domW ++ s.dict.domR).foldl told s)

/-- R348: the requester aborts its transfer; nothing is answered. -/
def serveAbort (q : DReq) (s : State) : State :=
  let p := pathNo q.path
  let mine := fun (o : Option DomXfer) => match o with | some x => x.idx == q.idx && x.sub == q.sub | none => false
  let s := if mine (openAt s.dict.domW p) then dropWrite p s else s
  let s := if mine (openAt s.dict.domR p) then dropRead p s else s
  match q.path with
  | .mailbox => { s with host := { s.host with mbBusy := false } }
  | _ => s

/-- A whole domain write, as the rows that name a record send it: opened, filled and committed in one. -/
def serveWhole (q : DReq) (s : State) : State :=
  match openRefused q q.data.length true s with
  | some c => abortReq q c s
  | none =>
    match commitDomain (pathSerge q.path) q.idx.toNat q.sub.toNat q.data s with
    | .ok s => writeDone q (domainTl q.idx) (trace 7 q.idx.toNat s)
    | .error (c, s) => abortReq q c s

/-- R344: a request takes its place among those that wait: in the order of arrival, those of one cycle by their paths. -/
def insertWaiting (q : DReq) : List DReq → List DReq
  | [] => [q]
  | r :: rs => if q.stamp = r.stamp ∧ pathNo q.path < pathNo r.path then q :: r :: rs else r :: insertWaiting q rs

/-- R340 to R344: the dictionary serves one request; while it validates a frame table the next ones wait. -/
def serveNext (q : DReq) (s : State) : State :=
  if s.fr.validating.isSome then
    { s with dict := { s.dict with waiting := insertWaiting q s.dict.waiting } }
  else match q.cmd.toNat with
    | 0x10 => serveRead q s
    | 0x20 => serveWrite q s
    | 0x30 => serveOpen q s
    | 0x32 => serveSegment q s
    | 0x42 => serveReadSegment q s
    | 0x7F => serveAbort q s
    | 0xF0 => serveWhole q s
    | _ => abortReq q 0xD s

/-- R344: a request reaches the dictionary in the running cycle. A command is one arrival: requests of one cycle come in the order of their
paths (assumption 129). -/
def serve (q : DReq) (s : State) : State := serveNext { q with stamp := s.fr.cyc } s

/-- R353: a broadcast is answered when it reads an object that exists and is no domain; every other one is dropped. -/
def serveBroadcast (q : DReq) (s : State) : State :=
  match objFind q.idx.toNat q.sub.toNat with
  | .ok r => if q.cmd = 0x10 && r.typ != 8 then serve { q with path := .zdp } s else s
  | .error _ => s

/-- R352, R353, R361: a frame on the CAN bus that is no request to this node is ignored and counted, or is a broadcast. -/
def canArrives (f : CanFrame) (q : DReq) (s : State) : State :=
  match f with
  | .broadcast => if s.dict.canSt = 2 then s else serveBroadcast q (zdpCount 0 s)
  | .short => zdpCount 1 s
  | .foreign => zdpCount 1 s
  | .error => zdpCount 2 s

/-- R340: the most data of a client's request to another package: its own path's limit and that of Twill. -/
def awayLimit : HubClient → Nat
  | .firmware => 248
  | .mailbox => 248
  | .zdp => 56

/-- R360: a message of a request goes to its package. -/
def awayMessage (r : AwayReq) (cmd : Nat) (t last : Bool) (data : List Byte) (s : State) : State :=
  managementSend r.dst.toNat (message cmd t last r.idx r.sub r.tag data) s

/-- R360: the hub sends a client's request to another package and keeps it until its response comes; nothing answers an abort. One that is
too long for its way is answered at once (R340). A whole domain write goes as its open, with its segments to follow (R348). -/
def sendAway (c : HubClient) (d : BitVec 6) (q : DReq) (s : State) : State :=
  let whole := q.cmd == 0xF0
  let r : AwayReq := ⟨c, d, q.idx, q.sub, q.tag, if whole then some q.data else none, false⟩
  let keep := fun (s : State) => { s with dict := { s.dict with away := s.dict.away ++ [r] } }
  if whole then awayMessage r 0x30 false false (leBytes 4 q.data.length) (keep s)
  else if awayLimit c < q.data.length then toClient c (message 0x7F false false q.idx q.sub q.tag (leBytes 4 5)) s
  else if q.cmd = 0x7F then
    let s := if c = .mailbox then { s with host := { s.host with mbBusy := false } } else s
    awayMessage r 0x7F q.t q.last q.data s
  else awayMessage r q.cmd.toNat q.t q.last q.data (keep s)

/-- R348, R360: the next segment of a whole domain write to another package. -/
def awaySegment (r : AwayReq) (bs : List Byte) (s : State) : State :=
  let more := bs.drop 248
  let r' := { r with rest := if more.isEmpty then none else some more, t := !r.t }
  awayMessage r 0x32 r.t more.isEmpty (bs.take 248)
    { s with dict := { s.dict with away := s.dict.away.map fun x => if x = r then r' else x } }

/-- R344, R358: the mailbox takes a submission, or discards it while it is busy. -/
def mailboxTakes (s : State) (act : State → State) : State :=
  if s.host.mbBusy then { s with host := { hostNow s with mbOvr := true, nowOvr := true } }
  else act { s with host := { s.host with mbBusy := true } }

/-- A request arrives on its path (R344, R352, R358, R360): before READY nothing is served; a mailbox that is busy discards it. -/
def submit (q : DReq) (s : State) : State :=
  if !s.boot.ready then s
  else match q.src, q.path with
    | none, .mailbox => mailboxTakes s (serve q)
    | none, .zdp => if s.dict.canSt = 2 then s else serve q (zdpCount 0 s)
    | none, .can f => canArrives f q s
    | none, .away .mailbox d => mailboxTakes s (sendAway .mailbox d q)
    | none, .away .zdp d => if s.dict.canSt = 2 then s else sendAway .zdp d q (zdpCount 0 s)
    | none, .away .firmware d => sendAway .firmware d q s
    | _, _ => serve q s

/-- R45, R344: validation ends; the requests that waited are served in order. -/
def validationDone (s : State) : State :=
  let s := baseValidated s
  s.dict.waiting.foldl (fun s q => serveNext q s) { s with dict := { s.dict with waiting := [] } }

/-- R340: a request of the bytes of a message. -/
def parseRequest (path : Path) (src : Option (BitVec 6)) (bs : List Byte) : DReq :=
  let h := leNat (bs.take 8)
  let n := bitsOf h 31 16
  { path := path, cmd := (let c := bitsOf h 7 0; if c = 0xF0 then 0xF1 else BitVec.ofNat 8 c), t := h.testBit 8,
    last := h.testBit 9, idx := BitVec.ofNat 16 (bitsOf h 47 32), sub := BitVec.ofNat 8 (bitsOf h 55 48),
    tag := BitVec.ofNat 8 (bitsOf h 63 56),
    data := (bs.drop 8).take n ++ List.replicate (n - (bs.length - 8)) 0, src := src, dead := false, stamp := 0 }

/-- A request of one path with a tag. -/
def plainReq (path : Path) (cmd : Nat) (idx : BitVec 16) (sub tag : BitVec 8) (data : List Byte) : DReq :=
  { path := path, cmd := BitVec.ofNat 8 cmd, t := false, last := false, idx := idx, sub := sub, tag := tag, data := data, src := none,
    dead := false, stamp := 0 }

/-- A request whose row names no tag: the requester's choice, a free value (assumption 7). -/
def taglessReq (path : Path) (cmd : Nat) (idx sub : Nat) (data : List Byte) (s : State) : State :=
  let (t, s) := takeFree s
  submit (plainReq path cmd (BitVec.ofNat 16 idx) (BitVec.ofNat 8 sub) (t.setWidth 8) data) s

/-! ## The commands -/

/-- READ (R341). -/
def execDictRead (path : Path) (idx : BitVec 16) (sub tag : BitVec 8) (s : State) : Host.Outcome State Fault Refusal :=
  .next (submit (plainReq path 0x10 idx sub tag []) s)

/-- WRITE (R341). -/
def execDictWrite (path : Path) (idx : BitVec 16) (sub tag : BitVec 8) (data : List Byte) (s : State) :
    Host.Outcome State Fault Refusal := .next (submit (plainReq path 0x20 idx sub tag data) s)

/-- DOMAIN_WRITE_OPEN (R348). -/
def execDomainWriteOpen (path : Path) (idx : BitVec 16) (sub tag : BitVec 8) (size : BitVec 32) (s : State) :
    Host.Outcome State Fault Refusal := .next (submit (plainReq path 0x30 idx sub tag (leBytes 4 size.toNat)) s)

/-- DOMAIN_WRITE_SEGMENT (R348). -/
def execDomainWriteSegment (path : Path) (idx : BitVec 16) (sub tag : BitVec 8) (t last : Bool) (data : List Byte) (s : State) :
    Host.Outcome State Fault Refusal :=
  .next (submit { plainReq path 0x32 idx sub tag data with t := t, last := last } s)

/-- DOMAIN_READ_SEGMENT (R349). -/
def execDomainReadSegment (path : Path) (idx : BitVec 16) (sub tag : BitVec 8) (t : Bool) (s : State) :
    Host.Outcome State Fault Refusal := .next (submit { plainReq path 0x42 idx sub tag [] with t := t } s)

/-- ABORT (R348). -/
def execDictAbort (path : Path) (idx : BitVec 16) (sub tag : BitVec 8) (s : State) : Host.Outcome State Fault Refusal :=
  .next (submit (plainReq path 0x7F idx sub tag []) s)

/-- DOMAIN_TRANSFER_TIMEOUT (R348, R349): 1 s without a segment closes the transfer; the device says so. -/
def execDomainTransferTimeout (path : Path) (write : Bool) (s : State) : Host.Outcome State Fault Refusal :=
  let p := pathNo path
  .next (match openAt (if write then s.dict.domW else s.dict.domR) p with
    | none => s
    | some x =>
      let (t, s) := takeFree s
      sayAborted p x 0xA (t.setWidth 8) (if write then dropWrite p s else dropRead p s))

/-- FRAME_TABLE_BASE_WRITE (R45). -/
def execFrameTableBaseWrite (path : Path) (v : Word) (s : State) : Host.Outcome State Fault Refusal :=
  .next (taglessReq path 0x20 0x5010 0 (leBytes 8 v.toNat) s)

/-- FRAME_TABLE_VALIDATION_DONE (R49). -/
def execFrameTableValidationDone (s : State) : Host.Outcome State Fault Refusal := .next (validationDone s)

/-- MARGINING_COMMAND (R259). -/
def execMarginingCommand (path : Path) (rec : Word) (s : State) : Host.Outcome State Fault Refusal :=
  .next (taglessReq path 0xF0 0x4040 0 (leBytes 8 rec.toNat) s)

/-- REPAIR_COMMAND (R260). -/
def execRepairCommand (path : Path) (rec : Word) (s : State) : Host.Outcome State Fault Refusal :=
  .next (taglessReq path 0xF0 0x4051 0 (leBytes 8 rec.toNat) s)

/-- CONTEXT_ROOT_RECORDS (R264). -/
def execContextRootRecords (path : Path) (recs : List Word) (s : State) : Host.Outcome State Fault Refusal :=
  .next (taglessReq path 0xF0 0x2101 0 (recs.flatMap fun r => leBytes 8 r.toNat) s)

/-- OWNERSHIP_RECORDS (R274). -/
def execOwnershipRecords (path : Path) (recs : List Word) (s : State) : Host.Outcome State Fault Refusal :=
  .next (taglessReq path 0xF0 0x4060 0 (recs.flatMap fun r => leBytes 8 r.toNat) s)

/-- SHOOTDOWN_REQUEST (R275). -/
def execShootdownRequest (path : Path) (v : BitVec 8) (s : State) : Host.Outcome State Fault Refusal :=
  .next (taglessReq path 0x20 0x2110 0 [v] s)

/-- DIE_ROUTE_WRITE (R296). -/
def execDieRouteWrite (path : Path) (sub v : BitVec 8) (s : State) : Host.Outcome State Fault Refusal :=
  .next (taglessReq path 0x20 0x2120 sub.toNat [v] s)

/-- LINK_RETRAIN_COMMAND (R309). -/
def execLinkRetrainCommand (path : Path) (sub : BitVec 8) (v : BitVec 32) (s : State) : Host.Outcome State Fault Refusal :=
  .next (taglessReq path 0x20 0x2210 sub.toNat (leBytes 4 v.toNat) s)

/-- RESET_ARM (R362). -/
def execResetArm (path : Path) (v : BitVec 8) (s : State) : Host.Outcome State Fault Refusal :=
  .next (taglessReq path 0x20 0x1020 1 [v] s)

/-- RESET_FIRE (R362): the full reset of the dictionary follows 1 ms after the response. -/
def execResetFire (path : Path) (v : BitVec 8) (s : State) : Host.Outcome State Fault Refusal :=
  .next (taglessReq path 0x20 0x1020 2 [v] s)

/-- RESET_ARM_EXPIRY (R362). -/
def execResetArmExpiry (s : State) : Host.Outcome State Fault Refusal :=
  .next { s with dict := { s.dict with armed := none } }

/-- SELF_TEST_COMMAND (R400). -/
def execSelfTestCommand (path : Path) (rec : Word) (s : State) : Host.Outcome State Fault Refusal :=
  .next (taglessReq path 0xF0 0x7000 0 (leBytes 8 rec.toNat) s)

/-- FIRMWARE_IMAGE_COMMIT (R423). -/
def execFirmwareImageCommit (path : Path) (image : List Byte) (s : State) : Host.Outcome State Fault Refusal :=
  .next (taglessReq path 0xF0 0x8020 0 image s)

/-- FIRMWARE_STORE_COMPLETE (R423). -/
def execFirmwareStoreComplete (ok : Bool) (s : State) : Host.Outcome State Fault Refusal := .next (imageStored s ok)

/-- ATTESTATION_NONCE (R426). -/
def execAttestationNonce (path : Path) (nonce : List Byte) (s : State) : Host.Outcome State Fault Refusal :=
  .next (taglessReq path 0xF0 0x8010 1 nonce s)

/-- ATTESTATION_SELECTION (R426). -/
def execAttestationSelection (path : Path) (pairs : List (BitVec 24)) (s : State) : Host.Outcome State Fault Refusal :=
  .next (taglessReq path 0xF0 0x8010 2 (pairs.flatMap fun p => leBytes 3 p.toNat) s)

/-- ATTESTATION_SIGNED (R426). -/
def execAttestationSigned (s : State) : Host.Outcome State Fault Refusal := .next (attSigned s)

/-- SVN_RAISE (R422). -/
def execSvnRaise (path : Path) (v : BitVec 8) (s : State) : Host.Outcome State Fault Refusal :=
  .next (taglessReq path 0x20 0x8022 0 [v] s)

/-- PERSISTENT_FAULT_CLEAR (R403). -/
def execPersistentFaultClear (path : Path) (v : BitVec 8) (s : State) : Host.Outcome State Fault Refusal :=
  .next (taglessReq path 0xF0 0x6003 0 [v] s)

/-- TRACE_RING_WRITE (R407). -/
def execTraceRingWrite (path : Path) (sub : BitVec 8) (v : Word) (s : State) : Host.Outcome State Fault Refusal :=
  .next (taglessReq path 0x20 0x9000 sub.toNat (leBytes (if sub = 2 then 8 else if sub = 3 then 1 else 4) v.toNat) s)

/-- HEARTBEAT (R357). -/
def execHeartbeat (s : State) : Host.Outcome State Fault Refusal :=
  .next (if s.dict.heartbeat = 0 ∨ !s.boot.ready ∨ s.dict.canSt = 2 then s
    else canSend 7 (leBytes 1 (hStat s % 256) ++ leBytes 1 s.rel.svc.toNat ++ leBytes 4 ((timestamp s).toNat % 2 ^ 32)
      ++ leBytes 2 (s.dict.tsWraps.toNat % 65536)) s)

/-- R356: the oldest waiting emergency is sent. -/
def sendEmergency (s : State) : State :=
  match s.dict.emergencies with
  | [] => s
  | (code, aux, fnum, ts) :: rest =>
    if s.dict.canSt = 2 ∨ s.dict.canStby then s
    else canSend 1 (leBytes 2 code.toNat ++ wBytes fnum ++ leBytes 4 ts.toNat ++ leBytes 2 aux.toNat)
      { s with dict := { s.dict with emergencies := rest } }

/-- EMERGENCY (R356). -/
def execEmergency (s : State) : Host.Outcome State Fault Refusal := .next (sendEmergency s)

/-- TIMESTAMP_WRAP (R361): the 32-bit timestamp wraps; the timebase reaches the next multiple of 2^32 µs. -/
def execTimestampWrap (s : State) : Host.Outcome State Fault Refusal :=
  .next { s with
    dict := { s.dict with tsWraps := s.dict.tsWraps + 1 }
    fr := { s.fr with now := max s.fr.now ((s.dict.tsWraps.toNat + 1) * 2 ^ 32 * 1000) } }

/-- BUS_OFF (R352): the node becomes error active (0), error passive (1) or bus-off (2); bus-off events are counted. -/
def execBusOff (st : BitVec 2) (s : State) : Host.Outcome State Fault Refusal :=
  .next (let s' := { s with dict := { s.dict with canSt := st } }
    if st = 2 && s.dict.canSt != 2 then zdpCount 3 s' else s')

end Sys2Proof.Machine
end

