-- ==== Sys2Proof/Machine/BootCore.lean ====
section
/-! DEFINITION. Full resets: assertion, the sequence after release, what survives (R396, R410 to R414, R417, R421, R445 to R451). -/

namespace Sys2Proof.Machine

open Sys2Proof

/-! ## Assertion -/

/-- R411: rank of a source, lower being higher: power-on, thermal trip, PERST#, RESET_N, dictionary. -/
def sourceRank (src : Nat) : Nat := if src = 1 then 0 else if src = 5 then 1 else src

/-- R411: the higher-ranked of two sources; 0 is none. -/
def worseSource (a b : BitVec 3) : BitVec 3 :=
  if a = 0 then b else if b = 0 then a else if sourceRank b.toNat < sourceRank a.toNat then b else a

/-- R414: what of the boot state is in flash or fused, or belongs to the test port. A slot that was being written holds no valid image
(R423; assumption 124). -/
def bootHeld (b : Boot) : Boot :=
  { b with
    slot0 := if b.upStoring.isSome && b.active then none else b.slot0
    slot1 := if b.upStoring.isSome && !b.active then none else b.slot1
    inReset := true
    ready := false
    recovery := false
    upPend := false
    upStoring := none
    upRes := 0
    upFallbk := false
    upBuffer := false
    attState := 0
    nonce := []
    attReport := []
    pwrenMem := false
    flashWrites := []
    pgFail := [] }

/-- R388: the highest of the sensors as they read. -/
def hottestNow (s : State) : BitVec 16 :=
  s.pw.sensors.foldl (fun a e => if a.toInt < e.2.toInt then e.2 else a) 100

/-- R412, R414, R418, R446: the package held in reset: what survives, the records as they are in flash, everything else at its reset value,
rails and clocks off. Stacked memory keeps its lines until the clearing passes them (R415; assumption 90). -/
def heldInReset (s : State) : State :=
  { State.reset with
    pending := s.pending
    freeCtr := s.freeCtr
    outbox := s.outbox
    dies := (List.range 8).foldl (fun m d => smSet Die.zero m d { Die.zero with pwren := false, clocks := false }) []
    host := { HostIf.zero with linkUp := false }
    dict := { Dict.zero with
      nodeStored := s.boot.flash.nodeStored
      nomRate := s.boot.flash.nomRate
      datRate := s.boot.flash.datRate
      regulatorsStored := s.boot.flash.regulators
      cause := s.dict.cause
      canStby := true }
    ms := { MemSys.zero with
      mem := s.ms.mem.filter fun e => decide (e.1 < 0x12000000000)
      bad := s.ms.bad.filter fun k => decide (k < 0x12000000000)
      errs := s.ms.errs
      training := s.boot.flash.training
      trainRecs := s.boot.flash.trainRecs
      repairsHard := s.ms.repairsHard }
    pw := { Power.zero with
      sensors := s.pw.sensors
      hottest := hottestNow s
      stackLimit := s.pw.stackLimit
      throttleLow := s.pw.throttleLow
      thermtrip := s.pw.thermtrip }
    rel := { Reliab.zero with persist := s.boot.flash.persist, sparing := s.rel.sparing, svc := 0 }
    boot := bootHeld s.boot }

/-- RESET_ASSERT (R410 to R412): a source is asserted; the dictionary's only after a fire. -/
def resetAssert (src : BitVec 3) (s : State) : State :=
  if src = 0 ∨ 5 < src.toNat ∨ (src = 4 ∧ !s.dict.firing) then s
  else
    let fresh := s.boot.ready || s.boot.recovery
    let worst := if fresh then src else worseSource s.boot.worst src
    let asserted := if s.boot.asserted.contains src then s.boot.asserted else s.boot.asserted ++ [src]
    let s := heldInReset (if src = 1 then s else abortOpen s)
    let s := { s with boot := { s.boot with asserted := asserted, worst := worst } }
    if src = 1 then { s with boot := { s.boot with tapIr := 1, tapTdo := [] } } else s

/-! ## The sequence after release -/

/-- R420, R422: a stored image may boot under the fuses as they are. -/
def imageBoots (b : Boot) (i : Option Image) : Bool :=
  match i with
  | some i => i.good && !b.revoked.getLsbD i.key.toNat && decide (b.svn.toNat ≤ i.svn.toNat)
  | none => false

def imageSlot (b : Boot) (slot : Bool) : Option Image := if slot then b.slot1 else b.slot0

/-- R421: the boot ROM's choice: the slot, and the boot state with the directory it leaves. -/
def chooseSlot (b : Boot) : Option Bool × Boot :=
  let fall := fun (b : Boot) (slot : Bool) =>
    if imageBoots b (imageSlot b slot) then (some slot, b)
    else if imageBoots b (imageSlot b !slot) then (some !slot, b)
    else (none, b)
  let clear := fun (b : Boot) => writeDir { b with trial := none, tried := false, upFallbk := true }
  match b.trial with
  | none => fall b b.active
  | some t =>
    if b.tried then fall (clear b) b.active
    else
      let b := writeDir { b with tried := true }
      if imageBoots b (imageSlot b t) then (some t, b) else fall (clear b) b.active

/-! ## The flash (R417) -/

/-- R417: the areas of the flash. -/
inductive FlashArea where | dir | slot (k : Bool) | training | settings
  deriving DecidableEq, Repr

/-- R417: the area of an offset, and the offset within it; none above 0x290_FFFF. -/
def flashArea (off : Nat) : Option (FlashArea × Nat) :=
  if off < 0x10000 then some (.dir, off)
  else if off < 0x1010000 then some (.slot false, off - 0x10000)
  else if off < 0x2010000 then some (.slot true, off - 0x1010000)
  else if off < 0x2810000 then some (.training, off - 0x2010000)
  else if off < 0x2910000 then some (.settings, off - 0x2810000)
  else none

/-- R417: a directory copy of its bytes, the CRC after the fields (the layout: assumption 90). -/
def dirOf (bs : List Byte) : DirCopy :=
  let t := bs.getD 5 2
  { seq := BitVec.ofNat 32 (leNat (bs.take 4)), active := (bs.getD 4 0).getLsbD 0,
    trial := if t = 0 then some false else if t = 1 then some true else none, tried := (bs.getD 6 0).getLsbD 0,
    crc := BitVec.ofNat 32 (leNat ((bs.drop 7).take 4)) }

/-- R257, R417: a list of records with record c replaced. -/
def setRecord (recs : List (List Byte)) (c : Nat) (r : List Byte) : List (List Byte) :=
  (recs ++ List.replicate (c + 1 - recs.length) []).set c r

/-- R417, R451: bytes written at an offset of the flash from outside: a directory copy, an image, a training record. The layout of the other
records is not in the manual, and what is written there is left out (assumption 90). -/
def programFlash (s : State) (w : Nat × List Byte) : State :=
  match flashArea w.1 with
  | some (.dir, 0) => { s with boot := { s.boot with dirA := some (dirOf w.2) } }
  | some (.dir, 0x1000) => { s with boot := { s.boot with dirB := some (dirOf w.2) } }
  | some (.slot k, 0) => { s with boot := setSlot s.boot k (if (imageFails s w.2).isNone then some (imageOf w.2) else none) }
  | some (.training, o) =>
    if o % 8192 = 0 then
      let recs := setRecord s.boot.flash.trainRecs (o / 8192) (w.2.take 8192)
      { s with ms := { s.ms with trainRecs := recs }, boot := { s.boot with flash := { s.boot.flash with trainRecs := recs } } }
    else s
  | _ => s

/-- R428, R451: what has been written to the flash from outside: in recovery, or by EXTEST while RESET_N was low. -/
def programmedFlash (br : BringUp) (s : State) : State :=
  let s := if s.boot.spiOpen then br.programmed.foldl programFlash s else s
  { s with boot := { s.boot with spiOpen := false } }

/-- R417, R421: step 2 of the boot ROM: the directory copy in use, and the slot chosen by it; without a copy whose CRC holds no image is found
(assumption 90). -/
def bootRom (b : Boot) : Option Bool × Boot :=
  match (match dirInUse b with | some true => b.dirB | some false => b.dirA | none => none) with
  | none => (none, b)
  | some d => chooseSlot { b with dirSeq := d.seq, active := d.active, trial := d.trial, tried := d.tried }

/-- R396: positions of a cluster's tiles that are out of service. -/
def outOf (out : List Nat) (k : Nat) : List Nat := (List.range 17).filter fun p => out.contains (17 * k + p)

/-- R396: a cluster is set up. -/
def clusterUp (outs : List Nat) : Cluster :=
  let tiles := outs.filter fun p => decide (p < 16)
  { Cluster.zero with
    retired := tiles
    spareBad := outs.contains 16
    spareFor := if outs.length = 1 then tiles.head? else none
    unavailable := decide (2 ≤ outs.length) }

/-- R396: the clusters that have a tile out of service. -/
def clustersUp (out : List Nat) : SMap Cluster :=
  (List.range 640).foldl (fun m k =>
    if out.any fun p => p / 17 == k then smSet Cluster.zero m k (clusterUp (outOf out k)) else m) []

/-- R24, R396, R447: a die is fenced. -/
def dieFenced (fail : List Nat) (cl : SMap Cluster) (d : Nat) : Bool :=
  fail.contains d || (List.range 80).all fun k => (smGet Cluster.zero cl (80 * d + k)).unavailable

/-- R444: whether the regulator table names the eight core regulators. -/
def coresListed (regs : List Byte) : Bool := decide (8 ≤ regs.length)

/-- R396, R297, R444, R447: the dies after the self-test. -/
def diesUp (b : Boot) (br : BringUp) (regs : List Byte) (cl : SMap Cluster) : SMap Die :=
  (List.range 8).foldl (fun m d =>
    smSet Die.zero m d { Die.zero with
      fenced := dieFenced (br.failDies ++ b.pgFail) cl d
      transit := !br.noTransit.contains d
      pwren := !b.pgFail.contains d
      clocks := !b.pgFail.contains d
      setpoint := if coresListed regs then Config.coreSetpoint d else 750 }) []

/-- R444, R445: the core setpoints are written to the regulators, in die order. -/
def writeSetpoints (s : State) : State :=
  if coresListed s.dict.regulators then
    (List.range 8).foldl (fun s d => emit s (.smbusVout (BitVec.ofNat 3 d) (Config.coreSetpoint d))) s
  else s

/-- R257: a channel is loaded from its record: the policy allows it, the record is intact, matches its stack and passes the verify. -/
def fromRecord (ms : MemSys) (br : BringUp) (c : Nat) : Bool :=
  ms.training = 0 && recMatches c (ms.trainRecs.getD c []) && !br.verifyFails.contains c

/-- R256: the settings that training makes of a channel's lanes. -/
def lanesSet (br : BringUp) (c : Nat) : List LaneSet :=
  match br.lanes.find? fun e => e.1 == c with
  | some e => e.2
  | none => []

/-- R256: a lane's eye falls below the pass limit in one of the four margin kinds. -/
def laneFails (limit : List Nat) (l : LaneSet) : Bool :=
  (List.range 4).any fun k => decide (bitsOf l.margins.toNat (8 * k + 7) (8 * k) < limit.getD k 0)

/-- R256: the lanes that fail when a channel is trained, by bit; a channel that does not train fails in all of them. -/
def lanesFailing (br : BringUp) (c : Nat) : Nat :=
  if br.untrained.contains c then 2 ^ 19 - 1
  else (List.range 19).foldl (fun a j => a + b2n (match (lanesSet br c)[j]? with | some l => laneFails br.passLimit l | none => false) * 2 ^ j) 0

/-- R256: what failed lanes make of a channel: with none the spare lane is idle, one that is data or check has its bits on the spare
lane, two or more fence the channel. -/
def channelOf (failed : Nat) (lanes : List LaneSet) : Chan :=
  match (List.range 19).filter failed.testBit with
  | [] => { Chan.zero with lanes := lanes }
  | [j] => { Chan.zero with lanes := lanes, spareLane := if j < 18 then some j else none }
  | _ => { Chan.zero with lanes := lanes, fenced := true }

/-- R256, R257: a channel after training, or after its record is loaded. -/
def chanUp (ms : MemSys) (br : BringUp) (c : Nat) : Chan :=
  if fromRecord ms br c then
    let r := ms.trainRecs.getD c []
    channelOf (recFailed r) (recLanes r)
  else channelOf (lanesFailing br c) (lanesSet br c)

/-- R256, R447: the channels after training; without memory power all of them are fenced. -/
def chansUp (b : Boot) (ms : MemSys) (br : BringUp) : SMap Chan :=
  ((List.range 1024).map fun c =>
    (c, if b.pgFail.contains 8 then { Chan.zero with fenced := true } else chanUp ms br c)).filter fun e => e.2 ≠ Chan.zero

/-- R257: the records that a bring-up leaves: a channel trained afresh has its new one, with the hard repairs of its banks. -/
def recordsUp (b : Boot) (ms : MemSys) (br : BringUp) : List (List Byte) :=
  if b.pgFail.contains 8 then ms.trainRecs
  else (List.range 1024).map fun c =>
    if fromRecord ms br c then ms.trainRecs.getD c []
    else recOf c (lanesFailing br c) (lanesSet br c) fun k => smGet 0 ms.repairsHard (48 * c + k)

/-- R415: the lines of stack-local granules are written with zeros and fresh ECC. -/
def clearLines (s : State) (ls : List Nat) : State :=
  let gone := fun (key : Nat) => ls.contains (key / 0x200000)
  { s with ms := { s.ms with
      mem := s.ms.mem.filter fun e => !gone e.1
      bad := s.ms.bad.filter fun k => !gone k
      errs := s.ms.errs.filter fun e => !gone e.1
      cleared := ls.foldl (fun m l => smSet false m l true) s.ms.cleared } }

/-- R413, R415: a granule of firmware's own is assigned to 0x000 and cleared before READY, unless it is fenced. -/
def firmwareGranule (s : State) (g : Nat) : State :=
  if 589824 ≤ g || granuleFenced s (g * 0x200000) then s
  else
    let s := clearLines s (localGranules s g)
    { s with ms := { s.ms with owner := smSet 0xFFF s.ms.owner g 0 } }

/-- R221, R413: firmware sets the handler table of a tile's Serge world and loads its latch. -/
def loadLatch (s : State) (e : Nat × BitVec 52 × List Word) : State :=
  if e.1 < 10240 then
    modTile s e.1 fun t => { t with exc := { t.exc with
      xtbS := e.2.1
      latchS := ((e.2.2.take 64).zipIdx).foldl (fun m w => smSet 0 m w.2 w.1) []
      latchedS := true } }
  else s

/-- R34, R413: firmware loads a byte of a cluster's Calico RAM. -/
def loadCalico (s : State) (e : Nat × Byte) : State :=
  if e.1 / 65536 < 640 then putByte s (0x80400020000 + e.1 / 65536 * 0x40000 + e.1 % 65536) e.2 else s

/-- R413: step 7: the Calico RAM, the latches of the Serge worlds, and firmware's granules. -/
def loadFirmware (br : BringUp) (s : State) : State :=
  br.fwGranules.foldl firmwareGranule (br.latchS.foldl loadLatch (br.calicoRam.foldl loadCalico s))

/-- R262: how the channels were brought up: from records, trained afresh, fenced. -/
def bringupWord (s : State) (br : BringUp) : BitVec 64 :=
  let up := (List.range 1024).filter (chanUsable s)
  let old := (up.filter (fromRecord s.ms br)).length
  wOf (old + 2 ^ 16 * (up.length - old) + 2 ^ 32 * (1024 - up.length))

/-- R413 steps 4 to 7 (R256, R257, R354, R396, R425, R445): what the bring-up finds and sets, short of READY. -/
def bringParts (br : BringUp) (s : State) : State :=
  let cl := clustersUp (s.rel.sparing ++ br.failTiles)
  let old := s.ms
  let recs := recordsUp s.boot old br
  let strap := br.nodeId.setWidth 8
  let s := { s with
    clusters := cl
    dies := diesUp s.boot br s.dict.regulatorsStored cl
    ms := { old with chans := chansUp s.boot old br, trainRecs := recs }
    dict := { s.dict with
      nodeStrap := strap
      nodeUse := if strap = 0 then s.dict.nodeStored else strap
      regulators := s.dict.regulatorsStored
      cause := s.boot.worst.setWidth 8
      canStby := false }
    boot := { s.boot with pwrenMem := !s.boot.pgFail.contains 8, pgFail := [], identOk := !br.identMismatch } }
  let s := if recs = old.trainRecs then s else flashQueue (.trainRecs recs) s
  let s := { s with ms := { s.ms with bringup := bringupWord { s with ms := { s.ms with trainRecs := old.trainRecs } } br } }
  loadFirmware br (writeSetpoints s)

/-- READY (R356, R398, R413, R421): hub firmware that runs a trial image makes it the active slot. -/
def becomeReady (s : State) : State :=
  let b := if s.boot.trial.isSome then writeDir { s.boot with active := s.boot.upSlot, trial := none, tried := false } else s.boot
  emergency 5 0 { s with
    boot := { b with ready := true }
    rel := { s.rel with svc := serviceLevel s } }

/-- R413 steps 4 to 7 and READY. -/
def bringUp (br : BringUp) (s : State) : State := becomeReady (bringParts br s)

/-- R450, R451: recovery of the flash: nothing else runs, and the SPI lands are free for an external programmer. -/
def recoverFlash (s : State) : State := { s with boot := { s.boot with recovery := true, ready := false, spiOpen := true } }

/-- R413, R421, R451: the sequence after every source is released. -/
def sequenceRun (br : BringUp) (s : State) : State :=
  let s := programmedFlash br { s with
    host := { s.host with linkUp := true }
    boot := { s.boot with inReset := false } }
  if br.recov then recoverFlash s
  else
    let (slot, b) := bootRom s.boot
    match slot with
    | none => recoverFlash { s with boot := b }
    | some k =>
      let img := match imageSlot b k with | some i => i | none => b.running
      let s := { s with boot := { b with upSlot := k, running := img } }
      if br.cut then s else bringUp br s

/-- R383: every sensor reads below 90 °C. -/
def allCool (s : State) : Bool := s.pw.sensors.all fun e => decide (e.2.toInt < 360)

/-- RESET_RELEASE (R410, R413). -/
def resetRelease (src : BitVec 3) (br : BringUp) (s : State) : State :=
  if !s.boot.asserted.contains src || (src == 5 && !allCool s) then s
  else
    let s := { s with
      boot := { s.boot with asserted := s.boot.asserted.erase src }
      pw := { s.pw with thermtrip := s.pw.thermtrip && src != 5 } }
    if s.boot.asserted.isEmpty then sequenceRun br s else s

end Sys2Proof.Machine
end

