-- ==== Sys2Proof/Machine/BootOps.lean ====
section
/-! DEFINITION. Reset, clearing of memory, and power-good commands (R410 to R415, R447). -/

namespace Sys2Proof.Machine

open Sys2Proof

/-- R415: the stack-local granules of a granule that the clearing has still to pass. -/
def clearing (s : State) (g : Nat) : List Nat := (localGranules s g).filter fun l => !smGet false s.ms.cleared l

/-- GRANULE_CLEARED (R415): the clearing has passed a granule that is not fenced: its stack-local granules hold zeros with fresh
ECC. -/
def clearGranule (s : State) (g : Nat) : State :=
  if !s.boot.ready || granuleFenced s (g * 0x200000) || granuleCleared s g then s
  else clearLines s (clearing s g)

/-- PGOOD_TIMEOUT (R447): a power-good does not rise in the running sequence. -/
def pgoodLate (g : Nat) (s : State) : State :=
  if s.boot.ready || s.boot.recovery || s.boot.pgFail.contains g then s
  else { s with boot := { s.boot with pgFail := s.boot.pgFail ++ [g] } }

/-- R447: the clocks of a die stop and its PWREN falls. -/
def stopDie (s : State) (d : Nat) : State := setDie s d { dieOf s d with clocks := false, pwren := false }

/-- PGOOD_FALL (R447): group d is die d, group 8 the memory. -/
def pgoodLost (g : Nat) (s : State) : State :=
  if !s.boot.ready then s
  else if g < 8 then (if (dieOf s g).pwren then deviceFault (stopDie s g) 6 else s)
  else if s.boot.pwrenMem then
    deviceFault ((List.range 8).foldl stopDie { s with boot := { s.boot with pwrenMem := false } }) 6
  else s

/-! ## The commands -/

/-- RESET_ASSERT (R412). -/
def execResetAssert (source : BitVec 3) (s : State) : Host.Outcome State Fault Refusal := .next (resetAssert source s)

/-- RESET_RELEASE (R413). -/
def execResetRelease (source : BitVec 3) (bring : BringUp) (s : State) : Host.Outcome State Fault Refusal :=
  .next (resetRelease source bring s)

/-- GRANULE_CLEARED (R415). -/
def execGranuleCleared (granule : BitVec 20) (s : State) : Host.Outcome State Fault Refusal :=
  if granule.toNat < 589824 then .next (clearGranule s granule.toNat) else .fault .noSuchUnit

/-- PGOOD_TIMEOUT (R447). -/
def execPgoodTimeout (group : BitVec 4) (s : State) : Host.Outcome State Fault Refusal :=
  if group.toNat ≤ 8 then .next (pgoodLate group.toNat s) else .fault .noSuchUnit

/-- PGOOD_FALL (R447). -/
def execPgoodFall (group : BitVec 4) (s : State) : Host.Outcome State Fault Refusal :=
  if group.toNat ≤ 8 then .next (pgoodLost group.toNat s) else .fault .noSuchUnit

end Sys2Proof.Machine
end

