-- ==== Sys2Proof/Machine/Control.lean ====
section
/-! DEFINITION. Branches, loops, library calls, flags and counters (03_tile_isa.md). -/

namespace Sys2Proof.Machine

open Sys2Proof

/-- R86: a jump to an absolute target. -/
def execBrJ (lti : BitVec 14) (target : Word) (sg : BitVec 8) (s : State) : Host.Outcome State Fault Refusal :=
  onTile lti s fun i s => issueOne s i 0x0C8 target sg

/-- R86: a jump to a relative target. -/
def execBrJr (lti : BitVec 14) (target : Word) (sg : BitVec 8) (s : State) : Host.Outcome State Fault Refusal :=
  onTile lti s fun i s => issueOne s i 0x0C9 target sg

/-- R86: a call of an absolute target. -/
def execBrCall (lti : BitVec 14) (target : Word) (sg : BitVec 8) (s : State) : Host.Outcome State Fault Refusal :=
  onTile lti s fun i s => issueOne s i 0x0CA target sg

/-- R86: a call of a relative target. -/
def execBrCallr (lti : BitVec 14) (target : Word) (sg : BitVec 8) (s : State) : Host.Outcome State Fault Refusal :=
  onTile lti s fun i s => issueOne s i 0x0CB target sg

/-- R86: the trigger of a condition; past the last condition there is a reserved port. -/
def brPort (c : BitVec 4) : Nat := if c.toNat < 10 then 0x0CC + c.toNat else 0x0D6

/-- R87: the trigger of a compare-and-branch condition; past the last there is a reserved port. -/
def cbPort (c : BitVec 3) : Nat := if c.toNat < 6 then 0x0D8 + c.toNat else 0x0DE

/-- R86: a relative branch when the condition holds. -/
def execBrConditional (lti : BitVec 14) (cond : BitVec 4) (target : Word) (sg : BitVec 8) (s : State) : Host.Outcome State Fault Refusal :=
  onTile lti s fun i s => issueOne s i (brPort cond) target sg

/-- R87: compares CB.o with b and branches to CB.tgt when the condition holds. -/
def execCbCompareBranch (lti : BitVec 14) (cond : BitVec 3) (b : Word) (sg : BitVec 8) (s : State) : Host.Outcome State Fault Refusal :=
  onTile lti s fun i s => issueOne s i (cbPort cond) b sg

/-- R88: opens a hardware loop level. -/
def execLoopStart (lti : BitVec 14) (x : Word) (sg : BitVec 8) (s : State) : Host.Outcome State Fault Refusal :=
  onTile lti s fun i s => issueOne s i 0x0E8 x sg

/-- R89: closes the x innermost levels. -/
def execLoopBrk (lti : BitVec 14) (x : Word) (sg : BitVec 8) (s : State) : Host.Outcome State Fault Refusal :=
  onTile lti s fun i s => issueOne s i 0x0E9 x sg

/-- R90: calls a Calico routine. -/
def execLibCall (lti : BitVec 14) (x : Word) (sg : BitVec 8) (s : State) : Host.Outcome State Fault Refusal :=
  onTile lti s fun i s => issueOne s i 0x0F8 x sg

/-- R96: sets flags. -/
def execWsFset (lti : BitVec 14) (x : Word) (sg : BitVec 8) (s : State) : Host.Outcome State Fault Refusal :=
  onTile lti s fun i s => issueOne s i 0x381 x sg

/-- R96: clears flags. -/
def execWsFclr (lti : BitVec 14) (x : Word) (sg : BitVec 8) (s : State) : Host.Outcome State Fault Refusal :=
  onTile lti s fun i s => issueOne s i 0x382 x sg

/-- R96: sets a counter. -/
def execWsCounterWrite (lti : BitVec 14) (n : BitVec 5) (x : Word) (sg : BitVec 8) (s : State) : Host.Outcome State Fault Refusal :=
  onTile lti s fun i s => issueOne s i (0x3A0 + n.toNat) x sg

end Sys2Proof.Machine
end

