-- ==== Sys2Proof/Machine/Convert.lean ====
section
/-! DEFINITION. The commands of the conversion unit (07_numerics.md). -/

namespace Sys2Proof.Machine

open Sys2Proof

/-- R201: queues a conversion with descriptor x. -/
def execCvCvt (lti : BitVec 14) (x : Word) (sg : BitVec 8) (s : State) : Host.Outcome State Fault Refusal :=
  onTile lti s fun i s => issueOne s i 0x320 x sg

/-- R217: queues a reduction node with descriptor x. -/
def execCvNode (lti : BitVec 14) (x : Word) (sg : BitVec 8) (s : State) : Host.Outcome State Fault Refusal :=
  onTile lti s fun i s => issueOne s i 0x321 x sg

/-- R214: queues a master-weight update with descriptor x. -/
def execCvMwu (lti : BitVec 14) (x : Word) (sg : BitVec 8) (s : State) : Host.Outcome State Fault Refusal :=
  onTile lti s fun i s => issueOne s i 0x322 x sg

/-- R205: queues a push of the running maximum with descriptor x. -/
def execCvHpush (lti : BitVec 14) (x : Word) (sg : BitVec 8) (s : State) : Host.Outcome State Fault Refusal :=
  onTile lti s fun i s => issueOne s i 0x323 x sg

/-- R206: queues a slot configuration with descriptor x. -/
def execCvSlot (lti : BitVec 14) (x : Word) (sg : BitVec 8) (s : State) : Host.Outcome State Fault Refusal :=
  onTile lti s fun i s => issueOne s i 0x324 x sg

/-- R203: the next operation starts. -/
def execCvOpStart (lti : BitVec 14) (s : State) : Host.Outcome State Fault Refusal :=
  onThawed lti s fun i s => cvStart s i

/-- R203: the started operation completes. -/
def execCvOpComplete (lti : BitVec 14) (s : State) : Host.Outcome State Fault Refusal :=
  onThawed lti s fun i s => cvComplete s i

end Sys2Proof.Machine
end

