-- ==== Sys2Proof/Machine/HostOps.lean ====
section
/-! DEFINITION. The host interface: configuration requests, BAR requests in their order, host registers, mailbox, and what the
host answers to the device's requests (12_host.md, R358, R359). -/

namespace Sys2Proof.Machine

open Sys2Proof

/-! ## Host registers -/

/-- R322: the base of BAR2, aligned to its size. -/
def bar2Base (s : State) : Nat := s.host.b2base.toNat / 2 ^ s.host.bar2Log * 2 ^ s.host.bar2Log

/-- R358: MB.ST. -/
def mbStatus (s : State) : Nat := b2n s.host.mbBusy + 2 * b2n s.host.mbDone + 4 * b2n s.host.mbOvr

/-- R321, R322, R358: the aligned 8 B word of BAR0 at an offset; reserved offsets and write-only words read 0. -/
def bar0Word (s : State) (off : Nat) : Word :=
  let w := off / 8 * 8
  match w with
  | 0x000 => 0x000100A0
  | 0x008 => wOf (hStat s)
  | 0x010 => s.fr.fnum
  | 0x018 => s.fr.frel
  | 0x020 => s.host.cxid.setWidth 64
  | 0x028 => wOf (bar2Base s)
  | 0x030 => s.host.b4pg.setWidth 64
  | 0x038 => s.host.err.setWidth 64
  | 0x040 => s.host.irqen.setWidth 64
  | 0x048 => s.host.irqst
  | 0x050 => s.host.tdiv.setWidth 64
  | 0x1FF8 => wOf (mbStatus s)
  | 0x3000 => s.host.msixPend
  | _ =>
    if 0x1000 ≤ w ∧ w < 0x1800 then wOf (leNat (smRead 0 s.host.mbReq (w - 0x1000) 8))
    else if 0x1800 ≤ w ∧ w < 0x1FF0 then wOf (leNat (smRead 0 s.host.mbRsp (w - 0x1800) 8))
    else if 0x2000 ≤ w ∧ w < 0x2400 then
      wOf ((smGet (1#128 <<< 96) s.host.msixTable ((w - 0x2000) / 16)).toNat / 2 ^ (8 * (w % 16)))
    else 0

/-- R325: a write of H.CXID. -/
def writeCxid (v : Word) (s : State) : State :=
  let c : BitVec 12 := v.setWidth 12
  if c = 0 ∨ c = 0xFFF then hostErr 5 s else { s with host := { s.host with cxid := c } }

/-- R7, R333: host clears of H.IRQST: a bit that the running cycle has set stays set, and its message leaves unless it has already; then
the causes that fall in the same cycle, which win and send. -/
def clearIrqst (v causes : Word) (s : State) : State :=
  let h := hostNow s
  let keep := v &&& h.nowIrq &&& h.irqst
  let s := { s with host := { h with irqst := h.irqst &&& ~~~v ||| keep, nowSent := h.nowSent ||| keep } }
  let s := (List.range 64).foldl (fun s k => if (keep &&& ~~~h.nowSent).getLsbD k then msixSend k s else s) s
  (List.range 64).foldl (fun s k => if causes.getLsbD k then raiseIrq k s else s) s

/-- R333: pending messages of vectors that are no longer masked leave. -/
def flushMsix (s : State) : State :=
  let free := fun (s : State) (v : Nat) => s.host.msixPend.getLsbD v && s.host.msixEn && s.host.bme && !s.host.msixMask
    && !(smGet (1#128 <<< 96) s.host.msixTable v).getLsbD 96
  (List.range 64).foldl (fun s v => if free s v then
      msixSend v { s with host := { s.host with msixPend := s.host.msixPend &&& ~~~(1#64 <<< v) } } else s) s

/-- R358: the request area accepts writes of any size, but none while BUSY. -/
def writeRequestArea (o : Nat) (bs : List Byte) (s : State) : State :=
  if s.host.mbBusy then { s with host := { hostNow s with mbOvr := true, nowOvr := true } }
  else { s with host := { s.host with mbReq := smWrite 0 s.host.mbReq o (bs.take (2048 - o)) } }

/-- One byte of the MSI-X table. -/
def tableByte (m : SMap (BitVec 128)) (o : Nat) (b : Byte) : SMap (BitVec 128) :=
  let e := smGet (1#128 <<< 96) m (o / 16)
  let sh := 8 * (o % 16)
  smSet (1#128 <<< 96) m (o / 16) ((e &&& ~~~(0xFF#128 <<< sh)) ||| (b.setWidth 128 <<< sh))

/-- R321: bytes of the MSI-X table. -/
def writeTable (o : Nat) (bs : List Byte) (s : State) : State :=
  let put := fun (m : SMap (BitVec 128)) (e : Byte × Nat) => if e.2 < 1024 then tableByte m e.2 e.1 else m
  flushMsix { s with host := { s.host with msixTable := (bs.zipIdx o).foldl put s.host.msixTable } }

/-- R358: MB.GO submits the request area. -/
def mailboxGo (s : State) : State := submit (parseRequest .mailbox none (smRead 0 s.host.mbReq 0 2048)) s

/-- R321: the words that writes of a size other than 8 B are refused for. -/
def isWordReg (off : Nat) : Bool := decide (off < 0x58) || (decide (0x1FF0 ≤ off) && decide (off < 0x2000))

/-- R322, R329, R333, R358: a write of a whole word of BAR0. What the running cycle sets wins over a clear (R7). -/
def writeWord (off : Nat) (v : Word) (s : State) : State :=
  match off with
  | 0x020 => writeCxid v s
  | 0x028 => { s with host := { s.host with b2base := (v.setWidth 44) &&& 0xFFFF0000000 } }
  | 0x030 => { s with host := { s.host with b4pg := v.setWidth 8 } }
  | 0x038 => { s with host := { s.host with err := s.host.err &&& (~~~(v.setWidth 8) ||| (hostNow s).nowErr) } }
  | 0x040 => { s with host := { s.host with irqen := v.setWidth 9 } }
  | 0x048 => clearIrqst v 0 s
  | 0x050 => { s with host := { s.host with tdiv := v.setWidth 5 } }
  | 0x1FF0 => mailboxGo s
  | 0x1FF8 => { s with host := { s.host with
      mbDone := s.host.mbDone && (!v.getLsbD 1 || (hostNow s).nowDone)
      mbOvr := s.host.mbOvr && (!v.getLsbD 2 || (hostNow s).nowOvr) } }
  | _ => s

/-- R321, R322, R358: a host write to BAR0. -/
def writeBar0 (off size : Nat) (v : Word) (s : State) : State :=
  let bs := (wBytes v).take size
  if 0x1000 ≤ off ∧ off < 0x1800 then writeRequestArea (off - 0x1000) bs s
  else if 0x2000 ≤ off ∧ off < 0x2400 then writeTable (off - 0x2000) bs s
  else if !isWordReg off then s
  else if size ≠ 8 ∨ off % 8 ≠ 0 then hostErr 6 s
  else writeWord off v s

/-- R321, R322: a host read of BAR0: the bytes of its words. -/
def readBar0 (off size : Nat) (s : State) : State :=
  emit s (.completion 0 false ((List.range size).map fun k => (wBytes (bar0Word s (off + k))).getD ((off + k) % 8) 0))

/-! ## BAR2 and BAR4 -/

/-- R325: how a host request acts: a Muslin-world access under H.CXID. -/
def hostAcc (s : State) (write : Bool) : Acc :=
  { write := write, serge := false, cxid := s.host.cxid, calOwn := none, bar := true, die := none }

/-- R317, R328: a request is refused: error bit, log entry, and an advisory non-fatal error. -/
def hostRefused (bit off : Nat) (s : State) : State :=
  let s := logErr 0x31 3 4 0 bit (wOf off) (hostErr bit s)
  { s with host := { s.host with advisory := true } }

/-- The first uncorrectable byte of a read. -/
def firstUncorrectable (s : State) (pa n : Nat) : Nat :=
  match (List.range n).find? fun j => byteRefusal s (hostAcc s false) (pa + j) == some 7 with
  | some j => pa + j
  | none => pa

/-- R325 to R328: a read of n bytes at a physical address and its completion. -/
def windowRead (off pa n : Nat) (s : State) : State :=
  if s.host.cxid = 0xFFF then emit (hostRefused 1 off s) (.completion 4 false [])
  else match checkedRead s (hostAcc s false) pa n with
    | .ok bs => emit (noteReads s pa n) (.completion 0 false bs)
    | .error r =>
      if r = 2 then emit (hostRefused 0 off s) (.completion 1 false [])
      else if r = 7 then
        emit (hostRefused 2 off (noteUncorrectable s s.host.cxid (firstUncorrectable s pa n)))
          (.completion 0 true (List.replicate n 0xFF))
      else emit (hostRefused 1 off s) (.completion 4 false [])

/-- R325 to R328: a posted write at a physical address. -/
def windowWrite (off pa : Nat) (bs : List Byte) (s : State) : State :=
  if s.host.cxid = 0xFFF then hostRefused 4 off s
  else match checkedWrite s (hostAcc s true) pa bs with
    | .ok s => s
    | .error r => hostRefused (if r = 2 then 3 else 4) off s

/-- R326: physical address of a BAR2 offset. -/
def bar2Pa (s : State) (off : Word) : Nat := bar2Base s + off.toNat % 2 ^ s.host.bar2Log

/-- R327: physical address of a BAR4 offset. -/
def bar4Pa (s : State) (off : BitVec 26) : Nat := 0x80000000000 + s.host.b4pg.toNat * 0x4000000 + off.toNat

/-- R327: page 160 and above are reserved. -/
def bar4Reserved (s : State) : Bool := decide (160 ≤ s.host.b4pg.toNat)

/-! ## The order of host requests -/

/-- R327: a request to a store that is being copied to its spare is held. -/
def hostHolds (s : State) : Instr → Bool
  | .bar2Read off len => heldByCopy s (bar2Pa s off) || heldByCopy s (bar2Pa s off + len.toNat - 1)
  | .bar2Write off data => heldByCopy s (bar2Pa s off) || heldByCopy s (bar2Pa s off + data.length - 1)
  | .bar4Read off len => heldByCopy s (bar4Pa s off) || heldByCopy s (bar4Pa s off + len.toNat - 1)
  | .bar4Write off data => heldByCopy s (bar4Pa s off) || heldByCopy s (bar4Pa s off + data.length - 1)
  | _ => false

/-- R321 to R329: the effect of a host memory request. -/
def hostPerform (s : State) : Instr → State
  | .bar2Read off len => windowRead off.toNat (bar2Pa s off) len.toNat s
  | .bar2Write off data => windowWrite off.toNat (bar2Pa s off) data s
  | .bar4Read off len =>
    if bar4Reserved s then
      (if s.host.cxid = 0xFFF then emit (hostRefused 1 off.toNat s) (.completion 4 false [])
       else emit (hostRefused 0 off.toNat s) (.completion 1 false []))
    else windowRead off.toNat (bar4Pa s off) len.toNat s
  | .bar4Write off data =>
    if bar4Reserved s then hostRefused (if s.host.cxid = 0xFFF then 4 else 3) off.toNat s
    else windowWrite off.toNat (bar4Pa s off) data s
  | .hCxidWrite v => writeCxid v s
  | .hIrqstClear v causes => clearIrqst v causes s
  | .hostRegisterWrite off size none => readBar0 off.toNat size.toNat s
  | .hostRegisterWrite off size (some data) => writeBar0 off.toNat size.toNat data s
  | .mbGo => mailboxGo s
  | _ => s

/-- R319: in D3hot memory space is disabled; a read is completed as unsupported, a write dropped (assumption 34). -/
def hostDisabled (s : State) : Instr → State
  | .bar2Read _ _ => emit s (.completion 1 false [])
  | .bar4Read _ _ => emit s (.completion 1 false [])
  | .hostRegisterWrite _ _ none => emit s (.completion 1 false [])
  | _ => s

/-- R324: a host memory request is handled after those before it. -/
def hostArrives (c : Instr) (s : State) : State :=
  if !s.host.linkUp || !s.boot.ready then s
  else if s.host.d3 then hostDisabled s c
  else if !s.host.heldReqs.isEmpty || hostHolds s c then
    { s with host := { s.host with heldReqs := s.host.heldReqs ++ [c] } }
  else hostPerform s c

/-- R327: the held requests that need not wait any longer are handled, in order. -/
def drainHeld : List Instr → State → State
  | [], s => { s with host := { s.host with heldReqs := [] } }
  | c :: cs, s => if hostHolds s c then { s with host := { s.host with heldReqs := c :: cs } } else drainHeld cs (hostPerform s c)

def hostDrain (s : State) : State := drainHeld s.host.heldReqs s

/-! ## Configuration space -/

/-- R319: configuration space and host registers at their reset values. -/
def hostReset (h : HostIf) : HostIf :=
  { HostIf.zero with
    linkUp := h.linkUp
    mbReq := h.mbReq
    mbRsp := h.mbRsp
    reqs := h.reqs
    nextTag := h.nextTag }

/-- R331: a device request fails. -/
def failReq (f : State → State) (s : State) (r : HostReq) : State :=
  f { s with host := { s.host with reqs := s.host.reqs.map fun x =>
      if x = r then { x with done := some (false, []) } else x } }

/-- R359: the responses of mailbox requests in service are discarded. -/
def orphan (q : DReq) : DReq := if q.path = .mailbox ∧ q.src = none then { q with dead := true } else q

/-- R319, R331, R359: a Hot Reset, a link disable or a link-down event. -/
def linkReset (s : State) : State :=
  let open_ := s.host.reqs.filter fun r => r.done.isNone
  let s := dropRead 1 (dropWrite 1 s)
  let s := { s with
    host := hostReset s.host
    dict := { s.dict with waiting := s.dict.waiting.map orphan, away := s.dict.away.filter fun r => r.client != .mailbox }
    fr := { s.fr with validating := s.fr.validating.map fun v => (v.1, orphan v.2) } }
  open_.foldl (fun s r => failReq (hostFailOpen r.addr) s r) s

/-- R320: log2 of the size of BAR 2 n. -/
def barLog (s : State) (n : Nat) : Nat := if n = 0 then 18 else if n = 1 then s.host.bar2Log else 26

/-- R320: a BAR as the host reads it: 64-bit, prefetchable but for BAR0, its address bits below the size read 0. -/
def barValue (s : State) (n : Nat) : Word :=
  wOf ((smGet 0 s.host.bars n).toNat / 2 ^ barLog s n * 2 ^ barLog s n + (if n = 0 then 4 else 12))

/-- R317 to R320: value of a configuration register: a type 0 header, no INTx pin, a max payload of 256 B and no function level reset, ×16 at
32 GT/s without ASPM, five speeds, BAR2 sizes from 256 MiB to 2 TiB, and zeros for what is not implemented, in PCI Express's own
layout (assumption 131). What the manual does not fix holds free values, the revision in the low byte of the class code among them. -/
def cfgRead (s : State) : PciReg → Word
  | .ids => 0x00091F8A
  | .classCode => wOf (0x12000000 + (freeAt s 0).toNat % 256)
  | .command => wOf (4 * b2n s.host.bme)
  | .bar n => if n = 3 then freeAt s 0 else barValue s n.toNat
  | .msixControl => wOf (63 + 2 ^ 14 * b2n s.host.msixMask + 2 ^ 15 * b2n s.host.msixEn)
  | .bar2Size => wOf ((s.host.bar2Log - 20) * 2 ^ 8)
  | .powerState => wOf (3 * b2n s.host.d3)
  | .deviceControl => s.host.devCtl.setWidth 64
  | .deviceControl2 => s.host.cto.setWidth 64
  | .correctableStatus => wOf (2 ^ 13 * b2n s.host.advisory)
  | .headerType => 0
  | .interruptPin => 0
  | .deviceCapabilities => (freeAt s 0 &&& ~~~0x10000007) ||| 1
  | .linkCapabilities => (freeAt s 0 &&& ~~~0xFFF) ||| 0x105
  | .linkSpeeds => 0x3E
  | .bar2Sizes => 0x3FFF000
  | .unlisted => 0
  | .other => freeAt s 0

/-- R331: Bus Master Enable goes to 0: the reads that wait behind the outstanding ones fail. -/
def failWaiting (s : State) : State :=
  if s.host.bme then s
  else (s.host.reqs.filter fun r => !r.sent && r.done.isNone).foldl (fun s r => failReq (hostFailOpen r.addr) s r) s

/-- R317 to R320, R333: a write of a configuration register. -/
def cfgWrite (s : State) (v : Word) : PciReg → State
  | .ids => s
  | .classCode => s
  | .command => failWaiting (flushMsix { s with host := { s.host with bme := v.getLsbD 2 } })
  | .bar n => if n = 3 then s else { s with host := { s.host with bars := smSet 0 s.host.bars n.toNat v } }
  | .msixControl => flushMsix { s with host := { s.host with msixMask := v.getLsbD 14, msixEn := v.getLsbD 15 } }
  | .bar2Size =>
    let n := wBits v 13 8 + 20
    if 28 ≤ n ∧ n ≤ 41 then { s with host := { s.host with bar2Log := n } } else s
  | .powerState =>
    if wBits v 1 0 = 0 then { s with host := { s.host with d3 := false } }
    else if wBits v 1 0 = 3 then { s with host := { s.host with d3 := true } }
    else s
  | .deviceControl => { s with host := { s.host with devCtl := v.setWidth 16 } }
  | .deviceControl2 => { s with host := { s.host with cto := v.setWidth 4 } }
  | .correctableStatus => { s with host := { s.host with advisory := s.host.advisory && !v.getLsbD 13 } }
  | .headerType => s
  | .interruptPin => s
  | .deviceCapabilities => s
  | .linkCapabilities => s
  | .linkSpeeds => s
  | .bar2Sizes => s
  | .unlisted => s
  | .other => s

/-- PCIE_CONFIG_REQUEST (R318): Request Retry Status before READY, else the register is read or written. -/
def configRequest (reg : PciReg) (write : Bool) (v : Word) (s : State) : State :=
  if !s.host.linkUp then s
  else if !s.boot.ready then emit s (.completion 2 false [])
  else if write then emit (cfgWrite s v reg) (.completion 0 false [])
  else emit { s with freeCtr := s.freeCtr + 1 } (.completion 0 false (wBytes (cfgRead s reg)))

/-! ## Requests of the device -/

/-- Whether the load, table read or DMA unit that a request serves still exists. -/
def reqWanted (s : State) (r : HostReq) : Bool :=
  match r.lti, r.dma with
  | some (i, k), _ =>
    let t := tileOf s i
    let latch := fun (p : Option (Word × Nat)) => match p with | some (_, w) => 2 ^ 40 + w == k | none => false
    (t.loads.any fun l => l.seq == k) || latch t.exc.latchPendM || latch t.exc.latchPendS
  | none, some (c, _) => (match (dmaChOf s (c / 4) (c % 4)).run with | some j => holdsUnit (c / 4) (c % 4) j r | none => false)
  | none, none => false

/-- A request gets its answer; one that nothing waits for is dropped. -/
def answerHostReq (s : State) (r : HostReq) (ok : Bool) (data : List Byte) : State :=
  let put := fun (x : HostReq) => if x = r then { x with done := some (ok, data) } else x
  sendHostRead { s with host := { s.host with reqs := (s.host.reqs.map put).filter fun x => x.done.isNone || reqWanted s x } }

def openReq (s : State) (tag : BitVec 10) : Option HostReq := s.host.reqs.find? fun r => r.tag == tag && r.done.isNone

/-- HOST_REQUEST_COMPLETION (R330, R331). -/
def hostCompletes (tag : BitVec 10) (status : BitVec 3) (poisoned : Bool) (data : List Byte) (s : State) : State :=
  match openReq s tag with
  | none => s
  | some r =>
    if status = 0 && !poisoned then answerHostReq s r true (data.take r.len)
    else hostFail status.toNat r.addr (answerHostReq s r false [])

/-- HOST_COMPLETION_TIMEOUT (R331). -/
def hostTimesOut (tag : BitVec 10) (s : State) : State :=
  match openReq s tag with
  | none => s
  | some r => hostFailOpen r.addr (answerHostReq s r false [])

/-! ## The commands -/

/-- PCIE_CONFIG_REQUEST (R318). -/
def execPcieConfigRequest (reg : PciReg) (write : Bool) (v : Word) (s : State) : Host.Outcome State Fault Refusal :=
  .next (configRequest reg write v s)

/-- HOT_RESET (R319). -/
def execHotReset (s : State) : Host.Outcome State Fault Refusal := .next (linkReset s)

/-- BAR2_READ (R326). -/
def execBar2Read (off : Word) (len : BitVec 13) (s : State) : Host.Outcome State Fault Refusal :=
  .next (hostArrives (.bar2Read off len) s)

/-- BAR2_WRITE (R326). -/
def execBar2Write (off : Word) (data : List Byte) (s : State) : Host.Outcome State Fault Refusal :=
  .next (hostArrives (.bar2Write off data) s)

/-- BAR4_READ (R327). -/
def execBar4Read (off : BitVec 26) (len : BitVec 13) (s : State) : Host.Outcome State Fault Refusal :=
  .next (hostArrives (.bar4Read off len) s)

/-- BAR4_WRITE (R327). -/
def execBar4Write (off : BitVec 26) (data : List Byte) (s : State) : Host.Outcome State Fault Refusal :=
  .next (hostArrives (.bar4Write off data) s)

/-- H_CXID_WRITE (R325). -/
def execHCxidWrite (v : Word) (s : State) : Host.Outcome State Fault Refusal := .next (hostArrives (.hCxidWrite v) s)

/-- R333: a clear of H.IRQST together with causes; causes happen whether or not the clear reaches the register. -/
def irqstClear (v causes : Word) (s : State) : State :=
  if s.host.linkUp && s.boot.ready && !s.host.d3 && s.host.heldReqs.isEmpty then clearIrqst v causes s
  else hostArrives (.hIrqstClear v 0) (clearIrqst 0 causes s)

/-- H_IRQST_CLEAR (R333). -/
def execHIrqstClear (v causes : Word) (s : State) : Host.Outcome State Fault Refusal := .next (irqstClear v causes s)

/-- HOST_REGISTER_WRITE (R322); without data, a host read of BAR0 (R321, R322; the table has no row for it, assumption 122). -/
def execHostRegisterWrite (off : BitVec 18) (size : BitVec 4) (data : Option Word) (s : State) :
    Host.Outcome State Fault Refusal := .next (hostArrives (.hostRegisterWrite off size data) s)

/-- MB_GO (R358). -/
def execMbGo (s : State) : Host.Outcome State Fault Refusal := .next (hostArrives .mbGo s)

/-- HOST_REQUEST_COMPLETION (R330). -/
def execHostRequestCompletion (tag : BitVec 10) (status : BitVec 3) (poisoned : Bool) (data : List Byte) (s : State) :
    Host.Outcome State Fault Refusal := .next (hostCompletes tag status poisoned data s)

/-- HOST_COMPLETION_TIMEOUT (R331). -/
def execHostCompletionTimeout (tag : BitVec 10) (s : State) : Host.Outcome State Fault Refusal := .next (hostTimesOut tag s)

/-- RESIDUE_FAULT (R390). -/
def execResidueFault (lti : BitVec 14) (unit : BitVec 4) (s : State) : Host.Outcome State Fault Refusal :=
  onTile lti s fun i s => hostDrain (residueFault s i unit)

/-- PARITY_FAULT_RETIRE (R390, R393, R394). -/
def execParityFaultRetire (lti : BitVec 14) (fault : ParityFault) (s : State) : Host.Outcome State Fault Refusal :=
  onTile lti s fun i s => hostDrain (parityFault s i fault)

/-- SPARE_REMAP (R62): the copy ends; host requests held for the store complete on the spare (R327). -/
def execSpareRemap (cluster : BitVec 10) (s : State) : Host.Outcome State Fault Refusal :=
  if cluster.toNat < 640 then .next (hostDrain (remap s cluster.toNat)) else .fault .noSuchUnit

/-- SELF_TEST_COMPLETE (R401). -/
def execSelfTestComplete (fails : List TestFail) (s : State) : Host.Outcome State Fault Refusal :=
  .next (hostDrain (selfTestDone s fails))

end Sys2Proof.Machine
end

