-- ==== Sys2Proof/Machine/LoadStore.lean ====
section
/-! DEFINITION. The load-store unit of a tile: triggers and the events that complete them (03_tile_isa.md, 04_pipeline_caches.md). -/

namespace Sys2Proof.Machine

open Sys2Proof

/-- R85: a load into LSU.rk from LSU.o plus the offset. -/
def execLsuLd (lti : BitVec 14) (k : BitVec 2) (off : Word) (sg : BitVec 8) (s : State) : Host.Outcome State Fault Refusal :=
  onTile lti s fun i s => issueOne s i (0x0B0 + k.toNat) off sg

/-- R85: a store of the low LSU.sz bytes of LSU.d. -/
def execLsuSt (lti : BitVec 14) (off : Word) (sg : BitVec 8) (s : State) : Host.Outcome State Fault Refusal :=
  onTile lti s fun i s => issueOne s i 0x0B4 off sg

/-- R113: a prefetch hint. -/
def execLsuPf (lti : BitVec 14) (off : Word) (sg : BitVec 8) (s : State) : Host.Outcome State Fault Refusal :=
  onTile lti s fun i s => issueOne s i 0x0B5 off sg

/-- R85: a fence. -/
def execLsuFence (lti : BitVec 14) (x : Word) (sg : BitVec 8) (s : State) : Host.Outcome State Fault Refusal :=
  onTile lti s fun i s => issueOne s i 0x0B6 x sg

/-- R127: the oldest load into LSU.rk receives its result, or its refusal. -/
def loadResult (s : State) (i : Nat) (k : BitVec 2) : State :=
  match (tileOf s i).loads.find? fun l => l.k == k with
  | some l => finishLoad s i l
  | none => s

/-- R127, R458: a load's data returns, or a refusal is found for it. -/
def execLoadResult (lti : BitVec 14) (k : BitVec 2) (s : State) : Host.Outcome State Fault Refusal :=
  onThawed lti s fun i s => loadResult s i k

/-- R127: the oldest handed-off store is performed, unless its destination is being copied to a spare (R62) or an earlier load to it
must read first (R119). -/
def storePerformed (s : State) (i : Nat) : State :=
  match (tileOf s i).handed with
  | e :: _ => if storeBlocked s i e then s else performStore s i e
  | [] => s

/-- R127: the oldest handed-off store is performed at its destination. -/
def execStorePerformed (lti : BitVec 14) (s : State) : Host.Outcome State Fault Refusal :=
  onTile lti s fun i s => storePerformed s i

/-- R110: a line arrives from stacked memory. -/
def execCacheLineFill (lti : BitVec 14) (code : Bool) (s : State) : Host.Outcome State Fault Refusal :=
  onTile lti s fun i s => lineArrives s i code

/-- R270: a walk ends with a leaf or with a translation fault. -/
def execTlbWalkComplete (lti : BitVec 14) (code : Bool) (s : State) : Host.Outcome State Fault Refusal :=
  onTile lti s fun i s => if code then endCodeWalk s i else endDataWalk s i

/-- R458: a pending asynchronous data abort is taken, or logged after the frame end (R52). -/
def execAsyncDataAbort (lti : BitVec 14) (s : State) : Host.Outcome State Fault Refusal :=
  onTile lti s fun i s => takeAsyncOf (fun a => a.vec == 8) s i

end Sys2Proof.Machine
end

