-- ==== Sys2Proof/Machine/Matrix.lean ====
section
/-! DEFINITION. The commands of the matrix engine (06_matrix.md). -/

namespace Sys2Proof.Machine

open Sys2Proof

/-- R170: queues an accumulation with descriptor x. -/
def execMxMma (lti : BitVec 14) (x : Word) (sg : BitVec 8) (s : State) : Host.Outcome State Fault Refusal :=
  onTile lti s fun i s => issueOne s i 0x220 x sg

/-- R171: queues a drain with descriptor x. -/
def execMxDrain (lti : BitVec 14) (x : Word) (sg : BitVec 8) (s : State) : Host.Outcome State Fault Refusal :=
  onTile lti s fun i s => issueOne s i 0x221 x sg

/-- R166: queues a table load with descriptor x. -/
def execMxLut (lti : BitVec 14) (x : Word) (sg : BitVec 8) (s : State) : Host.Outcome State Fault Refusal :=
  onTile lti s fun i s => issueOne s i 0x222 x sg

/-- R191: queues a save of both banks with descriptor x. -/
def execMxSave (lti : BitVec 14) (x : Word) (sg : BitVec 8) (s : State) : Host.Outcome State Fault Refusal :=
  onTile lti s fun i s => issueOne s i 0x223 x sg

/-- R191: queues a restore of both banks with descriptor x. -/
def execMxRestore (lti : BitVec 14) (x : Word) (sg : BitVec 8) (s : State) : Host.Outcome State Fault Refusal :=
  onTile lti s fun i s => issueOne s i 0x224 x sg

/-- R179: the next operation of one of the three units, or of all, starts. -/
def execMxOpStart (lti : BitVec 14) (unit : BitVec 2) (s : State) : Host.Outcome State Fault Refusal :=
  onThawed lti s fun i s => mxStart s i unit.toNat

/-- R180: the oldest started accumulation completes. -/
def execMxMmaComplete (lti : BitVec 14) (s : State) : Host.Outcome State Fault Refusal :=
  onThawed lti s fun i s => mmaComplete s i

/-- R185: the oldest started drain completes. -/
def execMxDrainComplete (lti : BitVec 14) (s : State) : Host.Outcome State Fault Refusal :=
  onThawed lti s fun i s => drainComplete s i

/-- R166: the table load completes. -/
def execMxLutComplete (lti : BitVec 14) (s : State) : Host.Outcome State Fault Refusal :=
  onThawed lti s fun i s => lutComplete s i

/-- R191: the save completes. -/
def execMxSaveComplete (lti : BitVec 14) (s : State) : Host.Outcome State Fault Refusal :=
  onThawed lti s fun i s => saveComplete s i

/-- R191: the restore completes. -/
def execMxRestoreComplete (lti : BitVec 14) (s : State) : Host.Outcome State Fault Refusal :=
  onThawed lti s fun i s => restoreComplete s i

/-- R187: an accumulation that overflowed runs once more at a raised scale. -/
def execMxOverflowReplay (lti : BitVec 14) (s : State) : Host.Outcome State Fault Refusal :=
  onThawed lti s fun i s => mmaReplay s i

end Sys2Proof.Machine
end

