-- ==== Sys2Proof/Machine/PowerOps.lean ====
section
/-! DEFINITION. Power, temperature, droop, THROTTLE_N and the accounting of throttling (14_power.md). -/

namespace Sys2Proof.Machine

open Sys2Proof

/-! ## Throttle accounting -/

/-- An event is that of a hold. -/
def eventOf (e : Throttle) (h : Hold) : Bool :=
  e.reason.toNat == h.reason && e.scope.toNat == h.scope && e.index.toNat == h.index

/-- R387: an entry goes to the ring of 256. -/
def writeEvent (s : State) (e : Throttle) : State :=
  let full := decide (256 ≤ s.pw.events.length)
  raiseIrq 6 { s with pw := { s.pw with
    events := (if full then s.pw.events.drop 1 else s.pw.events) ++ [e]
    eventsWritten := s.pw.eventsWritten + 1
    eventsLost := if full then s.pw.eventsLost + 1 else s.pw.eventsLost } }

/-- R387: droop events of one die that end in the same millisecond are one entry. -/
def mergeDroop (l : List Throttle) (e : Throttle) : List Throttle :=
  match l.find? fun x => x.index == e.index with
  | some x => l.map fun y => if y = x then
      { x with
        qmin := if x.qmin.toNat ≤ e.qmin.toNat then x.qmin else e.qmin
        dur := BitVec.ofNat 32 (satAdd (2 ^ 32 - 1) x.dur.toNat e.dur.toNat)
        count := x.count + e.count }
    else y
  | none => l ++ [e]

/-- R387: an event ends. -/
def endEvent (s : State) (e : Throttle) : State :=
  let s := trace 5 e.index.toNat s
  if e.reason = 3 then { s with pw := { s.pw with droopEnded := mergeDroop s.pw.droopEnded e } } else writeEvent s e

/-- R387: an event begins. -/
def beginEvent (s : State) (h : Hold) : State :=
  trace 5 h.index { s with pw := { s.pw with openEvents := s.pw.openEvents ++
    [{ reason := BitVec.ofNat 4 h.reason, scope := BitVec.ofNat 2 h.scope, index := BitVec.ofNat 8 h.index,
       qmin := BitVec.ofNat 7 h.q, dur := 1, start := timestamp s, fnum := s.pw.usFnum, count := 1 }] } }

/-- R386, R387: the microsecond that ends is accounted with the ceilings that were in force. -/
def accountMicrosecond (s : State) : State :=
  let hs := allHolds s
  let held := fun (c : Nat) => hs.any fun h => h.reason == c
  let durations := (List.range 6).foldl (fun m k =>
    if held (k + 1) then smSet 0 m (k + 1) (sat32 (smGet 0 m (k + 1))) else m) s.pw.durations
  let ended := s.pw.openEvents.filter fun e => !hs.any (eventOf e)
  let go := (s.pw.openEvents.filter fun e => hs.any (eventOf e)).map fun e =>
    match hs.find? (eventOf e) with
    | some h => { e with dur := sat32 e.dur, qmin := if e.qmin.toNat ≤ h.q then e.qmin else BitVec.ofNat 7 h.q }
    | none => e
  let new := hs.filter fun h => !s.pw.openEvents.any fun e => eventOf e h
  let s := { s with pw := { s.pw with durations := durations, openEvents := go } }
  new.foldl beginEvent (ended.foldl endEvent s)

/-- R387: the droop events of a millisecond are written when it ends. -/
def flushDroop (s : State) : State :=
  let l := s.pw.droopEnded
  l.foldl writeEvent { s with pw := { s.pw with droopEnded := [] } }

/-! ## Limiters -/

/-- Sum and number of the issue rates of the regions whose arrays issued; with none the mean is not stated: a free value
(assumption 7). -/
def meanRate (s : State) (rs : List Nat) : Nat × Nat :=
  if rs.isEmpty then (1 + (freeAt s 0).toNat % 64, 1) else ((rs.map (regionRate s)).foldl (· + ·) 0, rs.length)

/-- R373, R384: one step of a limiter on x and the matrix part of it, of a unit's 65,536 parts, against a limit, with hard limit 10 × `hard`
tenths. -/
def limiter (q x limit hard10 margin matrix : Nat) (mean : Nat × Nat) (mayRise : Bool) : Nat :=
  if 65536 * hard10 < 10 * x then max 1 (q / 2)
  else if 65536 * limit < x then
    (if matrix = 0 then q else max 1 (q - ceilDiv ((x - 65536 * limit) * mean.1) (matrix * mean.2)))
  else if x + 65536 * margin ≤ 65536 * limit && mayRise then min 64 (q + 1)
  else q

/-! ## The estimate (R368, R384) -/

/-- A sum of weighted counts. -/
def weighed (w : Nat) (l : List (Nat × Nat)) : Nat := l.foldl (fun a e => a + w * e.2) 0

/-- Matrix power of the regions that `on` admits, in units of 2^−32 W. -/
def matrixPart (a : Activity) (on : Nat → Bool) : Nat :=
  (a.cells.filter fun e => on e.1).foldl (fun p e => p + Config.cellWeight e.2.1 * e.2.2) 0

/-- Power of everything in the regions that `on` admits. -/
def regionPart (a : Activity) (on : Nat → Bool) : Nat :=
  matrixPart a on + (a.groups.filter fun e => on e.1).foldl (fun p e => p + Config.groupWeight e.2.1 * e.2.2) 0
    + weighed (Config.otherWeight 0) (a.storeLines.filter fun e => on e.1)
    + weighed (Config.otherWeight 1) (a.cvLines.filter fun e => on e.1)

/-- The setpoint of a die's core rail in mV (R444), 2 % higher while it is raised (R378). -/
def railSetpoint (s : State) (d : Nat) : Nat :=
  (dieOf s d).setpoint.toNat * (if (dieOf s d).raised.isSome then 102 else 100) / 100

/-- R368: leakage of die d, 8 the rest of the package. -/
def leakPart (s : State) (d : Nat) : Nat :=
  Config.leakage d ((List.range 178).map fun k => smGet 100 s.pw.sensors k) ((List.range 8).map (railSetpoint s))

/-- A region of die d. -/
def onDie (d r : Nat) : Bool := decide (r < 160 ∧ r / 20 = d)

/-- R384: the share of die d in the estimate: what its regions do, and its leakage. -/
def dieShare (s : State) (a : Activity) (d : Nat) : Nat := regionPart a (onDie d) + leakPart s d

/-- R368: P_est in watts. -/
def estimate (s : State) (a : Activity) : Nat :=
  ((List.range 8).foldl (fun p d => p + dieShare s a d) (leakPart s 8)
    + weighed (Config.otherWeight 2) (a.bursts.filter fun e => decide (e.1 < 1024))
    + weighed (Config.otherWeight 3) (a.turnarounds.filter fun e => decide (e.1 < 1024))
    + Config.otherWeight 4 * a.flits + Config.otherWeight 5 * a.pcie) / 2 ^ 32

/-- Regions whose arrays issued. -/
def issuing (a : Activity) : List Nat := (List.range 160).filter fun r => a.cells.any fun e => e.1 == r && decide (0 < e.2.2)

/-- R384: a power in units of 2^−32 W, calibrated by the gain, as a current of die d in units of 2^−16 A. -/
def dieCurrent (s : State) (d x : Nat) : Nat := s.pw.gain.toNat * x * 1000 / (2 ^ 32 * max 1 (railSetpoint s d))

/-- R373: the cap limiter. -/
def capLimit (s : State) (a : Activity) (mayRise : Bool) : State :=
  let q := limiter s.pw.qc s.pw.p s.dict.cap.toNat 33000 30 (s.pw.pm / 65536) (meanRate s (issuing a)) mayRise
  if q = s.pw.qc then s
  else trace 5 0 { s with pw := { s.pw with qc := q, preloaded := false } }

/-- R384: the current limiter of a die, on amperes. -/
def dieLimit (a : Activity) (rate : State) (mayRise : Bool) (s : State) (d : Nat) : State :=
  let x := dieOf s d
  let lim := s.pw.iLimit.toNat
  let mean := meanRate rate ((issuing a).filter (onDie d))
  let q := limiter x.qcur (dieCurrent rate d (dieShare rate a d)) lim (11 * lim) 10
    (dieCurrent rate d (matrixPart a (onDie d))) mean mayRise
  if q = x.qcur then s else trace 5 d (setDie s d { x with qcur := q })

/-- R375: for how long p has been above the cap with qc = 1, or has left 30 W. -/
def slotRuns (s : State) : State :=
  let cap := 65536 * s.dict.cap.toNat
  let excess := decide (cap < s.pw.p) && s.pw.qc == 1
  let under := decide (s.pw.p + 65536 * 30 ≤ cap)
  { s with pw := { s.pw with
    overRun := if excess then s.pw.overRun + 1 else 0
    underRun := if under then s.pw.underRun + 1 else 0 } }

/-- R381: regions at the operating limit get ceiling 1 at the microsecond boundary. -/
def applyTherm (s : State) : State :=
  let s' := s.pw.thermQ1.foldl (fun s r => setRegion s r { regionOf s r with qth := 1 }) s
  { s' with pw := { s'.pw with thermQ1 := [] } }

/-- PMU_MICROSECOND (R368, R371 to R373, R384 to R387): a microsecond of the timebase ends. The ceilings in force so far hold for the
first 40 cycles of the next one too (R372). -/
def microsecond (a : Activity) (s : State) : State :=
  let s := accountMicrosecond s
  let old := holdsNow s
  let est := estimate s a
  let rate := s
  let p := s.pw.gain.toNat * est
  let mayRise := s.pw.m == 8 && !((List.range 8).any fun d => (dieOf s d).clamped)
  let s := { s with
    freeCtr := s.freeCtr + 1
    fr := { s.fr with now := (s.fr.now / 1000 + 1) * 1000 }
    pw := { s.pw with
      p := p
      pm := matrixPart a (fun r => decide (r < 160))
      regionPm := (List.range 160).foldl (fun m r => smSet 0 m r (matrixPart a (fun x => x == r))) []
      usFnum := s.fr.fnum
      activity := a
      energy := s.pw.energy + wOf ((p + 32768) / 65536)
      msSum := s.pw.msSum + est
      msCount := s.pw.msCount + 1 } }
  let s := slotRuns s
  let s := (List.range 8).foldl (dieLimit a rate mayRise) (capLimit s a mayRise)
  let s := applyTherm { s with pw := { s.pw with qext := if s.pw.throttleLow then s.pw.qThrottle.toNat else 64, seen := old } }
  if s.fr.now % 1000000 = 0 then flushDroop s else s

/-- R370: the gain after a millisecond with measured power M, mean estimate sum / n. -/
def newGain (g mW sum n : Nat) : Nat := min 81920 (max 52429 ((6 * g * sum + 2 * 65536 * mW * n + 4 * sum) / (8 * sum)))

/-- CALIBRATION_MILLISECOND (R369, R370): the readings of the listed regulators. Without any estimate in the millisecond the
quotient is not stated: a free value (assumption 7). -/
def calibrate (readings : List (Option Nat)) (s : State) : State :=
  let n := s.dict.regulators.length
  let rs := (List.range n).map fun k => readings.getD k none
  let failed := (rs.filter fun r => r.isNone).length
  let mW := rs.foldl (fun a r => a + r.getD 0) 0
  let gain := if s.pw.msSum = 0 then min 81920 (max 52429 ((freeAt s 0).toNat % 2 ^ 32))
    else newGain s.pw.gain.toNat mW s.pw.msSum s.pw.msCount
  let valid := decide (0 < n) && failed == 0
  { s with
    freeCtr := s.freeCtr + 1
    pw := { s.pw with
      telFail := s.pw.telFail + failed
      meas := if valid then mW else s.pw.meas
      gain := if valid then BitVec.ofNat 32 gain else s.pw.gain
      msSum := 0
      msCount := 0 } }

/-- MEMORY_SLOT_LIMIT_STEP (R375): 100 µs above the cap beyond the first 100 lower m, 100 µs with 30 W left raise it. -/
def slotStep (s : State) : State :=
  let s := noteHolds s
  if 200 ≤ s.pw.overRun ∧ 1 < s.pw.m then
    trace 5 0 { s with pw := { s.pw with m := s.pw.m - 1, overRun := s.pw.overRun - 100 } }
  else if 100 ≤ s.pw.underRun ∧ s.pw.m < 8 then
    trace 5 0 { s with pw := { s.pw with m := s.pw.m + 1, underRun := s.pw.underRun - 100 } }
  else s

/-! ## Temperature -/

/-- R382: a stack sensor sets or lifts the slot limit of its stack. -/
def stackTemp (s : State) (k : Nat) (t : Int) : State :=
  let s := noteHolds s
  if 380 ≤ t then { s with pw := { s.pw with stackLimit := smSet false s.pw.stackLimit k true } }
  else if t ≤ 368 then { s with pw := { s.pw with stackLimit := smSet false s.pw.stackLimit k false } }
  else s

/-- R382: a stack at 85 °C or above refreshes at twice the rate; of exactly 85 °C R251 says otherwise (assumption 130). -/
def fastRefresh (s : State) (k : Nat) : Bool := decide (340 ≤ (smGet 100 s.pw.sensors (160 + k)).toInt)

/-- R380, R382, R388: a sensor is sampled; a change of a stack's refresh rate is traced (R406). -/
def sampled (n : Nat) (t : BitVec 16) (s : State) : State :=
  let was := fastRefresh s (n - 160)
  let s := { s with pw := { s.pw with
    sensors := smSet 100 s.pw.sensors n t
    hottest := if s.pw.hottest.toInt < t.toInt then t else s.pw.hottest } }
  if 160 ≤ n ∧ n < 176 then
    stackTemp (if fastRefresh s (n - 160) = was then s else trace 6 (n - 160) s) (n - 160) t.toInt
  else s

/-- R381: the thermal ceiling of a region. -/
def thermalRegion (s : State) (r : Nat) : State :=
  let t := (smGet 100 s.pw.sensors r).toInt
  let thr : Int := 4 * s.pw.tthr.toNat
  let g := regionOf s r
  if 420 ≤ t then
    logErr 0x50 2 7 r t.toNat 0 { s with pw := { s.pw with thermQ1 := s.pw.thermQ1 ++ [r] } }
  else if thr ≤ t then setRegion s r { g with qth := max 1 (g.qth - 8) }
  else if thr - 12 < t then s
  else setRegion s r { g with qth := min 64 (g.qth + 4) }

/-- R383: the temperature at which a sensor trips the package. -/
def tripLevel (n : Nat) : Int := if 160 ≤ n ∧ n < 176 then 420 else 460

/-- R356, R383: the emergency of a trip leaves, ahead of those that the reset drops: at most one is sent in a millisecond. -/
def sendTrip (s : State) : State := sendEmergency (emergency 3 0 { s with dict := { s.dict with emergencies := [] } })

/-- THERMAL_TRIP (R383, R356, R403): clocks stop, THERMTRIP_N falls, the emergency is sent, the record goes to flash, and the
package holds itself in full reset. -/
def thermalTrip (n : Nat) (t : BitVec 16) (s : State) : State :=
  if t.toInt < tripLevel n || s.pw.thermtrip then s
  else
    let e : LogEntry := { code := 0x51, sev := 5, src := 7, idx := 0, d1 := BitVec.ofNat 32 n, d2 := t.setWidth 64, fnum := s.fr.fnum,
                          time := timestamp s, cyc := s.fr.cyc }
    let p := s.rel.persist ++ [e]
    let s := sampled n t s
    let s := { s with
      pw := { s.pw with thermtrip := true }
      rel := { s.rel with persist := p.drop (p.length - 64) }
      boot := { s.boot with flash := { s.boot.flash with persist := p.drop (p.length - 64) } } }
    resetAssert 5 (if s.boot.ready then sendTrip s else s)

/-! ## The commands -/

/-- PMU_MICROSECOND (R373). -/
def execPmuMicrosecond (activity : Activity) (s : State) : Host.Outcome State Fault Refusal :=
  .next (if s.boot.ready then microsecond activity s else s)

/-- CALIBRATION_MILLISECOND (R370). -/
def execCalibrationMillisecond (readings : List (Option Nat)) (s : State) : Host.Outcome State Fault Refusal :=
  .next (calibrate readings s)

/-- MEMORY_SLOT_LIMIT_STEP (R375). -/
def execMemorySlotLimitStep (s : State) : Host.Outcome State Fault Refusal := .next (slotStep s)

/-- DROOP_TRIP (R379). -/
def execDroopTrip (die : BitVec 3) (s : State) : Host.Outcome State Fault Refusal :=
  let s := noteHolds s
  let x := dieOf s die.toNat
  .next (setDie s die.toNat { x with clamped := true, trips := x.trips + 1 })

/-- DROOP_CLEAR (R379). -/
def execDroopClear (die : BitVec 3) (s : State) : Host.Outcome State Fault Refusal :=
  let x := dieOf s die.toNat
  .next (if x.clamped then setDie (noteHolds s) die.toNat { x with clamped := false } else s)

/-- THERMAL_SAMPLE (R380). -/
def execThermalSample (sensor : BitVec 8) (reading : BitVec 16) (s : State) : Host.Outcome State Fault Refusal :=
  if sensor.toNat < 178 then .next (sampled sensor.toNat reading s) else .fault .noSuchUnit

/-- THERMAL_CEILING_UPDATE (R381). -/
def execThermalCeilingUpdate (s : State) : Host.Outcome State Fault Refusal :=
  .next ((List.range 160).foldl thermalRegion (noteHolds s))

/-- THERMAL_TRIP (R383). -/
def execThermalTrip (sensor : BitVec 8) (reading : BitVec 16) (s : State) : Host.Outcome State Fault Refusal :=
  if sensor.toNat < 178 then .next (thermalTrip sensor.toNat reading s) else .fault .noSuchUnit

/-- THROTTLE_N_FALL (R385): the rate of object 0x3014 holds from the next microsecond boundary. -/
def execThrottleNFall (s : State) : Host.Outcome State Fault Refusal := .next { s with pw := { s.pw with throttleLow := true } }

/-- THROTTLE_N_RISE (R385). -/
def execThrottleNRise (s : State) : Host.Outcome State Fault Refusal := .next { s with pw := { s.pw with throttleLow := false } }

end Sys2Proof.Machine
end

