-- ==== Sys2Proof/Machine/Scalar.lean ====
section
/-! DEFINITION. Words, moves, the ALUs, the multiplier and the divider (03_tile_isa.md). -/

namespace Sys2Proof.Machine

open Sys2Proof

/-- R81: the port of an ALU operation; AL1's ports are AL0's plus 0x020. -/
def aluPort (alu : Bool) (op : Nat) : Nat := (if alu then 0x070 else 0x050) + op

/-- R71: the next word of a tile issues, is held, or takes what comes before it. -/
def execIssueWord (lti : BitVec 14) (s : State) : Host.Outcome State Fault Refusal :=
  onTile lti s fun i s => issueNext s i

/-- R71: a move of x to a port. -/
def execRegisterWrite (lti : BitVec 14) (port : BitVec 12) (x : Word) (sg : BitVec 8) (s : State) : Host.Outcome State Fault Refusal :=
  onTile lti s fun i s => issueOne s i port.toNat x sg

/-- R81: A + B. -/
def execAlAdd (lti : BitVec 14) (alu : Bool) (b : Word) (sg : BitVec 8) (s : State) : Host.Outcome State Fault Refusal :=
  onTile lti s fun i s => issueOne s i (aluPort alu 0) b sg

/-- R81: A + B + C. -/
def execAlAdc (lti : BitVec 14) (alu : Bool) (b : Word) (sg : BitVec 8) (s : State) : Host.Outcome State Fault Refusal :=
  onTile lti s fun i s => issueOne s i (aluPort alu 1) b sg

/-- R81: A − B. -/
def execAlSub (lti : BitVec 14) (alu : Bool) (b : Word) (sg : BitVec 8) (s : State) : Host.Outcome State Fault Refusal :=
  onTile lti s fun i s => issueOne s i (aluPort alu 2) b sg

/-- R81: A − B − (1 − C). -/
def execAlSbc (lti : BitVec 14) (alu : Bool) (b : Word) (sg : BitVec 8) (s : State) : Host.Outcome State Fault Refusal :=
  onTile lti s fun i s => issueOne s i (aluPort alu 3) b sg

/-- R81: A AND B. -/
def execAlAnd (lti : BitVec 14) (alu : Bool) (b : Word) (sg : BitVec 8) (s : State) : Host.Outcome State Fault Refusal :=
  onTile lti s fun i s => issueOne s i (aluPort alu 4) b sg

/-- R81: A OR B. -/
def execAlOr (lti : BitVec 14) (alu : Bool) (b : Word) (sg : BitVec 8) (s : State) : Host.Outcome State Fault Refusal :=
  onTile lti s fun i s => issueOne s i (aluPort alu 5) b sg

/-- R81: A XOR B. -/
def execAlXor (lti : BitVec 14) (alu : Bool) (b : Word) (sg : BitVec 8) (s : State) : Host.Outcome State Fault Refusal :=
  onTile lti s fun i s => issueOne s i (aluPort alu 6) b sg

/-- R81: A AND NOT B. -/
def execAlAndn (lti : BitVec 14) (alu : Bool) (b : Word) (sg : BitVec 8) (s : State) : Host.Outcome State Fault Refusal :=
  onTile lti s fun i s => issueOne s i (aluPort alu 7) b sg

/-- R81: A shifted left by B[5:0]. -/
def execAlShl (lti : BitVec 14) (alu : Bool) (b : Word) (sg : BitVec 8) (s : State) : Host.Outcome State Fault Refusal :=
  onTile lti s fun i s => issueOne s i (aluPort alu 8) b sg

/-- R81: A shifted right logically by B[5:0]. -/
def execAlShr (lti : BitVec 14) (alu : Bool) (b : Word) (sg : BitVec 8) (s : State) : Host.Outcome State Fault Refusal :=
  onTile lti s fun i s => issueOne s i (aluPort alu 9) b sg

/-- R81: A shifted right arithmetically by B[5:0]. -/
def execAlSar (lti : BitVec 14) (alu : Bool) (b : Word) (sg : BitVec 8) (s : State) : Host.Outcome State Fault Refusal :=
  onTile lti s fun i s => issueOne s i (aluPort alu 10) b sg

/-- R81: flags of A − B; the result port is unchanged. -/
def execAlCmp (lti : BitVec 14) (alu : Bool) (b : Word) (sg : BitVec 8) (s : State) : Host.Outcome State Fault Refusal :=
  onTile lti s fun i s => issueOne s i (aluPort alu 11) b sg

/-- R81: signed minimum. -/
def execAlMin (lti : BitVec 14) (alu : Bool) (b : Word) (sg : BitVec 8) (s : State) : Host.Outcome State Fault Refusal :=
  onTile lti s fun i s => issueOne s i (aluPort alu 12) b sg

/-- R81: signed maximum. -/
def execAlMax (lti : BitVec 14) (alu : Bool) (b : Word) (sg : BitVec 8) (s : State) : Host.Outcome State Fault Refusal :=
  onTile lti s fun i s => issueOne s i (aluPort alu 13) b sg

/-- R81: unsigned minimum. -/
def execAlMinu (lti : BitVec 14) (alu : Bool) (b : Word) (sg : BitVec 8) (s : State) : Host.Outcome State Fault Refusal :=
  onTile lti s fun i s => issueOne s i (aluPort alu 14) b sg

/-- R81: unsigned maximum. -/
def execAlMaxu (lti : BitVec 14) (alu : Bool) (b : Word) (sg : BitVec 8) (s : State) : Host.Outcome State Fault Refusal :=
  onTile lti s fun i s => issueOne s i (aluPort alu 15) b sg

/-- R81: an ALU result in flight and the flags of its word become visible. -/
def showAlu (alu : Bool) (b : Bank) : Bank :=
  { b with
    al0r := (match alu, b.al0p with | false, some (v, _) => v | _, _ => b.al0r)
    al0p := if alu then b.al0p else none
    al1r := (match alu, b.al1p with | true, some (v, _) => v | _, _ => b.al1r)
    al1p := if alu then none else b.al1p
    flags := b.flagsNext.getD b.flags
    flagsNext := none }

/-- R81: an ALU result and its flags become visible. -/
def execAlResult (lti : BitVec 14) (alu : Bool) (s : State) : Host.Outcome State Fault Refusal :=
  onThawed lti s fun i s => modBk s i (showAlu alu)

/-- R82: signed A × signed B. -/
def execMulMul (lti : BitVec 14) (b : Word) (sg : BitVec 8) (s : State) : Host.Outcome State Fault Refusal :=
  onTile lti s fun i s => issueOne s i 0x088 b sg

/-- R82: unsigned A × unsigned B. -/
def execMulMulu (lti : BitVec 14) (b : Word) (sg : BitVec 8) (s : State) : Host.Outcome State Fault Refusal :=
  onTile lti s fun i s => issueOne s i 0x089 b sg

/-- R82: signed A × unsigned B. -/
def execMulMulsu (lti : BitVec 14) (b : Word) (sg : BitVec 8) (s : State) : Host.Outcome State Fault Refusal :=
  onTile lti s fun i s => issueOne s i 0x08A b sg

/-- R82: the oldest product in flight is written into MUL.lo and MUL.hi. -/
def execMulProduct (lti : BitVec 14) (s : State) : Host.Outcome State Fault Refusal :=
  onThawed lti s fun i s => landMul s i

/-- R83: signed division of DIV.o by the moved value. -/
def execDivDiv (lti : BitVec 14) (b : Word) (sg : BitVec 8) (s : State) : Host.Outcome State Fault Refusal :=
  onTile lti s fun i s => issueOne s i 0x098 b sg

/-- R83: unsigned division of DIV.o by the moved value. -/
def execDivDivu (lti : BitVec 14) (b : Word) (sg : BitVec 8) (s : State) : Host.Outcome State Fault Refusal :=
  onTile lti s fun i s => issueOne s i 0x099 b sg

/-- R83: the division in progress completes. -/
def completeDiv (s : State) (i : Nat) : State :=
  let b := bankOf (tileOf s i)
  match b.div with
  | none => s
  | some d =>
    let (q, r) := divOp d.signed d.n b.divd
    opDone (passRetry (modBk s i fun b =>
      { b with divq := q, divrem := r, divDz := b.divDz || b.divd == 0, div := none }) i (engineRetry [5] d.wid)) i d.wid

/-- R83: quotient and remainder are written; division by zero sets DZ; the signal fires. -/
def execDivComplete (lti : BitVec 14) (s : State) : Host.Outcome State Fault Refusal :=
  onThawed lti s fun i s => completeDiv s i

end Sys2Proof.Machine
end

