-- ==== Sys2Proof/Machine/Tap.lean ====
section
/-! DEFINITION. The boundary-scan port (R428). `tapIr` holds the instruction in force: 0 BYPASS, 1 IDCODE, 2 SAMPLE/PRELOAD,
3 EXTEST, 4 CLAMP, 5 HIGHZ. -/

namespace Sys2Proof.Machine

open Sys2Proof

/-- n bits of a number, the least significant first. -/
def shiftBits (x n : Nat) : List Bool := (List.range n).map fun k => x.testBit k

/-- R428: an instruction is loaded, and its data register is shifted out on TDO. -/
def tapLoad (ir : BitVec 3) (out : List Bool) (s : State) : State :=
  emit { s with boot := { s.boot with tapIr := ir, tapTdo := out } } (.tdo out)

/-- R428: EXTEST, CLAMP and HIGHZ take effect only while RESET_N holds the package in reset; at any other time they act as BYPASS. The
instruction stays loaded (assumption 20). -/
def tapDrive (ir : BitVec 3) (out : List Bool) (s : State) : State :=
  tapLoad ir (if s.boot.asserted.contains 3 then out else [false]) s

/-- TAP_RESET (R428): IDCODE is in force after it (assumption 20). -/
def execTapReset (s : State) : Host.Outcome State Fault Refusal :=
  .next { s with boot := { s.boot with tapIr := 1, tapTdo := [] } }

/-- BYPASS (R428): one bit between TDI and TDO. -/
def execTapBypass (s : State) : Host.Outcome State Fault Refusal := .next (tapLoad 0 [false] s)

/-- IDCODE (R428): 0x0000956B. -/
def execTapIdcode (s : State) : Host.Outcome State Fault Refusal := .next (tapLoad 1 (shiftBits 0x0000956B 32) s)

/-- R428: an instruction that drives or floats the lands is in force. -/
def tapDrives (s : State) : Bool := s.boot.asserted.contains 3 && decide (3 ≤ s.boot.tapIr.toNat)

/-- R438, R439: the lands that the hub drives. -/
inductive OutLand where
  | frameOut | thermtripN | canStby | pwrenMem | pwrenD (die : BitVec 3) | pwrenPhy | canTx | pmbScl | pmbSda | spiClk | spiCsN
  | spiIo (n : BitVec 2)
  deriving DecidableEq, Repr

/-- Number of a land, for its cell of the boundary register. -/
def landNo : OutLand → Nat
  | .frameOut => 0
  | .thermtripN => 1
  | .canStby => 2
  | .pwrenMem => 3
  | .pwrenPhy => 4
  | .pwrenD d => 5 + d.toNat
  | .canTx => 13
  | .pmbScl => 14
  | .pmbSda => 15
  | .spiClk => 16
  | .spiCsN => 17
  | .spiIo n => 18 + n.toNat

/-- Every land of OutLand. -/
def outLands : List OutLand :=
  [.frameOut, .thermtripN, .canStby, .pwrenMem, .pwrenPhy, .canTx, .pmbScl, .pmbSda, .spiClk, .spiCsN]
    ++ ((List.range 8).map fun d => .pwrenD (BitVec.ofNat 3 d)) ++ (List.range 4).map fun n => .spiIo (BitVec.ofNat 2 n)

/-- The level of a land of a serial bus, whose bits the model does not follow: a free value (assumption 7). -/
def busLevel (s : State) (n : Nat) : Bool := (Config.freeValue (s.freeCtr + n)).getLsbD 1

/-- R383, R438, R439, R442, R445, R446, R449, R451: the level that the hub gives a land; none for an open drain that is released and for
a land in high impedance: the SPI lands are so in recovery. -/
def landLevel (s : State) : OutLand → Option Bool
  | .frameOut => some s.fr.frameOut
  | .thermtripN => if s.pw.thermtrip then some false else none
  | .canStby => some s.dict.canStby
  | .pwrenMem => some s.boot.pwrenMem
  | .pwrenD d => some (dieOf s d.toNat).pwren
  | .pwrenPhy => some (!s.boot.inReset)
  | .canTx => some (busLevel s 13)
  | .pmbScl => if busLevel s 14 then none else some false
  | .pmbSda => if busLevel s 15 then none else some false
  | .spiClk => if s.boot.recovery then none else some (busLevel s 16)
  | .spiCsN => if s.boot.recovery then none else some (busLevel s 17)
  | .spiIo n => if s.boot.recovery then none else some (busLevel s (18 + n.toNat))

/-- R428: the level of an output land: the boundary register's under EXTEST and CLAMP, none under HIGHZ, else the hub's. The place of a
land in the boundary register is in no file of the manual: Config.landCell (assumption 7). -/
def landOut (s : State) (l : OutLand) : Option Bool :=
  if !tapDrives s then landLevel s l
  else if s.boot.tapIr = 5 then none
  else some (s.boot.tapBoundary.getD (Config.landCell (landNo l)) false)

/-- R428, R438: the lands in the boundary register: SPI flash 6, CAN FD 3, PMBus 2, control 9, power control 20, PERST#. One cell for each is
the model's (assumption 7). -/
def boundaryCells : Nat := 41

/-- R428: what cell k of the boundary register captures: the level of an output land, or that of an input, which the board gives: a free
value (assumption 7). -/
def cellLevel (s : State) (k : Nat) : Bool :=
  match (outLands.find? fun l => Config.landCell (landNo l) == k).bind (landOut s) with
  | some b => b
  | none => (Config.freeValue (s.freeCtr + k)).getLsbD 0

/-- R428: the levels of all cells. -/
def landLevels (s : State) : List Bool := (List.range boundaryCells).map (cellLevel s)

/-- SAMPLE/PRELOAD (R428): the lands are sampled, and shifted out at TDO while the boundary register takes what comes in at TDI. -/
def execSamplePreload (shift : List Bool) (s : State) : Host.Outcome State Fault Refusal :=
  let bits := landLevels s ++ shift
  .next (tapLoad 2 (bits.take shift.length) { s with
    freeCtr := s.freeCtr + boundaryCells
    boot := { s.boot with tapBoundary := bits.drop shift.length } })

/-- EXTEST (R428): the boundary register drives the lands, and captures their levels; the flash can be written through the SPI lands
(R451). -/
def execTapExtest (s : State) : Host.Outcome State Fault Refusal :=
  let open_ := s.boot.spiOpen || s.boot.asserted.contains 3
  .next (tapDrive 3 (landLevels s) { s with freeCtr := s.freeCtr + boundaryCells, boot := { s.boot with spiOpen := open_ } })

/-- CLAMP (R428): the boundary register drives the lands, with the bypass register between TDI and TDO. -/
def execTapClamp (s : State) : Host.Outcome State Fault Refusal := .next (tapDrive 4 [false] s)

/-- HIGHZ (R428): the lands float, with the bypass register between TDI and TDO. -/
def execTapHighz (s : State) : Host.Outcome State Fault Refusal := .next (tapDrive 5 [false] s)

end Sys2Proof.Machine
end

