-- ==== Sys2Proof/Machine/TwillOps.lean ====
section
/-! DEFINITION. Twill commands: flits that arrive, the system tick, membership, and what happens on links (R303 to R316, R360). -/

namespace Sys2Proof.Machine

open Sys2Proof

/-! ## Flits that arrive -/

/-- R360: the request of this hub that a message from a package answers. -/
def awayFor (s : State) (src : BitVec 6) (q : DReq) : Option AwayReq :=
  s.dict.away.find? fun r => r.dst == src && r.idx == q.idx && r.sub == q.sub && r.tag == q.tag

/-- R360: a management message. A response, or an abort that answers a request of this hub, goes to the client whose request it
answers, and one that answers none to firmware; requests are served with the rights of R338. -/
def managementArrives (s : State) (h : BitVec 256) (p : List Byte) : State :=
  let src := BitVec.ofNat 6 (hField h 49 44)
  let q := parseRequest (.twill (h.getLsbD 62 && s.tw.members.getLsbD src.toNat)) (some src) (flitLines h p)
  let bs := p.take (8 + q.data.length)
  let response := [0x11, 0x21, 0x31, 0x33, 0x41, 0x43].contains q.cmd.toNat
  match (if response || q.cmd = 0x7F then awayFor s src q else none) with
  | some r =>
    (match (if q.cmd = 0x31 ∨ q.cmd = 0x33 then r.rest else none) with
     | some more => awaySegment r more s
     | none => toClient r.client bs { s with dict := { s.dict with away := s.dict.away.erase r } })
  | none => if response then emit s (.dictRsp 2 bs) else submit q s

/-- R307, R310, R360: a flit arrives; one that is accepted is consumed or forwarded. -/
def flitReceived (s : State) (k : Nat) (h : BitVec 256) (p : List Byte) : State :=
  let s' := flitArrives s k h p
  if hField h 3 0 = 6 && hField h 55 50 == s.tw.id.toNat && (linkOf s' k).expSeq != (linkOf s k).expSeq
  then managementArrives s' h p else s'

/-! ## Flooded flits -/

/-- R313, R314: a flit is flooded on every link in service but the one it came by; its DST is not given: a free value. -/
def flood (s : State) (from_ : Option Nat) (ttl src sfn : Nat) (payload : List Byte) : State :=
  let f := membershipFlit ((freeAt s 0).toNat % 64) ttl src sfn payload
  let out := (List.range 8).filter fun k => some k != from_ && ((linkOf s k).status == 1 || (linkOf s k).status == 2)
  { out.foldl (fun s k => sendOn s k f) s with freeCtr := s.freeCtr + 1 }

/-- A flooded flit of another package goes on once in a frame, with TTL decreased, while hops are left. -/
def passOn (s : State) (link : Nat) (beacon : Bool) (ttl : Nat) (src : BitVec 6) (sfn : Nat) (payload : List Byte) : State :=
  if ttl ≤ 1 || src.toNat == s.tw.id.toNat || s.tw.flooded.contains (beacon, src) then s
  else flood { s with tw := { s.tw with flooded := (beacon, src) :: s.tw.flooded } } (some link) (ttl - 1) src.toNat sfn payload

/-- R314: what a beacon carries, in the model's layout (assumption 116). -/
def beaconPayload (b : BeaconMsg) : List Byte :=
  [1] ++ leBytes 1 b.master.toNat ++ leBytes 1 b.prio.toNat ++ leBytes 1 b.e.toNat ++ leBytes 4 b.period.toNat ++ leBytes 8 b.generation.toNat
    ++ leBytes 8 b.members.toNat ++ leBytes 8 b.nextSet.toNat ++ leBytes 8 b.refused.toNat

/-- R313: a key is stronger than another: lower priority value, then lower identifier. -/
def stronger (p1 i1 p2 i2 : Nat) : Bool := decide (p1 < p2) || (p1 == p2 && decide (i1 < i2))

/-- R314: the SFN of the next epoch after a system frame. -/
def epochAfter (e sfn : Nat) : Word := wOf ((sfn / 2 ^ e + 1) * 2 ^ e)

/-! ## Membership -/

/-- R314: at an epoch the announced set is adopted and the generation advances. -/
def adopt (s : State) : State :=
  let changed := s.tw.members != s.tw.announced
  let s := { s with tw := { s.tw with members := s.tw.announced, gen := s.tw.gen + 1 } }
  trace 4 0 (if changed then raiseIrq 7 s else s)

/-- R312: a package seeks again. -/
def seekAgain (s : State) : State :=
  trace 4 0 { s with tw := { s.tw with
    st := 1
    members := 0
    nextSet := 0
    announced := 0
    refused := 0
    master := 0xFF
    admitAt := none
    candidate := false
    yielding := false
    missed := []
    seen := []
    sent := none
    releases := [] } }

/-- R315: one more tick has passed for every other member since its last status flit, or since its first tick. -/
def countMissed (s : State) : State :=
  let ids := (List.range 64).filter fun d => d != s.tw.id.toNat && s.tw.members.getLsbD d
  { s with tw := { s.tw with missed := ids.foldl (fun m d => smSet 0 m d (smGet 0 s.tw.missed d + 1)) [] } }

/-- R313, R314: the master releases its next system tick, or stops at an epoch when a stronger master has been heard. -/
def masterTick (s : State) : State :=
  let n := s.tw.sfn + 1
  let p := periodOf s
  let epoch := n.toNat % 2 ^ s.tw.e.toNat == 0
  let t := s.fr.lastTick + p
  if epoch && s.tw.yielding then seekAgain (frameTick t s)
  else
    let s := frameTick t { s with
      fr := { s.fr with sysPeriod := p }
      tw := { s.tw with sfn := n, sysE := s.tw.e.toNat } }
    if s.tw.st ≠ 3 then s
    else
      let s := countMissed (if epoch then adopt s else s)
      let s := { s with tw := { s.tw with announced := s.tw.nextSet } }
      let s := flood s none 16 s.tw.id.toNat n.toNat (membershipPayload s 1 s.fr.sysPeriod)
      { s with tw := { s.tw with refused := 0 } }

/-- R311, R314, R41: a member's system tick. The epochs that have passed since the last one are adopted. -/
def memberTick (s : State) (t : Nat) (n : Word) : State :=
  let epoch := decide (s.tw.sfn.toNat / 2 ^ s.tw.sysE < n.toNat / 2 ^ s.tw.sysE)
  let s := frameTick t { s with
    fr := { s.fr with holdovers := 0 }
    tw := { s.tw with sfn := n, releases := s.tw.releases.erase (t, n) } }
  if s.tw.st ≠ 2 then s
  else sendStatus (if epoch then adopt s else s)

/-- R312, R314: the first system tick of a package that has been admitted is the epoch. -/
def joinTick (s : State) (t : Nat) (n : Word) : State :=
  let s := { s with
    fr := { s.fr with holdovers := 0 }
    tw := { s.tw with st := 2, admitAt := none, candidate := false, sfn := n, releases := s.tw.releases.erase (t, n) } }
  let s := frameTick t s
  if s.tw.st ≠ 2 then s else sendStatus (adopt s)

/-- R311: the system tick that a package releases next: the earliest, or for one that has been admitted that of its epoch (R314). -/
def nextRelease (s : State) : Option (Nat × Word) :=
  if s.tw.st = 2 then s.tw.releases.head?
  else if s.tw.st = 1 then s.tw.releases.find? fun r => s.tw.admitAt == some r.2
  else none

/-- SYSTEM_TICK_RELEASE (R311, R312). -/
def systemTick (s : State) : State :=
  if s.fr.source ≠ 2 || !s.boot.ready then s
  else if s.tw.st = 3 then masterTick s
  else match nextRelease s with
    | none => s
    | some (t, n) => if s.tw.st = 2 then memberTick s t n else joinTick s t n

/-- R311: a release takes its place by instant. -/
def insertRelease (r : Nat × Word) : List (Nat × Word) → List (Nat × Word)
  | [] => [r]
  | q :: qs => if r.1 < q.1 then r :: q :: qs else q :: insertRelease r qs

/-- R311: a package that neither releases ticks nor waits for its epoch keeps the last one it has heard of (assumption 118). -/
def keepRelease (s : State) (r : Nat × Word) : List (Nat × Word) :=
  if s.tw.st = 2 then insertRelease r s.tw.releases
  else if s.tw.st = 1 then (s.tw.releases.filter fun q => s.tw.admitAt == some q.2) ++ [r]
  else s.tw.releases

/-- R311: a copy of a tick flit goes out on one link with LEAD restated; it is lost on a link that retrains. -/
def sendTick (h : BitVec 256) (s : State) (k : Nat) : State :=
  let l := linkOf s k
  if l.status = 2 then sendPlain s k h []
  else if l.status = 1 then setLink s k { l with ticksLost := sat32 l.ticksLost }
  else s

/-- R311: header of a tick flit. -/
def tickHeader (leadPs ttl src : Nat) (n : Word) : BitVec 256 :=
  let f : FlitInfo := { typ := 4, vc := 0, dst := 0, addr := leadPs % 2 ^ 32, slti := 0, tag := 0, nl := 0, cxid := 0, status := 0,
                        w := false, ttl := ttl, src := src }
  hSet (mkHeader f) 215 152 n.toNat

/-- TICK_FLIT_RECEIVE (R306, R308, R311): a tick flit arrives on link k at an instant. -/
def tickFlit (s : State) (k : Nat) (h : BitVec 256) (at_ : Nat) : State :=
  let l := linkOf s k
  let n := wOf (hField h 215 152)
  let lead := hField h 95 64
  let d := l.delayPs.toNat
  let ttl := hField h 61 56
  if l.status ≠ 2 || hField h 3 0 ≠ 4 then s
  else if (flitCrc h (fullPayload [])).toNat ≠ hField h 255 224 then
    setLink s k { l with crcFails := sat32 l.crcFails, ticksLost := sat32 l.ticksLost }
  else
    let s := { s with fr := { s.fr with now := max s.fr.now at_ } }
    let s := pumpAll k (takeCredits (takeAck s k h) k h)
    if s.tw.seen.contains n then s
    else if lead ≤ d then
      let l := linkOf s k
      setLink s k { l with ticksLost := sat32 l.ticksLost }
    else
      let rest := lead - d
      let s := { s with tw := { s.tw with
        seen := (n :: s.tw.seen).take 1024
        releases := keepRelease s (at_ + rest / 1000, n) } }
      if ttl ≤ 1 then s
      else ((List.range 8).filter fun j => j != k).foldl (sendTick (tickHeader rest (ttl - 1) (hField h 49 44) n)) s

/-- R311: the system frame whose tick flit the master sends next: with a lead above the period several are on their way. -/
def nextSent (s : State) : Word :=
  match s.tw.sent with
  | some n => if s.tw.sfn.toNat < n.toNat || s.tw.sfn == 0xFFFFFFFFFFFFFFFF then n + 1 else s.tw.sfn + 1
  | none => s.tw.sfn + 1

/-- TICK_FLIT_SEND (R311): the master sends a tick's flit on every link, D before the tick. -/
def tickSend (s : State) : State :=
  let n := nextSent s
  if s.tw.st ≠ 3 || (s.tw.yielding && n.toNat % 2 ^ s.tw.e.toNat == 0) then s
  else
    let s := { s with tw := { s.tw with seen := (n :: s.tw.seen).take 1024, sent := some n } }
    (List.range 8).foldl (sendTick (tickHeader (1000 * s.tw.d.toNat) 16 s.tw.id.toNat n)) s

/-- R41, R314: a Seeking package hears a beacon: it is listed, or sends a join flit to the master. -/
def beaconSeeking (s : State) (b : BeaconMsg) : State :=
  let s := { s with tw := { s.tw with
    master := b.master.setWidth 8
    masterPrio := b.prio
    candidate := false } }
  if b.nextSet.getLsbD s.tw.id.toNat then
    { s with
      fr := { s.fr with sysPeriod := b.period.toNat }
      tw := { s.tw with
        admitAt := some (epochAfter b.e.toNat b.sfn.toNat)
        sysE := b.e.toNat
        announced := b.nextSet
        gen := b.generation } }
  else routeMembership { s with tw := { s.tw with admitAt := none } } 2 (periodOf s) b.master.toNat

/-- BEACON (R313, R314). -/
def beaconArrives (s : State) (link ttl : Nat) (b : BeaconMsg) : State :=
  let s := passOn s link true ttl b.master b.sfn.toNat (beaconPayload b)
  if s.tw.st = 1 then beaconSeeking s b
  else if s.tw.st = 2 then
    if s.tw.master = b.master.setWidth 8 then
      { s with
        fr := { s.fr with sysPeriod := b.period.toNat }
        tw := { s.tw with sysE := b.e.toNat, announced := b.nextSet, gen := b.generation, masterPrio := b.prio } }
    else s
  else if s.tw.st = 3 && stronger b.prio.toNat b.master.toNat s.tw.prio.toNat s.tw.id.toNat then
    { s with tw := { s.tw with yielding := true } }
  else s

/-- One bit of a set of identifiers. -/
def idBit (d : Nat) : BitVec 64 := 1#64 <<< d

/-- JOIN (R314): the master admits an unused identifier whose period is no greater than the system period, or refuses it. -/
def joinArrives (s : State) (d period : Nat) : State :=
  if s.tw.st ≠ 3 then s
  else if d == s.tw.id.toNat || s.tw.nextSet.getLsbD d || s.tw.members.getLsbD d || decide (s.fr.sysPeriod < period) then
    { s with tw := { s.tw with refused := s.tw.refused ||| idBit d } }
  else trace 4 d { s with tw := { s.tw with
      nextSet := s.tw.nextSet ||| idBit d
      refused := s.tw.refused &&& ~~~(idBit d)
      missed := smSet 0 s.tw.missed d 0
      admissions := s.tw.admissions + 1 } }

/-- R315: the master declares a member departed; the next epoch removes it. -/
def departed (s : State) (d : Nat) : State :=
  if s.tw.st ≠ 3 || d == s.tw.id.toNat || !s.tw.nextSet.getLsbD d then s
  else trace 4 d { s with tw := { s.tw with nextSet := s.tw.nextSet &&& ~~~(idBit d), departures := s.tw.departures + 1 } }

/-- LEAVE_SYSTEM (R41, R356): after three consecutive holdover ticks. -/
def leaveSystem (s : State) : State :=
  if s.tw.st ≠ 2 ∨ s.fr.holdovers < 3 then s
  else emergency 6 0 (seekAgain { s with fr := { s.fr with holdovers := 0 } })

/-- ELECTION_TIMEOUT (R313): a candidate becomes master; its next tick is system frame 0 and its first epoch. -/
def elected (s : State) : State :=
  if s.tw.st ≠ 1 || !s.tw.candidate then s
  else
    let me := idBit s.tw.id.toNat
    trace 4 0 { s with
      fr := { s.fr with sysPeriod := periodOf s }
      tw := { s.tw with
        st := 3
        candidate := false
        master := s.tw.id
        masterPrio := s.tw.prio
        sfn := 0xFFFFFFFFFFFFFFFF
        nextSet := me
        announced := me
        members := 0
        refused := 0
        missed := []
        yielding := false
        admitAt := none
        seen := []
        sent := none
        releases := [] } }

/-! ## The commands -/

/-- TWILL_FLIT_RECEIVE (R307). -/
def execTwillFlitReceive (link : BitVec 3) (hdr : BitVec 256) (payload : List Byte) (s : State) :
    Host.Outcome State Fault Refusal := .next (flitReceived s link.toNat hdr payload)

/-- TWILL_PUT_RECEIVE (R303). -/
def execTwillPutReceive (link : BitVec 3) (hdr : BitVec 256) (payload : List Byte) (s : State) :
    Host.Outcome State Fault Refusal := .next (flitReceived s link.toNat hdr payload)

/-- TWILL_MESSAGE_RECEIVE (R310). -/
def execTwillMessageReceive (link : BitVec 3) (hdr : BitVec 256) (payload : List Byte) (s : State) :
    Host.Outcome State Fault Refusal := .next (flitReceived s link.toNat hdr payload)

/-- TICK_FLIT_RECEIVE (R311). -/
def execTickFlitReceive (link : BitVec 3) (hdr : BitVec 256) (at_ : Nat) (s : State) : Host.Outcome State Fault Refusal :=
  .next (tickFlit s link.toNat hdr at_)

/-- SYSTEM_TICK_RELEASE (R311). -/
def execSystemTickRelease (s : State) : Host.Outcome State Fault Refusal := .next (systemTick s)

/-- BEACON (R314). -/
def execBeacon (link : BitVec 3) (ttl : BitVec 6) (b : BeaconMsg) (s : State) : Host.Outcome State Fault Refusal :=
  .next (beaconArrives s link.toNat ttl.toNat b)

/-- JOIN (R314). -/
def execJoinFlit (id : BitVec 6) (period : BitVec 32) (s : State) : Host.Outcome State Fault Refusal :=
  .next (joinArrives s id.toNat period.toNat)

/-- STATUS (R315). -/
def execStatusFlit (id : BitVec 6) (s : State) : Host.Outcome State Fault Refusal :=
  .next (if s.tw.st = 3 then { s with tw := { s.tw with missed := smSet 0 s.tw.missed id.toNat 0 } } else s)

/-- LEAVE (R315). -/
def execLeaveFlit (id : BitVec 6) (s : State) : Host.Outcome State Fault Refusal := .next (departed s id.toNat)

/-- CANDIDATE (R313): a candidate that hears a stronger key stops. -/
def execCandidate (link : BitVec 3) (ttl : BitVec 6) (prio : BitVec 8) (id : BitVec 6) (s : State) :
    Host.Outcome State Fault Refusal :=
  let s := passOn s link.toNat false ttl.toNat id s.tw.sfn.toNat
    ([5] ++ leBytes 1 id.toNat ++ leBytes 1 prio.toNat)
  .next (if s.tw.st = 1 && stronger prio.toNat id.toNat s.tw.prio.toNat s.tw.id.toNat then
      { s with tw := { s.tw with candidate := false } }
    else s)

/-- MANAGEMENT_FLIT (R360). -/
def execManagementFlit (link : BitVec 3) (hdr : BitVec 256) (payload : List Byte) (s : State) :
    Host.Outcome State Fault Refusal := .next (flitReceived s link.toNat hdr payload)

/-- DEPARTURE_DECLARED (R315): three consecutive ticks have passed without the member's status. -/
def execDepartureDeclared (id : BitVec 6) (s : State) : Host.Outcome State Fault Refusal :=
  .next (if 3 ≤ smGet 0 s.tw.missed id.toNat then departed s id.toNat else s)

/-- LEAVE_SYSTEM (R41). -/
def execLeaveSystem (s : State) : Host.Outcome State Fault Refusal := .next (leaveSystem s)

/-- BEACON_SILENCE (R313): a Seeking package that has heard no beacon for three periods, or one more, floods a candidate flit. -/
def execBeaconSilence (s : State) : Host.Outcome State Fault Refusal :=
  .next (if s.tw.st = 1 then
      flood { s with tw := { s.tw with candidate := true, admitAt := none } } none 16 s.tw.id.toNat s.tw.sfn.toNat
        (membershipPayload s 5 0)
    else s)

/-- ELECTION_TIMEOUT (R313). -/
def execElectionTimeout (s : State) : Host.Outcome State Fault Refusal := .next (elected s)

/-- ACK_TIMEOUT_RESEND (R307): 10 µs without progress; after 16 resends the link retrains. -/
def execAckTimeoutResend (link : BitVec 3) (s : State) : Host.Outcome State Fault Refusal :=
  .next (resendAgain s link.toNat)

/-- DELAY_MEASUREMENT (R311). -/
def execDelayMeasurement (link : BitVec 3) (ps : BitVec 32) (s : State) : Host.Outcome State Fault Refusal :=
  let k := link.toNat
  let l := linkOf s k
  .next (if l.status = 2 then setLink s k { l with delayPs := ps } else s)

/-- LANE_FAILURE (R309): the link stops and retrains. -/
def execLaneFailure (link : BitVec 3) (lane : BitVec 4) (s : State) : Host.Outcome State Fault Refusal :=
  let k := link.toNat
  let l := linkOf s k
  .next (if l.status = 1 ∨ l.status = 2 then
      startRetrain s k { l with failedLanes := l.failedLanes ||| (1#16 <<< lane.toNat) }
    else s)

/-- RETRAIN_COMPLETE (R309). -/
def execRetrainComplete (link : BitVec 3) (s : State) : Host.Outcome State Fault Refusal := .next (retrained s link.toNat)

/-- LINK_FAILED (R309): a link that has stayed down for 10 ms. -/
def execLinkFailed (link : BitVec 3) (s : State) : Host.Outcome State Fault Refusal :=
  .next (if (linkOf s link.toNat).status = 3 then s else failLink s link.toNat)

/-- TICK_FLIT_SEND (R311). -/
def execTickFlitSend (s : State) : Host.Outcome State Fault Refusal := .next (tickSend s)

/-- LINK_UP (R308, R311): a link that was down has trained: sequence numbers start afresh, credits are granted, the delay is
measured. -/
def execLinkUp (link : BitVec 3) (ps : BitVec 32) (s : State) : Host.Outcome State Fault Refusal :=
  let k := link.toNat
  let l := linkOf s k
  .next (if l.status ≠ 0 || !s.boot.ready then s
    else trace 4 k (setLink s k { linkAfresh l with
      status := 2, lanes := BitVec.ofNat 5 (widest l.failedLanes), delayPs := ps }))

/-- ACKNOWLEDGEMENT_DUE (R307): a control flit acknowledges what has arrived. -/
def execAcknowledgementDue (link : BitVec 3) (s : State) : Host.Outcome State Fault Refusal :=
  let k := link.toNat
  let l := linkOf s k
  .next (if l.status = 2 && decide (0 < l.sinceAck) then sendPlain s k (controlHeader s false) [] else s)

/-- R360: a client's request to another package has had no answer for 1 s: abort 0x000A for the client. -/
def awayTimesOut (path : Path) (q : DReq) (s : State) : State :=
  match path with
  | .away c d =>
    (match s.dict.away.find? fun r => r.client == c && r.dst == d && r.idx == q.idx && r.sub == q.sub && r.tag == q.tag with
     | some r => abortReq q 0xA { s with dict := { s.dict with away := s.dict.away.erase r } }
     | none => s)
  | _ => abortReq q 0xA s

/-- MANAGEMENT_REQUEST_TIMEOUT (R360): a request that the hub sent for a client met no route; after 1 s the client has abort 0x000A.
A path that names no package stands for a request that the model has not seen leave. -/
def execManagementRequestTimeout (path : Path) (idx : BitVec 16) (sub tag : BitVec 8) (s : State) :
    Host.Outcome State Fault Refusal :=
  .next (if s.boot.ready then awayTimesOut path (plainReq path 0x10 idx sub tag []) s else s)

end Sys2Proof.Machine
end

