-- ==== Sys2Proof/Machine/Vector.lean ====
section
/-! DEFINITION. The commands of the vector engine (05_vector.md). -/

namespace Sys2Proof.Machine

open Sys2Proof

/-- R134: sets VX.vl. -/
def execVxVlWrite (lti : BitVec 14) (x : Word) (sg : BitVec 8) (s : State) : Host.Outcome State Fault Refusal :=
  onTile lti s fun i s => issueOne s i 0x100 x sg

/-- R146: queues VX.t.add with descriptor x. -/
def execVxAdd (lti : BitVec 14) (x : Word) (sg : BitVec 8) (s : State) : Host.Outcome State Fault Refusal :=
  onTile lti s fun i s => issueOne s i 0x120 x sg

/-- R146: queues VX.t.sub with descriptor x. -/
def execVxSub (lti : BitVec 14) (x : Word) (sg : BitVec 8) (s : State) : Host.Outcome State Fault Refusal :=
  onTile lti s fun i s => issueOne s i 0x121 x sg

/-- R146: queues VX.t.mul with descriptor x. -/
def execVxMul (lti : BitVec 14) (x : Word) (sg : BitVec 8) (s : State) : Host.Outcome State Fault Refusal :=
  onTile lti s fun i s => issueOne s i 0x122 x sg

/-- R146: queues VX.t.fma with descriptor x. -/
def execVxFma (lti : BitVec 14) (x : Word) (sg : BitVec 8) (s : State) : Host.Outcome State Fault Refusal :=
  onTile lti s fun i s => issueOne s i 0x123 x sg

/-- R146: queues VX.t.fms with descriptor x. -/
def execVxFms (lti : BitVec 14) (x : Word) (sg : BitVec 8) (s : State) : Host.Outcome State Fault Refusal :=
  onTile lti s fun i s => issueOne s i 0x124 x sg

/-- R146: queues VX.t.fnma with descriptor x. -/
def execVxFnma (lti : BitVec 14) (x : Word) (sg : BitVec 8) (s : State) : Host.Outcome State Fault Refusal :=
  onTile lti s fun i s => issueOne s i 0x125 x sg

/-- R146: queues VX.t.min with descriptor x. -/
def execVxMin (lti : BitVec 14) (x : Word) (sg : BitVec 8) (s : State) : Host.Outcome State Fault Refusal :=
  onTile lti s fun i s => issueOne s i 0x126 x sg

/-- R146: queues VX.t.max with descriptor x. -/
def execVxMax (lti : BitVec 14) (x : Word) (sg : BitVec 8) (s : State) : Host.Outcome State Fault Refusal :=
  onTile lti s fun i s => issueOne s i 0x127 x sg

/-- R146: queues VX.t.abs with descriptor x. -/
def execVxAbs (lti : BitVec 14) (x : Word) (sg : BitVec 8) (s : State) : Host.Outcome State Fault Refusal :=
  onTile lti s fun i s => issueOne s i 0x128 x sg

/-- R146: queues VX.t.neg with descriptor x. -/
def execVxNeg (lti : BitVec 14) (x : Word) (sg : BitVec 8) (s : State) : Host.Outcome State Fault Refusal :=
  onTile lti s fun i s => issueOne s i 0x129 x sg

/-- R149: queues VX.t.rcpe with descriptor x. -/
def execVxRcpe (lti : BitVec 14) (x : Word) (sg : BitVec 8) (s : State) : Host.Outcome State Fault Refusal :=
  onTile lti s fun i s => issueOne s i 0x12A x sg

/-- R149: queues VX.t.rsqe with descriptor x. -/
def execVxRsqe (lti : BitVec 14) (x : Word) (sg : BitVec 8) (s : State) : Host.Outcome State Fault Refusal :=
  onTile lti s fun i s => issueOne s i 0x12B x sg

/-- R146: queues VX.t.and with descriptor x. -/
def execVxAnd (lti : BitVec 14) (x : Word) (sg : BitVec 8) (s : State) : Host.Outcome State Fault Refusal :=
  onTile lti s fun i s => issueOne s i 0x12C x sg

/-- R146: queues VX.t.or with descriptor x. -/
def execVxOr (lti : BitVec 14) (x : Word) (sg : BitVec 8) (s : State) : Host.Outcome State Fault Refusal :=
  onTile lti s fun i s => issueOne s i 0x12D x sg

/-- R146: queues VX.t.xor with descriptor x. -/
def execVxXor (lti : BitVec 14) (x : Word) (sg : BitVec 8) (s : State) : Host.Outcome State Fault Refusal :=
  onTile lti s fun i s => issueOne s i 0x12E x sg

/-- R148: queues VX.t.shl with descriptor x. -/
def execVxShl (lti : BitVec 14) (x : Word) (sg : BitVec 8) (s : State) : Host.Outcome State Fault Refusal :=
  onTile lti s fun i s => issueOne s i 0x12F x sg

/-- R148: queues VX.t.shr with descriptor x. -/
def execVxShr (lti : BitVec 14) (x : Word) (sg : BitVec 8) (s : State) : Host.Outcome State Fault Refusal :=
  onTile lti s fun i s => issueOne s i 0x130 x sg

/-- R148: queues VX.t.sar with descriptor x. -/
def execVxSar (lti : BitVec 14) (x : Word) (sg : BitVec 8) (s : State) : Host.Outcome State Fault Refusal :=
  onTile lti s fun i s => issueOne s i 0x131 x sg

/-- R146: queues VX.t.mov with descriptor x. -/
def execVxMov (lti : BitVec 14) (x : Word) (sg : BitVec 8) (s : State) : Host.Outcome State Fault Refusal :=
  onTile lti s fun i s => issueOne s i 0x132 x sg

/-- R150: queues VX.t.cmp with descriptor x. -/
def execVxCmp (lti : BitVec 14) (x : Word) (sg : BitVec 8) (s : State) : Host.Outcome State Fault Refusal :=
  onTile lti s fun i s => issueOne s i 0x140 x sg

/-- R150: queues VX.t.mand with descriptor x. -/
def execVxMand (lti : BitVec 14) (x : Word) (sg : BitVec 8) (s : State) : Host.Outcome State Fault Refusal :=
  onTile lti s fun i s => issueOne s i 0x141 x sg

/-- R150: queues VX.t.mor with descriptor x. -/
def execVxMor (lti : BitVec 14) (x : Word) (sg : BitVec 8) (s : State) : Host.Outcome State Fault Refusal :=
  onTile lti s fun i s => issueOne s i 0x142 x sg

/-- R150: queues VX.t.mxor with descriptor x. -/
def execVxMxor (lti : BitVec 14) (x : Word) (sg : BitVec 8) (s : State) : Host.Outcome State Fault Refusal :=
  onTile lti s fun i s => issueOne s i 0x143 x sg

/-- R150: queues VX.t.mandn with descriptor x. -/
def execVxMandn (lti : BitVec 14) (x : Word) (sg : BitVec 8) (s : State) : Host.Outcome State Fault Refusal :=
  onTile lti s fun i s => issueOne s i 0x144 x sg

/-- R150: queues VX.t.mpop with descriptor x. -/
def execVxMpop (lti : BitVec 14) (x : Word) (sg : BitVec 8) (s : State) : Host.Outcome State Fault Refusal :=
  onTile lti s fun i s => issueOne s i 0x145 x sg

/-- R150: queues VX.t.mfirst with descriptor x. -/
def execVxMfirst (lti : BitVec 14) (x : Word) (sg : BitVec 8) (s : State) : Host.Outcome State Fault Refusal :=
  onTile lti s fun i s => issueOne s i 0x146 x sg

/-- R151: queues VX.t.rsum with descriptor x. -/
def execVxRsum (lti : BitVec 14) (x : Word) (sg : BitVec 8) (s : State) : Host.Outcome State Fault Refusal :=
  onTile lti s fun i s => issueOne s i 0x150 x sg

/-- R151: queues VX.t.rmax with descriptor x. -/
def execVxRmax (lti : BitVec 14) (x : Word) (sg : BitVec 8) (s : State) : Host.Outcome State Fault Refusal :=
  onTile lti s fun i s => issueOne s i 0x151 x sg

/-- R151: queues VX.t.rmin with descriptor x. -/
def execVxRmin (lti : BitVec 14) (x : Word) (sg : BitVec 8) (s : State) : Host.Outcome State Fault Refusal :=
  onTile lti s fun i s => issueOne s i 0x152 x sg

/-- R152: queues VX.t.perm with descriptor x. -/
def execVxPerm (lti : BitVec 14) (x : Word) (sg : BitVec 8) (s : State) : Host.Outcome State Fault Refusal :=
  onTile lti s fun i s => issueOne s i 0x160 x sg

/-- R152: queues VX.t.ilv with descriptor x. -/
def execVxIlv (lti : BitVec 14) (x : Word) (sg : BitVec 8) (s : State) : Host.Outcome State Fault Refusal :=
  onTile lti s fun i s => issueOne s i 0x161 x sg

/-- R152: queues VX.t.dlve with descriptor x. -/
def execVxDlve (lti : BitVec 14) (x : Word) (sg : BitVec 8) (s : State) : Host.Outcome State Fault Refusal :=
  onTile lti s fun i s => issueOne s i 0x162 x sg

/-- R152: queues VX.t.dlvo with descriptor x. -/
def execVxDlvo (lti : BitVec 14) (x : Word) (sg : BitVec 8) (s : State) : Host.Outcome State Fault Refusal :=
  onTile lti s fun i s => issueOne s i 0x163 x sg

/-- R152: queues VX.t.rot with descriptor x. -/
def execVxRot (lti : BitVec 14) (x : Word) (sg : BitVec 8) (s : State) : Host.Outcome State Fault Refusal :=
  onTile lti s fun i s => issueOne s i 0x164 x sg

/-- R152: queues VX.t.bfly with descriptor x. -/
def execVxBfly (lti : BitVec 14) (x : Word) (sg : BitVec 8) (s : State) : Host.Outcome State Fault Refusal :=
  onTile lti s fun i s => issueOne s i 0x165 x sg

/-- R153: queues VX.t.pack with descriptor x. -/
def execVxPack (lti : BitVec 14) (x : Word) (sg : BitVec 8) (s : State) : Host.Outcome State Fault Refusal :=
  onTile lti s fun i s => issueOne s i 0x170 x sg

/-- R153: queues VX.t.unpack with descriptor x. -/
def execVxUnpack (lti : BitVec 14) (x : Word) (sg : BitVec 8) (s : State) : Host.Outcome State Fault Refusal :=
  onTile lti s fun i s => issueOne s i 0x171 x sg

/-- R154: queues VX.t.ld with descriptor x. -/
def execVxLd (lti : BitVec 14) (x : Word) (sg : BitVec 8) (s : State) : Host.Outcome State Fault Refusal :=
  onTile lti s fun i s => issueOne s i 0x180 x sg

/-- R154: queues VX.t.st with descriptor x. -/
def execVxSt (lti : BitVec 14) (x : Word) (sg : BitVec 8) (s : State) : Host.Outcome State Fault Refusal :=
  onTile lti s fun i s => issueOne s i 0x181 x sg

/-- R154: queues VX.t.gth with descriptor x. -/
def execVxGth (lti : BitVec 14) (x : Word) (sg : BitVec 8) (s : State) : Host.Outcome State Fault Refusal :=
  onTile lti s fun i s => issueOne s i 0x182 x sg

/-- R154: queues VX.t.sct with descriptor x. -/
def execVxSct (lti : BitVec 14) (x : Word) (sg : BitVec 8) (s : State) : Host.Outcome State Fault Refusal :=
  onTile lti s fun i s => issueOne s i 0x183 x sg

/-- R158: queues VX.t.ext with descriptor x. -/
def execVxExt (lti : BitVec 14) (x : Word) (sg : BitVec 8) (s : State) : Host.Outcome State Fault Refusal :=
  onTile lti s fun i s => issueOne s i 0x190 x sg

/-- R158: queues VX.t.ins with descriptor x. -/
def execVxIns (lti : BitVec 14) (x : Word) (sg : BitVec 8) (s : State) : Host.Outcome State Fault Refusal :=
  onTile lti s fun i s => issueOne s i 0x191 x sg

/-- R141: the cycle in which an operation starts: not before the one before it has left the engine's issue. -/
def vxStartCycle (s : State) (vx : Vx) (k : Nat) : Word :=
  match k, vx.queue[k - 1]? with
  | 0, _ => s.fr.cyc
  | _, some e =>
    let free := e.run.start + wOf (vxTiming e (vxKindOf e) (vxSees e vx)).1
    if s.fr.cyc.toNat < free.toNat then free else s.fr.cyc
  | _, none => s.fr.cyc

/-- R141: the oldest waiting operation leaves the queue for the engine; the one before it must have started. -/
def vxStart (s : State) (i : Nat) : State :=
  modTile s i fun t =>
    match lFind (fun o => !o.started) t.vx.queue, t.vx.queue[(lFind (fun o => !o.started) t.vx.queue).getD 0]? with
    | some k, some o => { t with vx := { t.vx with queue := (t.vx.queue.take k).map vxLeave ++
        { o with started := true, run := { o.run with start := vxStartCycle s t.vx k } } :: t.vx.queue.drop (k + 1) } }
    | _, _ => t

/-- R141: the next queued operation starts. -/
def execVxOpStart (lti : BitVec 14) (s : State) : Host.Outcome State Fault Refusal :=
  onThawed lti s fun i s => vxStart s i

/-- R142: the started operation whose last result is readable first completes. -/
def execVxOpComplete (lti : BitVec 14) (s : State) : Host.Outcome State Fault Refusal :=
  onThawed lti s fun i s => vxComplete s i

/-- R155: the vector data abort: found at the operation that is served if none is pending yet, then taken. -/
def vectorAbort (s : State) (i : Nat) : State :=
  let t := tileOf s i
  if t.asyncs.any fun a => a.vec == 12 then takeAsyncOf (fun a => a.vec == 12) s i
  else match t.vx.queue[vxNext t.vx]? with
    | some op =>
      (match vkind (vxFmt op.op op.desc) with
       | some k =>
         if op.started && (vxGthStop s i op (vxSees op t.vx) k).isSome then takeAsyncOf (fun a => a.vec == 12) (vxComplete s i) i
         else s
       | none => s)
    | none => s

/-- R155: a vector data abort is taken, or logged after the frame end (R52). -/
def execVectorDataAbort (lti : BitVec 14) (s : State) : Host.Outcome State Fault Refusal :=
  onThawed lti s fun i s => vectorAbort s i

end Sys2Proof.Machine
end

