-- ==== Sys2Proof/Machine/Dispatch.lean ====
section
/-! DEFINITION. Which meaning each command has: one arm for each constructor of Instr. -/

namespace Sys2Proof.Machine

open Sys2Proof

def exec (i : Instr) (s : State) : Host.Outcome State Fault Refusal :=
  match i with
  | .tickTimerExpiry => Sys2Proof.Machine.execTickTimerExpiry s
  | .frameInEdge at_ => Sys2Proof.Machine.execFrameInEdge at_ s
  | .substituteTick => Sys2Proof.Machine.execSubstituteTick s
  | .holdoverTick => Sys2Proof.Machine.execHoldoverTick s
  | .wedge lti => Sys2Proof.Machine.execWedge lti s
  | .tickGap => Sys2Proof.Machine.execTickGap s
  | .frameOutFall => Sys2Proof.Machine.execFrameOutFall s
  | .spreadPeakChange => Sys2Proof.Machine.execSpreadPeakChange s
  | .issueWord lti => Sys2Proof.Machine.execIssueWord lti s
  | .registerWrite lti port x sg => Sys2Proof.Machine.execRegisterWrite lti port x sg s
  | .alAdd lti alu b sg => Sys2Proof.Machine.execAlAdd lti alu b sg s
  | .alAdc lti alu b sg => Sys2Proof.Machine.execAlAdc lti alu b sg s
  | .alSub lti alu b sg => Sys2Proof.Machine.execAlSub lti alu b sg s
  | .alSbc lti alu b sg => Sys2Proof.Machine.execAlSbc lti alu b sg s
  | .alAnd lti alu b sg => Sys2Proof.Machine.execAlAnd lti alu b sg s
  | .alOr lti alu b sg => Sys2Proof.Machine.execAlOr lti alu b sg s
  | .alXor lti alu b sg => Sys2Proof.Machine.execAlXor lti alu b sg s
  | .alAndn lti alu b sg => Sys2Proof.Machine.execAlAndn lti alu b sg s
  | .alShl lti alu b sg => Sys2Proof.Machine.execAlShl lti alu b sg s
  | .alShr lti alu b sg => Sys2Proof.Machine.execAlShr lti alu b sg s
  | .alSar lti alu b sg => Sys2Proof.Machine.execAlSar lti alu b sg s
  | .alCmp lti alu b sg => Sys2Proof.Machine.execAlCmp lti alu b sg s
  | .alMin lti alu b sg => Sys2Proof.Machine.execAlMin lti alu b sg s
  | .alMax lti alu b sg => Sys2Proof.Machine.execAlMax lti alu b sg s
  | .alMinu lti alu b sg => Sys2Proof.Machine.execAlMinu lti alu b sg s
  | .alMaxu lti alu b sg => Sys2Proof.Machine.execAlMaxu lti alu b sg s
  | .alResult lti alu => Sys2Proof.Machine.execAlResult lti alu s
  | .mulMul lti b sg => Sys2Proof.Machine.execMulMul lti b sg s
  | .mulMulu lti b sg => Sys2Proof.Machine.execMulMulu lti b sg s
  | .mulMulsu lti b sg => Sys2Proof.Machine.execMulMulsu lti b sg s
  | .mulProduct lti => Sys2Proof.Machine.execMulProduct lti s
  | .divDiv lti b sg => Sys2Proof.Machine.execDivDiv lti b sg s
  | .divDivu lti b sg => Sys2Proof.Machine.execDivDivu lti b sg s
  | .divComplete lti => Sys2Proof.Machine.execDivComplete lti s
  | .lsuLd lti k off sg => Sys2Proof.Machine.execLsuLd lti k off sg s
  | .lsuSt lti off sg => Sys2Proof.Machine.execLsuSt lti off sg s
  | .lsuPf lti off sg => Sys2Proof.Machine.execLsuPf lti off sg s
  | .lsuFence lti x sg => Sys2Proof.Machine.execLsuFence lti x sg s
  | .loadResult lti k => Sys2Proof.Machine.execLoadResult lti k s
  | .storeHandoff lti => Sys2Proof.Machine.execStoreHandoff lti s
  | .storePerformed lti => Sys2Proof.Machine.execStorePerformed lti s
  | .cacheLineFill lti code => Sys2Proof.Machine.execCacheLineFill lti code s
  | .tlbWalkComplete lti code => Sys2Proof.Machine.execTlbWalkComplete lti code s
  | .asyncDataAbort lti => Sys2Proof.Machine.execAsyncDataAbort lti s
  | .deterministicOverload lti => Sys2Proof.Machine.execDeterministicOverload lti s
  | .brJ lti target sg => Sys2Proof.Machine.execBrJ lti target sg s
  | .brJr lti target sg => Sys2Proof.Machine.execBrJr lti target sg s
  | .brCall lti target sg => Sys2Proof.Machine.execBrCall lti target sg s
  | .brCallr lti target sg => Sys2Proof.Machine.execBrCallr lti target sg s
  | .brConditional lti cond target sg => Sys2Proof.Machine.execBrConditional lti cond target sg s
  | .cbCompareBranch lti cond b sg => Sys2Proof.Machine.execCbCompareBranch lti cond b sg s
  | .loopStart lti x sg => Sys2Proof.Machine.execLoopStart lti x sg s
  | .loopBrk lti x sg => Sys2Proof.Machine.execLoopBrk lti x sg s
  | .libCall lti x sg => Sys2Proof.Machine.execLibCall lti x sg s
  | .wsFset lti x sg => Sys2Proof.Machine.execWsFset lti x sg s
  | .wsFclr lti x sg => Sys2Proof.Machine.execWsFclr lti x sg s
  | .wsCounterWrite lti n x sg => Sys2Proof.Machine.execWsCounterWrite lti n x sg s
  | .sysFend lti x sg => Sys2Proof.Machine.execSysFend lti x sg s
  | .frameEndDrained lti => Sys2Proof.Machine.execFrameEndDrained lti s
  | .sysPhint lti x sg => Sys2Proof.Machine.execSysPhint lti x sg s
  | .sysCinv lti x sg => Sys2Proof.Machine.execSysCinv lti x sg s
  | .cacheInvalidateComplete lti => Sys2Proof.Machine.execCacheInvalidateComplete lti s
  | .sysIcpatch lti x sg => Sys2Proof.Machine.execSysIcpatch lti x sg s
  | .sysIcflush lti x sg => Sys2Proof.Machine.execSysIcflush lti x sg s
  | .icflushComplete lti => Sys2Proof.Machine.execIcflushComplete lti s
  | .sysXret lti x sg => Sys2Proof.Machine.execSysXret lti x sg s
  | .sysNi lti x sg => Sys2Proof.Machine.execSysNi lti x sg s
  | .niWindowExpire lti => Sys2Proof.Machine.execNiWindowExpire lti s
  | .sysTrap lti x sg => Sys2Proof.Machine.execSysTrap lti x sg s
  | .sysTlbs lti x sg => Sys2Proof.Machine.execSysTlbs lti x sg s
  | .sysHostirq lti x sg => Sys2Proof.Machine.execSysHostirq lti x sg s
  | .hostirqSent lti => Sys2Proof.Machine.execHostirqSent lti s
  | .xtbWrite lti serge x sg => Sys2Proof.Machine.execXtbWrite lti serge x sg s
  | .handlerTableLatched lti serge => Sys2Proof.Machine.execHandlerTableLatched lti serge s
  | .sysCcfgWrite lti x sg => Sys2Proof.Machine.execSysCcfgWrite lti x sg s
  | .interruptEntry lti => Sys2Proof.Machine.execInterruptEntry lti s
  | .vxVlWrite lti x sg => Sys2Proof.Machine.execVxVlWrite lti x sg s
  | .vxAdd lti x sg => Sys2Proof.Machine.execVxAdd lti x sg s
  | .vxSub lti x sg => Sys2Proof.Machine.execVxSub lti x sg s
  | .vxMul lti x sg => Sys2Proof.Machine.execVxMul lti x sg s
  | .vxFma lti x sg => Sys2Proof.Machine.execVxFma lti x sg s
  | .vxFms lti x sg => Sys2Proof.Machine.execVxFms lti x sg s
  | .vxFnma lti x sg => Sys2Proof.Machine.execVxFnma lti x sg s
  | .vxMin lti x sg => Sys2Proof.Machine.execVxMin lti x sg s
  | .vxMax lti x sg => Sys2Proof.Machine.execVxMax lti x sg s
  | .vxAbs lti x sg => Sys2Proof.Machine.execVxAbs lti x sg s
  | .vxNeg lti x sg => Sys2Proof.Machine.execVxNeg lti x sg s
  | .vxRcpe lti x sg => Sys2Proof.Machine.execVxRcpe lti x sg s
  | .vxRsqe lti x sg => Sys2Proof.Machine.execVxRsqe lti x sg s
  | .vxAnd lti x sg => Sys2Proof.Machine.execVxAnd lti x sg s
  | .vxOr lti x sg => Sys2Proof.Machine.execVxOr lti x sg s
  | .vxXor lti x sg => Sys2Proof.Machine.execVxXor lti x sg s
  | .vxShl lti x sg => Sys2Proof.Machine.execVxShl lti x sg s
  | .vxShr lti x sg => Sys2Proof.Machine.execVxShr lti x sg s
  | .vxSar lti x sg => Sys2Proof.Machine.execVxSar lti x sg s
  | .vxMov lti x sg => Sys2Proof.Machine.execVxMov lti x sg s
  | .vxCmp lti x sg => Sys2Proof.Machine.execVxCmp lti x sg s
  | .vxMand lti x sg => Sys2Proof.Machine.execVxMand lti x sg s
  | .vxMor lti x sg => Sys2Proof.Machine.execVxMor lti x sg s
  | .vxMxor lti x sg => Sys2Proof.Machine.execVxMxor lti x sg s
  | .vxMandn lti x sg => Sys2Proof.Machine.execVxMandn lti x sg s
  | .vxMpop lti x sg => Sys2Proof.Machine.execVxMpop lti x sg s
  | .vxMfirst lti x sg => Sys2Proof.Machine.execVxMfirst lti x sg s
  | .vxRsum lti x sg => Sys2Proof.Machine.execVxRsum lti x sg s
  | .vxRmax lti x sg => Sys2Proof.Machine.execVxRmax lti x sg s
  | .vxRmin lti x sg => Sys2Proof.Machine.execVxRmin lti x sg s
  | .vxPerm lti x sg => Sys2Proof.Machine.execVxPerm lti x sg s
  | .vxIlv lti x sg => Sys2Proof.Machine.execVxIlv lti x sg s
  | .vxDlve lti x sg => Sys2Proof.Machine.execVxDlve lti x sg s
  | .vxDlvo lti x sg => Sys2Proof.Machine.execVxDlvo lti x sg s
  | .vxRot lti x sg => Sys2Proof.Machine.execVxRot lti x sg s
  | .vxBfly lti x sg => Sys2Proof.Machine.execVxBfly lti x sg s
  | .vxPack lti x sg => Sys2Proof.Machine.execVxPack lti x sg s
  | .vxUnpack lti x sg => Sys2Proof.Machine.execVxUnpack lti x sg s
  | .vxLd lti x sg => Sys2Proof.Machine.execVxLd lti x sg s
  | .vxSt lti x sg => Sys2Proof.Machine.execVxSt lti x sg s
  | .vxGth lti x sg => Sys2Proof.Machine.execVxGth lti x sg s
  | .vxSct lti x sg => Sys2Proof.Machine.execVxSct lti x sg s
  | .vxExt lti x sg => Sys2Proof.Machine.execVxExt lti x sg s
  | .vxIns lti x sg => Sys2Proof.Machine.execVxIns lti x sg s
  | .vxOpStart lti => Sys2Proof.Machine.execVxOpStart lti s
  | .vxOpComplete lti => Sys2Proof.Machine.execVxOpComplete lti s
  | .vectorDataAbort lti => Sys2Proof.Machine.execVectorDataAbort lti s
  | .mxMma lti x sg => Sys2Proof.Machine.execMxMma lti x sg s
  | .mxDrain lti x sg => Sys2Proof.Machine.execMxDrain lti x sg s
  | .mxLut lti x sg => Sys2Proof.Machine.execMxLut lti x sg s
  | .mxSave lti x sg => Sys2Proof.Machine.execMxSave lti x sg s
  | .mxRestore lti x sg => Sys2Proof.Machine.execMxRestore lti x sg s
  | .mxOpStart lti unit => Sys2Proof.Machine.execMxOpStart lti unit s
  | .mxMmaComplete lti => Sys2Proof.Machine.execMxMmaComplete lti s
  | .mxDrainComplete lti => Sys2Proof.Machine.execMxDrainComplete lti s
  | .mxLutComplete lti => Sys2Proof.Machine.execMxLutComplete lti s
  | .mxSaveComplete lti => Sys2Proof.Machine.execMxSaveComplete lti s
  | .mxRestoreComplete lti => Sys2Proof.Machine.execMxRestoreComplete lti s
  | .mxOverflowReplay lti => Sys2Proof.Machine.execMxOverflowReplay lti s
  | .cvCvt lti x sg => Sys2Proof.Machine.execCvCvt lti x sg s
  | .cvNode lti x sg => Sys2Proof.Machine.execCvNode lti x sg s
  | .cvMwu lti x sg => Sys2Proof.Machine.execCvMwu lti x sg s
  | .cvHpush lti x sg => Sys2Proof.Machine.execCvHpush lti x sg s
  | .cvSlot lti x sg => Sys2Proof.Machine.execCvSlot lti x sg s
  | .cvOpStart lti => Sys2Proof.Machine.execCvOpStart lti s
  | .cvOpComplete lti => Sys2Proof.Machine.execCvOpComplete lti s
  | .meshSend lti x sg => Sys2Proof.Machine.execMeshSend lti x sg s
  | .meshPut lti x sg => Sys2Proof.Machine.execMeshPut lti x sg s
  | .meshMailboxWrite lti n x sg => Sys2Proof.Machine.execMeshMailboxWrite lti n x sg s
  | .messageDelivery lti => Sys2Proof.Machine.execMessageDelivery lti s
  | .remoteOpCompletion lti tag status => Sys2Proof.Machine.execRemoteOpCompletion lti tag status s
  | .remoteOpTimeout lti tag => Sys2Proof.Machine.execRemoteOpTimeout lti tag s
  | .lsuDma lti x sg => Sys2Proof.Machine.execLsuDma lti x sg s
  | .dmaDescriptorRead lti => Sys2Proof.Machine.execDmaDescriptorRead lti s
  | .dmaAccept region ch => Sys2Proof.Machine.execDmaAccept region ch s
  | .dmaStart region ch => Sys2Proof.Machine.execDmaStart region ch s
  | .dmaUnitPerformed region ch => Sys2Proof.Machine.execDmaUnitPerformed region ch s
  | .dmaTransferComplete region ch => Sys2Proof.Machine.execDmaTransferComplete region ch s
  | .dmaUnitFail region ch => Sys2Proof.Machine.execDmaUnitFail region ch s
  | .dmaExpiry region ch => Sys2Proof.Machine.execDmaExpiry region ch s
  | .hotPageLogAppend gi => Sys2Proof.Machine.execHotPageLogAppend gi s
  | .residueFault lti unit => Sys2Proof.Machine.execResidueFault lti unit s
  | .parityFaultRetire lti fault => Sys2Proof.Machine.execParityFaultRetire lti fault s
  | .spareRemap cluster => Sys2Proof.Machine.execSpareRemap cluster s
  | .deviceFault kind => Sys2Proof.Machine.execDeviceFault kind s
  | .memRequestAccept reqs => Sys2Proof.Machine.execMemRequestAccept reqs s
  | .burstSlot chan flips => Sys2Proof.Machine.execBurstSlot chan flips s
  | .partialWriteMerge chan flips => Sys2Proof.Machine.execPartialWriteMerge chan flips s
  | .lcReadAgeLimit chan => Sys2Proof.Machine.execLcReadAgeLimit chan s
  | .writeAgeLimit chan => Sys2Proof.Machine.execWriteAgeLimit chan s
  | .memRefresh chan bank => Sys2Proof.Machine.execMemRefresh chan bank s
  | .patrolScrub chan line flips => Sys2Proof.Machine.execPatrolScrub chan line flips s
  | .marginingCommand path rec => Sys2Proof.Machine.execMarginingCommand path rec s
  | .marginingComplete margins => Sys2Proof.Machine.execMarginingComplete margins s
  | .repairCommand path rec => Sys2Proof.Machine.execRepairCommand path rec s
  | .repairComplete => Sys2Proof.Machine.execRepairComplete s
  | .contextRootRecords path recs => Sys2Proof.Machine.execContextRootRecords path recs s
  | .ownershipRecords path recs => Sys2Proof.Machine.execOwnershipRecords path recs s
  | .shootdownRequest path v => Sys2Proof.Machine.execShootdownRequest path v s
  | .dieRouteWrite path sub v => Sys2Proof.Machine.execDieRouteWrite path sub v s
  | .twillFlitReceive link hdr payload => Sys2Proof.Machine.execTwillFlitReceive link hdr payload s
  | .twillPutReceive link hdr payload => Sys2Proof.Machine.execTwillPutReceive link hdr payload s
  | .twillMessageReceive link hdr payload => Sys2Proof.Machine.execTwillMessageReceive link hdr payload s
  | .tickFlitReceive link hdr at_ => Sys2Proof.Machine.execTickFlitReceive link hdr at_ s
  | .systemTickRelease => Sys2Proof.Machine.execSystemTickRelease s
  | .beacon link ttl beacon => Sys2Proof.Machine.execBeacon link ttl beacon s
  | .joinFlit id period => Sys2Proof.Machine.execJoinFlit id period s
  | .statusFlit id => Sys2Proof.Machine.execStatusFlit id s
  | .leaveFlit id => Sys2Proof.Machine.execLeaveFlit id s
  | .candidate link ttl prio id => Sys2Proof.Machine.execCandidate link ttl prio id s
  | .managementFlit link hdr payload => Sys2Proof.Machine.execManagementFlit link hdr payload s
  | .departureDeclared id => Sys2Proof.Machine.execDepartureDeclared id s
  | .leaveSystem => Sys2Proof.Machine.execLeaveSystem s
  | .beaconSilence => Sys2Proof.Machine.execBeaconSilence s
  | .electionTimeout => Sys2Proof.Machine.execElectionTimeout s
  | .ackTimeoutResend link => Sys2Proof.Machine.execAckTimeoutResend link s
  | .delayMeasurement link ps => Sys2Proof.Machine.execDelayMeasurement link ps s
  | .laneFailure link lane => Sys2Proof.Machine.execLaneFailure link lane s
  | .retrainComplete link => Sys2Proof.Machine.execRetrainComplete link s
  | .linkFailed link => Sys2Proof.Machine.execLinkFailed link s
  | .linkRetrainCommand path sub v => Sys2Proof.Machine.execLinkRetrainCommand path sub v s
  | .pcieConfigRequest reg write v => Sys2Proof.Machine.execPcieConfigRequest reg write v s
  | .hotReset => Sys2Proof.Machine.execHotReset s
  | .bar2Read off len => Sys2Proof.Machine.execBar2Read off len s
  | .bar2Write off data => Sys2Proof.Machine.execBar2Write off data s
  | .bar4Read off len => Sys2Proof.Machine.execBar4Read off len s
  | .bar4Write off data => Sys2Proof.Machine.execBar4Write off data s
  | .hCxidWrite v => Sys2Proof.Machine.execHCxidWrite v s
  | .hIrqstClear v causes => Sys2Proof.Machine.execHIrqstClear v causes s
  | .mbGo => Sys2Proof.Machine.execMbGo s
  | .hostRequestCompletion tag status poisoned data => Sys2Proof.Machine.execHostRequestCompletion tag status poisoned data s
  | .hostCompletionTimeout tag => Sys2Proof.Machine.execHostCompletionTimeout tag s
  | .dictRead path idx sub tag => Sys2Proof.Machine.execDictRead path idx sub tag s
  | .dictWrite path idx sub tag data => Sys2Proof.Machine.execDictWrite path idx sub tag data s
  | .domainWriteOpen path idx sub tag size => Sys2Proof.Machine.execDomainWriteOpen path idx sub tag size s
  | .domainWriteSegment path idx sub tag t last data => Sys2Proof.Machine.execDomainWriteSegment path idx sub tag t last data s
  | .domainReadSegment path idx sub tag t => Sys2Proof.Machine.execDomainReadSegment path idx sub tag t s
  | .dictAbort path idx sub tag => Sys2Proof.Machine.execDictAbort path idx sub tag s
  | .domainTransferTimeout path write => Sys2Proof.Machine.execDomainTransferTimeout path write s
  | .frameTableBaseWrite path v => Sys2Proof.Machine.execFrameTableBaseWrite path v s
  | .frameTableValidationDone => Sys2Proof.Machine.execFrameTableValidationDone s
  | .resetArm path v => Sys2Proof.Machine.execResetArm path v s
  | .resetFire path v => Sys2Proof.Machine.execResetFire path v s
  | .resetArmExpiry => Sys2Proof.Machine.execResetArmExpiry s
  | .selfTestCommand path rec => Sys2Proof.Machine.execSelfTestCommand path rec s
  | .selfTestComplete fails => Sys2Proof.Machine.execSelfTestComplete fails s
  | .firmwareImageCommit path image => Sys2Proof.Machine.execFirmwareImageCommit path image s
  | .firmwareStoreComplete ok => Sys2Proof.Machine.execFirmwareStoreComplete ok s
  | .attestationNonce path nonce => Sys2Proof.Machine.execAttestationNonce path nonce s
  | .attestationSelection path pairs => Sys2Proof.Machine.execAttestationSelection path pairs s
  | .attestationSigned => Sys2Proof.Machine.execAttestationSigned s
  | .svnRaise path v => Sys2Proof.Machine.execSvnRaise path v s
  | .persistentFaultClear path v => Sys2Proof.Machine.execPersistentFaultClear path v s
  | .traceRingWrite path sub v => Sys2Proof.Machine.execTraceRingWrite path sub v s
  | .heartbeat => Sys2Proof.Machine.execHeartbeat s
  | .emergency => Sys2Proof.Machine.execEmergency s
  | .pmuMicrosecond activity => Sys2Proof.Machine.execPmuMicrosecond activity s
  | .calibrationMillisecond readings => Sys2Proof.Machine.execCalibrationMillisecond readings s
  | .memorySlotLimitStep => Sys2Proof.Machine.execMemorySlotLimitStep s
  | .droopTrip die => Sys2Proof.Machine.execDroopTrip die s
  | .droopClear die => Sys2Proof.Machine.execDroopClear die s
  | .thermalSample sensor reading => Sys2Proof.Machine.execThermalSample sensor reading s
  | .thermalCeilingUpdate => Sys2Proof.Machine.execThermalCeilingUpdate s
  | .thermalTrip sensor reading => Sys2Proof.Machine.execThermalTrip sensor reading s
  | .throttleNFall => Sys2Proof.Machine.execThrottleNFall s
  | .throttleNRise => Sys2Proof.Machine.execThrottleNRise s
  | .resetAssert source => Sys2Proof.Machine.execResetAssert source s
  | .resetRelease source bring => Sys2Proof.Machine.execResetRelease source bring s
  | .granuleCleared granule => Sys2Proof.Machine.execGranuleCleared granule s
  | .pgoodTimeout group => Sys2Proof.Machine.execPgoodTimeout group s
  | .pgoodFall group => Sys2Proof.Machine.execPgoodFall group s
  | .tapReset => Sys2Proof.Machine.execTapReset s
  | .tapBypass => Sys2Proof.Machine.execTapBypass s
  | .tapIdcode => Sys2Proof.Machine.execTapIdcode s
  | .samplePreload shift => Sys2Proof.Machine.execSamplePreload shift s
  | .tapExtest => Sys2Proof.Machine.execTapExtest s
  | .tapClamp => Sys2Proof.Machine.execTapClamp s
  | .tapHighz => Sys2Proof.Machine.execTapHighz s
  | .frameOutRise => Sys2Proof.Machine.execFrameOutRise s
  | .tickFlitSend => Sys2Proof.Machine.execTickFlitSend s
  | .linkUp link ps => Sys2Proof.Machine.execLinkUp link ps s
  | .acknowledgementDue link => Sys2Proof.Machine.execAcknowledgementDue link s
  | .managementRequestTimeout path idx sub tag => Sys2Proof.Machine.execManagementRequestTimeout path idx sub tag s
  | .serviceRequest lti code => Sys2Proof.Machine.execServiceRequest lti code s
  | .hostRegisterWrite off size data => Sys2Proof.Machine.execHostRegisterWrite off size data s
  | .errorLogAppend => Sys2Proof.Machine.execErrorLogAppend s
  | .flashWriteComplete ok => Sys2Proof.Machine.execFlashWriteComplete ok s
  | .timestampWrap => Sys2Proof.Machine.execTimestampWrap s
  | .busOff st => Sys2Proof.Machine.execBusOff st s

end Sys2Proof.Machine
end

