-- ==== Sys2Proof/Safety.lean ====
section
/-! DEFINITION. What counts as a safe run, in the terms the statements use: when a tile's next word issues, the canonical
form of memory, and the invariants that every step keeps. -/

namespace Sys2Proof.Machine

open Sys2Proof

/-- The next word of logical index lti issues when the command comes: the index exists, its die's clocks run, the tile runs a
program and is not frozen, no asynchronous fault waits and no interrupt qualifies (R11, R71, R222, R225, R391). -/
def Ready (s : State) (lti : BitVec 14) : Prop :=
  lti.toNat < 10240 ∧ (dieOf s (lti.toNat / 1280)).clocks = true ∧ (tileOf s lti.toNat).run = .running ∧
    (tileOf s lti.toNat).asyncs = [] ∧ qualInt (tileOf s lti.toNat) = none ∧ (tileOf s lti.toNat).frozen = 0

/-- Logical index lti exists and its die's clocks run: a command that names it acts (R11, R383, R447). -/
def Clocked (s : State) (lti : BitVec 14) : Prop :=
  lti.toNat < 10240 ∧ (dieOf s (lti.toNat / 1280)).clocks = true

/-- A command that names logical index lti, and that a freeze of its tile holds, acts (R391). -/
def Thawed (s : State) (lti : BitVec 14) : Prop := Clocked s lti ∧ (tileOf s lti.toNat).frozen = 0

/-- The commands of an index that a freeze of its tile holds: results that land and the steps of its engines (R391). -/
def frozenRows (lti : BitVec 14) : List Instr :=
  [.alResult lti false, .alResult lti true, .mulProduct lti, .divComplete lti, .loadResult lti 0, .loadResult lti 1,
   .loadResult lti 2, .loadResult lti 3, .vxOpStart lti, .vxOpComplete lti, .vectorDataAbort lti, .mxOpStart lti 0, .mxOpStart lti 1,
   .mxOpStart lti 2, .mxMmaComplete lti, .mxDrainComplete lti, .mxLutComplete lti, .mxSaveComplete lti, .mxRestoreComplete lti,
   .mxOverflowReplay lti, .cvOpStart lti, .cvOpComplete lti]

/-- The state in which the moves of tile i's next word are made: products of earlier words have signalled, its cycle has begun and results
of earlier words have landed, and the word is held no longer (R71, R75, R95, R97). -/
def wordBegun (s : State) (i : Nat) : State :=
  modTile (landAll (beginCycle (signalMuls s i) i false) i) i fun t => { t with held := 0 }

/-- That state with the word counted among those in progress. -/
def wordOpen (s : State) (i : Nat) (sg : BitVec 8) : State :=
  let t := tileOf (wordBegun s i) i
  setTile (wordBegun s i) i { t with words := (t.words.filter fun e => e.1 != t.nextWid) ++ [(t.nextWid, 1, sg)], nextWid := t.nextWid + 1 }

/-- A port that a move of x by the tile's code may name: it exists, its unit is enabled, its level is held (R79, R100). -/
def Movable (t : Tile) (dst : Nat) (x : Word) : Prop :=
  isPort dst = true ∧ portDisabled t dst = false ∧ levelOk t (portLevel dst true) = true ∧
    (dst = 0x0F8 → catalogued x = true) ∧ inR dst 0x810 0x817 = false

/-! ## What a command leaves alone

A mask sets the fields that may change to fixed values, so that two states with equal masks agree on every other field. -/

/-- A tile without what a signal of its own words changes: its flags and counters, their records, its effects and its words
in progress (R93, R95, R96). -/
def signalPart (t : Tile) : Tile :=
  { t with f := 0, c := [], same := CycleOps.zero, lostclr := 0, csat := 0, effects := 0, words := [] }

/-- A tile without what a signal of another tile records in it: lost clears and saturated counters (R96). -/
def notedPart (t : Tile) : Tile := { t with lostclr := 0, csat := 0 }

/-- A cluster without its shared flags and counters and their record. -/
def clusterPart (c : Cluster) : Cluster := { c with f := 0, c := [], same := CycleOps.zero }

/-- A state without its tiles and clusters. -/
def beyondTiles (s : State) : State := { s with tiles := [], clusters := [] }

/-- Beside tile i nothing differs but what a signal of its words changes: another tile's record of lost clears and saturated
counters, the shared flags and counters of its cluster. -/
structure OutsideTile (i : Nat) (s s' : State) : Prop where
  tiles : ∀ j, j ≠ i → notedPart (tileOf s' j) = notedPart (tileOf s j)
  clusters : ∀ k, k ≠ i / 16 → clusterOf s' k = clusterOf s k
  cluster : clusterPart (clusterOf s' (i / 16)) = clusterPart (clusterOf s (i / 16))

/-- Nothing but what a signal of tile i's words changes differs. -/
structure SignalsOnly (i : Nat) (s s' : State) : Prop where
  outside : OutsideTile i s s'
  tile : signalPart (tileOf s' i) = signalPart (tileOf s i)
  beyond : beyondTiles s' = beyondTiles s

/-- A bank without what the issue of a word changes besides the effect of its move: results of earlier words that land and
flags (R75, R81, R82), loop levels that count down (R89). -/
def wordBank (b : Bank) : Bank :=
  { b with
    al0r := 0, al0p := none, al1r := 0, al1p := none, mullo := 0, mulhi := 0, mulp := [], flags := 0, flagsNext := none
    loops := [], waited := none }

/-- A tile without what the issue of a word changes besides the effect of its move: the program counter, the record of a held
word, the retries that have passed (R391), the loop buffer (R109), the number of the next word, the cycle from which results in flight
count (R10), the fetch that missed and `wordBank` of its current bank, where the satisfied wait ends (R100). -/
def wordPart (t : Tile) : Tile :=
  modBank { signalPart t with
    nextWid := 0, landed := 0, resume := 0, pc := 0, line0 := none, missedAt := none, held := 0, retry := []
    cache := { t.cache with loopBuf := [] } } wordBank

/-- A state without tiles, clusters and the count of retries that succeeded (R409). -/
def beyondWord (s : State) : State := { s with tiles := [], clusters := [], rel := { s.rel with retriesOk := 0 } }

/-- A word of tile i has issued whose move changes, of what is left in a tile by `wordPart`, only what `rest` leaves out. -/
structure WordFrame (i : Nat) (rest : Tile → Tile) (s s' : State) : Prop where
  outside : OutsideTile i s s'
  tile : rest (wordPart (tileOf s' i)) = rest (wordPart (tileOf s i))
  beyond : beyondWord s' = beyondWord s

/-! ## The scalar units -/

/-- What an ALU operation does to C and V (R76). -/
inductive AluKind where
  | addition
  | subtraction
  | logical
  | left
  | right
  deriving DecidableEq, Repr

/-- A row of the table of R81: its command, its kind, the carry or borrow that C gives it, its result, and whether it writes
the result port. -/
structure AluRow where
  command : BitVec 14 → Bool → Word → BitVec 8 → Instr
  kind : AluKind
  carry : Bool → Int
  result : Word → Word → Bool → Word
  writes : Bool

/-- R81: the operations of an integer ALU on A, B and C. -/
def aluRows : List AluRow :=
  [⟨.alAdd, .addition, fun _ => 0, fun a b _ => a + b, true⟩,
   ⟨.alAdc, .addition, fun c => if c then 1 else 0, fun a b c => a + b + (if c then 1 else 0), true⟩,
   ⟨.alSub, .subtraction, fun _ => 0, fun a b _ => a - b, true⟩,
   ⟨.alSbc, .subtraction, fun c => if c then 0 else 1, fun a b c => a - b - (1 - (if c then 1 else 0)), true⟩,
   ⟨.alAnd, .logical, fun _ => 0, fun a b _ => a &&& b, true⟩,
   ⟨.alOr, .logical, fun _ => 0, fun a b _ => a ||| b, true⟩,
   ⟨.alXor, .logical, fun _ => 0, fun a b _ => a ^^^ b, true⟩,
   ⟨.alAndn, .logical, fun _ => 0, fun a b _ => a &&& ~~~b, true⟩,
   ⟨.alShl, .left, fun _ => 0, fun a b _ => a <<< (b.toNat % 64), true⟩,
   ⟨.alShr, .right, fun _ => 0, fun a b _ => a >>> (b.toNat % 64), true⟩,
   ⟨.alSar, .right, fun _ => 0, fun a b _ => a.sshiftRight (b.toNat % 64), true⟩,
   ⟨.alCmp, .subtraction, fun _ => 0, fun a b _ => a - b, false⟩,
   ⟨.alMin, .logical, fun _ => 0, fun a b _ => if a.toInt ≤ b.toInt then a else b, true⟩,
   ⟨.alMax, .logical, fun _ => 0, fun a b _ => if a.toInt ≤ b.toInt then b else a, true⟩,
   ⟨.alMinu, .logical, fun _ => 0, fun a b _ => if a.toNat ≤ b.toNat then a else b, true⟩,
   ⟨.alMaxu, .logical, fun _ => 0, fun a b _ => if a.toNat ≤ b.toNat then b else a, true⟩]

/-- R76: f is what the operation of a row on A, B and C leaves in SYS.flags. -/
def aluFlagsRight (row : AluRow) (a b : Word) (c : Bool) (f : BitVec 4) : Prop :=
  let r := row.result a b c
  let n := b.toNat % 64
  (fZ f = true ↔ r = 0) ∧ fN f = r.getLsbD 63 ∧
  match row.kind with
  | .addition =>
    (fC f = true ↔ (2 : Int) ^ 64 ≤ a.toNat + b.toNat + row.carry c) ∧
      (fV f = true ↔ r.toInt ≠ a.toInt + b.toInt + row.carry c)
  | .subtraction =>
    (fC f = true ↔ (b.toNat : Int) + row.carry c ≤ a.toNat) ∧ (fV f = true ↔ r.toInt ≠ a.toInt - b.toInt - row.carry c)
  | .logical => fC f = false ∧ fV f = false
  | .left => fC f = (if n = 0 then false else a.getLsbD (64 - n)) ∧ fV f = false
  | .right => fC f = (if n = 0 then false else a.getLsbD (n - 1)) ∧ fV f = false

/-- Operand, result and result in flight of AL0 or AL1. -/
def aluOperand (alu : Bool) (b : Bank) : Word := if alu then b.al1o else b.al0o
def aluReadable (alu : Bool) (b : Bank) : Word := if alu then b.al1r else b.al0r
def aluPending (alu : Bool) (b : Bank) : Option (Word × Nat) := if alu then b.al1p else b.al0p

/-- The flags that the next word sees: those a word of the cycle before has left. -/
def flagsNow (b : Bank) : BitVec 4 := b.flagsNext.getD b.flags

/-- Tile i's current bank. -/
def bankIn (s : State) (i : Nat) : Bank := bankOf (tileOf s i)

/-- R82: the multiplications, with their exact products. -/
def mulRows : List ((BitVec 14 → Word → BitVec 8 → Instr) × (Word → Word → Int)) :=
  [(.mulMul, fun a b => a.toInt * b.toInt), (.mulMulu, fun a b => a.toNat * b.toNat),
   (.mulMulsu, fun a b => a.toInt * b.toNat)]

/-- A tile without the state of the divider's operation. -/
def withoutDiv (t : Tile) : Tile := modBank t fun b => { b with div := none, divd := 0, divLast := none }

/-- R83: q and r are the quotient and remainder of n by d. -/
def divisionRight (signed : Bool) (n d q r : Word) : Prop :=
  if d = 0 then q = BitVec.allOnes 64 ∧ r = n
  else if signed then
    if n = BitVec.intMin 64 ∧ d = BitVec.allOnes 64 then q = BitVec.intMin 64 ∧ r = 0
    else n.toInt = q.toInt * d.toInt + r.toInt ∧ r.toInt.natAbs < d.toInt.natAbs ∧ (r = 0 ∨ (r.toInt < 0 ↔ n.toInt < 0))
  else n.toNat = q.toNat * d.toNat + r.toNat ∧ r.toNat < d.toNat

/-- The ports of a tile that a move writes as a whole, each with the bits it keeps and the level it needs (R79). -/
def wholePorts : List (Nat × Nat × Nat) :=
  [(0x040, 64, 0), (0x060, 64, 0), (0x080, 64, 0), (0x090, 64, 0), (0x0A0, 64, 0), (0x0A1, 64, 0), (0x0A2, 3, 0),
   (0x0C0, 64, 0), (0x0C1, 64, 0), (0x0C2, 64, 0), (0x101, 27, 0), (0x102, 27, 0), (0x103, 27, 0), (0x104, 20, 0),
   (0x105, 32, 0), (0x106, 11, 0), (0x107, 64, 0), (0x200, 20, 0), (0x201, 20, 0), (0x202, 20, 0), (0x203, 20, 0),
   (0x204, 20, 0), (0x205, 20, 0), (0x206, 20, 0), (0x207, 20, 0), (0x208, 2, 0), (0x20B, 32, 1), (0x300, 20, 0),
   (0x301, 20, 0), (0x302, 20, 0), (0x303, 36, 0), (0x304, 21, 0), (0x305, 32, 0), (0x306, 32, 0), (0x307, 1, 0),
   (0x308, 9, 0), (0x383, 16, 0), (0x3CF, 64, 1), (0x3DD, 16, 1), (0x800, 44, 0)]

/-- The ports whose writes are ignored (R5): results and read-only status ports, with the level they need. -/
def readOnlyPorts : List (Nat × Nat) :=
  [(0x041, 0), (0x061, 0), (0x081, 0), (0x082, 0), (0x091, 0), (0x092, 0), (0x093, 0), (0x0A4, 0), (0x0A5, 0), (0x0A6, 0),
   (0x0A7, 0), (0x0E1, 0), (0x0E2, 0), (0x0F0, 0), (0x108, 0), (0x10A, 0), (0x20A, 0), (0x309, 0), (0x30A, 0), (0x30B, 0),
   (0x30C, 0), (0x380, 0), (0x386, 0), (0x3C1, 0), (0x3C2, 0), (0x3C3, 0), (0x3C4, 0), (0x3C5, 0), (0x3C6, 0), (0x3C7, 0),
   (0x3C8, 0), (0x3C9, 1), (0x3DA, 1), (0x3DB, 1), (0x3DC, 1), (0x3DE, 1), (0x3FE, 0), (0x3FF, 0), (0x818, 0), (0x819, 0),
   (0x81A, 0), (0x81B, 0), (0x81C, 0), (0x81D, 0), (0x81E, 2), (0x81F, 2)]

/-- A tile without its general registers. -/
def withoutG (t : Tile) : Tile := modBank t fun b => { b with g := [] }

/-- R86: the conditions of BR on Z, N, C and V, in the order of their ports. -/
def brHolds (cond : Nat) (z n c v : Bool) : Bool :=
  ([z, !z, decide (n ≠ v), decide (n = v), !z && decide (n = v), z || decide (n ≠ v), !c, c, c && !z, !c || z] : List Bool).getD
    cond false

/-- R87: the conditions of CB on A and B, in the order of their ports. -/
def cbHolds (cond : Nat) (a b : Word) : Bool :=
  ([decide (a = b), decide (a ≠ b), decide (a.toInt < b.toInt), decide (b.toInt ≤ a.toInt), decide (a.toNat < b.toNat),
    decide (b.toNat ≤ a.toNat)] : List Bool).getD cond false

/-- Whether bit k of the flags holds: Z, N, C, V from bit 0 (R97). -/
def flagBit (f : BitVec 4) (k : Nat) : Bool := f.getLsbD k

/-- A tile without the link and the branch predictor. -/
def withoutBranch (t : Tile) : Tile :=
  let t := modBank t fun b => { b with link := 0 }
  { t with cache := { t.cache with pred := [] } }

/-- A tile without what the ports of `wholePorts` hold. -/
def withoutPorts (t : Tile) : Tile :=
  let t := modBank t fun b => { b with
    al0o := 0, al1o := 0, mulo := 0, divo := 0, lsuo := 0, lsud := 0, lsusz := 0, link := 0, cbo := 0, cbtgt := 0 }
  { t with
    thr := 0
    vx := { t.vx with sa := 0, sb := 0, sc := 0, a := 0, stride := 0, k := 0, d := 0 }
    mx := { t.mx with
      aa := 0, aks := 0, ba := 0, bks := 0, asd := 0, bsd := 0, da := 0, drs := 0, cfg := 0
      bankA := { t.mx.bankA with sadj := 0 }
      bankB := { t.mx.bankB with sadj := 0 } }
    cv := { t.cv with sa := 0, sb := 0, da := 0, sd := 0, n := 0, x := 0, d := 0, sren := false, sel := 0 }
    mesh := { t.mesh with pa := 0 }
    exc := { t.exc with xspM := 0, xspS := 0, ieM := 0, ieS := 0 } }

/-- A tile without the end of its loops. -/
def withoutLoopEnd (t : Tile) : Tile := modBank t fun b => { b with loopEnd := 0 }

/-- A tile without the length of its windows. -/
def withoutWindow (t : Tile) : Tile := { t with exc := { t.exc with niwin := 0 } }

/-- The status ports with bits that a 1 clears: port, lowest and highest such bit, level (R7, R83, R97, R137, R173, R200, R299). -/
def clearPorts : List (Nat × Nat × Nat × Nat) :=
  [(0x094, 1, 2, 0), (0x109, 4, 10, 0), (0x209, 4, 8, 0), (0x30D, 4, 9, 0), (0x384, 0, 31, 0), (0x385, 0, 31, 0), (0x3CB, 0, 0, 1),
   (0x801, 4, 6, 0)]

/-! ## Exceptions -/

/-- The latched entry of vector v of a world (R221). -/
def latched (t : Tile) (h : World) (v : Nat) : Word := smGet 0 (match h with | .serge => t.exc.latchS | .muslin => t.exc.latchM) v

/-- The shadow bank of a world (R220). -/
def shadowOf : World → BankId
  | .muslin => .muslin
  | .serge => .serge

/-- A handler of world h for vector v starts without a push: its entry is valid, its bank is free, no fatal handler runs
(R226). -/
def Enterable (t : Tile) (h : World) (v : Nat) : Prop :=
  t.exc.fatal = false ∧ wBit (latched t h v) 0 = true ∧
    (match h with | .muslin => t.exc.msh | .serge => t.exc.ssh) = false

/-- The record of a world's shadow bank (R227). -/
def recordOf (t : Tile) : World → XRec
  | .muslin => t.exc.recM
  | .serge => t.exc.recS

/-- R226: tile i has entered the handler of world h for a cause, from its condition in `s`. -/
structure HandlerEntered (s t : State) (i : Nat) (h : World) (c : Cause) : Prop where
  world : (tileOf t i).world = h
  level : (tileOf t i).sup = true
  bank : (tileOf t i).cur = shadowOf h
  inlib : (bankIn t i).inlib = false
  start : (tileOf t i).pc = 16 * wBits (latched (tileOf s i) h c.vec) 51 4
  running : (tileOf t i).run = .running
  used : (match h with | .muslin => (tileOf t i).exc.msh | .serge => (tileOf t i).exc.ssh) = true
  xpc : (recordOf (tileOf t i) h).pc = wOf c.pc
  xfa : (recordOf (tileOf t i) h).fa = c.fa
  vec : wBits (recordOf (tileOf t i) h).cs 5 0 = c.vec % 64
  info : wBits (recordOf (tileOf t i) h).cs 15 8 = c.info % 256
  slots : wBits (recordOf (tileOf t i) h).cs 19 16 = c.slots % 16
  async : wBit (recordOf (tileOf t i) h).cs 21 = c.async
  dual : wBit (recordOf (tileOf t i) h).cs 20 = c.dual
  requested : wBits (recordOf (tileOf t i) h).st 1 0 = b2n (tileOf s i).sup + 2 * b2n (serge (tileOf s i))
  origin : wBits (recordOf (tileOf t i) h).st 3 2 = b2n (tileOf s i).sup + 2 * b2n (serge (tileOf s i))
  originBank : wBits (recordOf (tileOf t i) h).st 5 4 = bankCode (tileOf s i).cur
  notPushed : wBit (recordOf (tileOf t i) h).st 6 = false
  resumable : wBit (recordOf (tileOf t i) h).st 7 = decide (c.vec = 13)
  originLib : wBit (recordOf (tileOf t i) h).st 8 = (bankIn s i).inlib
  registers : ∀ n, gReg (bankAt (tileOf t i) (tileOf s i).cur) n = gReg (bankIn s i) n
  division : (bankAt (tileOf t i) (tileOf s i).cur).div = none
  engines : (tileOf t i).vx = (tileOf s i).vx ∧ (tileOf t i).mx = (tileOf s i).mx ∧ (tileOf t i).cv = (tileOf s i).cv

/-- The exception stack pointer of a world, and how many frames are pushed (R232, R233). -/
def xspOf (t : Tile) : World → Word
  | .muslin => t.exc.xspM
  | .serge => t.exc.xspS
def pushedOf (t : Tile) : World → Nat
  | .muslin => t.exc.mpush.toNat
  | .serge => t.exc.spush.toNat

/-- The shadow bank of a world is in use (R220). -/
def shadowUsed (t : Tile) : World → Bool
  | .muslin => t.exc.msh
  | .serge => t.exc.ssh

/-- R234: from its condition in `u`, tile i has spilled to offsets 0 to 255 of its store and entered vector 0 of the Serge world for an entry
`want` that could not be made, with `have_` the record that could not be pushed or popped. -/
structure DoubleFaulted (u t : State) (i : Nat) (want have_ : XRec) (xsp : Word) (reason pc : Nat) : Prop where
  spill : readBytes t (storePa i 0) 256 = spillBytes u (tileOf u i) (bankIn u i) want have_ xsp reason
  others : ∀ p, p < storePa i 0 ∨ storePa i 0 + 256 ≤ p → readByte t p = readByte u p
  fatal : (tileOf t i).exc.fatal = true
  world : (tileOf t i).world = .serge ∧ (tileOf t i).cur = .serge ∧ (tileOf t i).sup = true
  start : (tileOf t i).pc = 16 * wBits (latched (tileOf u i) .serge 0) 51 4 ∧ (tileOf t i).run = .running
  record : recordOf (tileOf t i) .serge = ⟨wOf pc, entryXst (tileOf u i) false true, causeXcs ⟨0, reason, 0, pc, 0, false, false⟩, 0⟩

/-- R234, R235: a double fault of tile i: it enters vector 0, or halts where the spill area is protected or the entry is invalid. -/
def FaultsTwice (u t : State) (i : Nat) (want have_ : XRec) (xsp : Word) (reason pc : Nat) : Prop :=
  (tsinHit u i 0 = false → wBit (latched (tileOf u i) .serge 0) 0 = true → DoubleFaulted u t i want have_ xsp reason pc) ∧
    (tsinHit u i 0 = true ∨ wBit (latched (tileOf u i) .serge 0) 0 = false → (tileOf t i).run = .halted)

/-- Aligned pieces of 64 B that do not overlap. -/
def apart (offs : List Nat) : Prop := (∀ o ∈ offs, o % 64 = 0) ∧ offs.Pairwise fun a b => a + 64 ≤ b ∨ b + 64 ≤ a

/-- No open loop level of tile i ends at the word at its pc (R89). -/
def NoLevelEnds (s : State) (i : Nat) : Prop := ∀ l ∈ (bankIn s i).loops, l.last ≠ (tileOf s i).pc

/-- A tile without the state of open loop levels and Calico calls. -/
def withoutLib (t : Tile) : Tile :=
  let t := modBank t fun b => { b with inlib := false, libRet := 0, libNo := 0 }
  { t with libLast := 0, pc := 0 }

/-! ## Memory accesses of a tile -/

/-- R85: the address and the size of an access of the load-store unit. -/
def accessVa (b : Bank) (off : Word) : Nat := (b.lsuo + off).toNat
def accessSize (b : Bank) : Nat := 2 ^ (b.lsusz.toNat % 4)

/-- Result port k of the load-store unit. -/
def loadPort (b : Bank) (k : BitVec 2) : Word :=
  match k.toNat with | 0 => b.r0 | 1 => b.r1 | 2 => b.r2 | _ => b.r3

/-- R85: the bytes of a load, extended as LSU.sz.SX says. -/
def extended (signed : Bool) (bs : List Byte) : Word :=
  let v := BitVec.ofNat (8 * bs.length) (leNat bs)
  if signed then v.signExtend 64 else v.setWidth 64

/-- A precise fault of the word at tile i's pc: it enters the handler of the tile's own world. -/
def TakesFault (c : Instr) (s : State) (i vec info : Nat) (fa : Word) : Prop :=
  Enterable (tileOf s i) (tileOf s i).world vec →
    ∃ t, exec c s = .next t ∧ HandlerEntered s t i (tileOf s i).world ⟨vec, info, fa, (tileOf s i).pc, 1, false, false⟩

/-- R265 to R268: how an access of n bytes that waited for its walk goes on when its pages are found and permit it: translated by the leaf of
its first byte, and behind the end of that page by the leaf of the next. -/
def WalkEnds (s : State) (i : Nat) (w : Who) (store patch : Bool) (va n : Nat) (tr : Trans) : Prop :=
  let permits := fun (e : TlbEntry) (a : Nat) =>
    leafCheck e w.sup (if store then Use.store else Use.load) (inPatch (tileOf s i) a && patch) = none
  let cached := fun (pa : Nat) (nc : Bool) => (store || !nc) && w.den && paClass pa == .stacked
  let (first, s') := fillTlb s i w.serge false va
  ∀ e, first = some e → permits e va →
    let pa := e.pbase + va % 2 ^ pageBits e.level
    let n1 := 2 ^ pageBits e.level - va % 2 ^ pageBits e.level
    (n ≤ n1 → physCheck s i w store none pa n = none → ∃ c2, tr = .phys pa (pa + n) n (cached pa e.nc) c2 e.lc) ∧
    ∀ e', n1 < n → (fillTlb s' i w.serge false (va + n - 1)).1 = some e' → e'.vpage ≠ va >>> pageBits e'.level → permits e' (va + n1) →
      let pa' := e'.pbase + (va + n1) % 2 ^ pageBits e'.level
      physCheck s i w store none pa n1 = none → physCheck s i w store none pa' (n - n1) = none →
      tr = .phys pa pa' n1 (cached pa e.nc) (cached pa' e'.nc) (e.lc || e'.lc)

/-- A tile without its caches, patching included. -/
def withoutCache (t : Tile) : Tile := { t with cache := CacheSt.zero }

/-- Every byte of physical memory reads as before. -/
def MemoryKept (s t : State) : Prop := ∀ a, readByte t a = readByte s a

/-! ## The vector engine -/

/-- The triggers of the vector engine with the port of each, less 0x100. -/
def vxRows : List ((BitVec 14 → Word → BitVec 8 → Instr) × Nat) :=
  [(.vxAdd, 0x20), (.vxSub, 0x21), (.vxMul, 0x22), (.vxFma, 0x23), (.vxFms, 0x24), (.vxFnma, 0x25), (.vxMin, 0x26),
   (.vxMax, 0x27), (.vxAbs, 0x28), (.vxNeg, 0x29), (.vxRcpe, 0x2A), (.vxRsqe, 0x2B), (.vxAnd, 0x2C), (.vxOr, 0x2D),
   (.vxXor, 0x2E), (.vxShl, 0x2F), (.vxShr, 0x30), (.vxSar, 0x31), (.vxMov, 0x32), (.vxCmp, 0x40), (.vxMand, 0x41),
   (.vxMor, 0x42), (.vxMxor, 0x43), (.vxMandn, 0x44), (.vxMpop, 0x45), (.vxMfirst, 0x46), (.vxRsum, 0x50),
   (.vxRmax, 0x51), (.vxRmin, 0x52), (.vxPerm, 0x60), (.vxIlv, 0x61), (.vxDlve, 0x62), (.vxDlvo, 0x63), (.vxRot, 0x64),
   (.vxBfly, 0x65), (.vxPack, 0x70), (.vxUnpack, 0x71), (.vxLd, 0x80), (.vxSt, 0x81), (.vxGth, 0x82), (.vxSct, 0x83),
   (.vxExt, 0x90), (.vxIns, 0x91)]

/-- A tile without its vector engine. -/
def withoutVx (t : Tile) : Tile := { t with vx := Vx.zero }

/-- R133: the least and the greatest value of an integer format. -/
def intLow (w : Nat) (sg : Bool) : Int := if sg then -(2 ^ (w - 1) : Nat) else 0
def intHigh (w : Nat) (sg : Bool) : Int := if sg then (2 ^ (w - 1) : Nat) - 1 else (2 ^ w : Nat) - 1

/-- The vector engine of a tile, its destination registers, flags and queue left out. -/
def vxPorts (vx : Vx) : Vx := { vx with v := [], st := 0, queue := [] }

/-- R146: the elementwise operations whose integer result is reduced to the element's width, with the exact result. -/
def vxExactRows : List (Nat × (Int → Int → Int → Int)) :=
  [(0x20, fun a b _ => a + b), (0x21, fun a b _ => a - b), (0x22, fun a b _ => a * b), (0x23, fun a b c => a * b + c),
   (0x24, fun a b c => a * b - c), (0x25, fun a b c => -(a * b) + c), (0x26, fun a b _ => min a b), (0x27, fun a b _ => max a b),
   (0x28, fun a _ _ => if a < 0 then -a else a), (0x29, fun a _ _ => -a)]

/-- R146, R148: the elementwise operations on the bits of w-bit elements. -/
def vxBitRows : List (Nat × (Nat → Nat → Nat → Nat)) :=
  [(0x2C, fun _ a b => a &&& b), (0x2D, fun _ a b => a ||| b), (0x2E, fun _ a b => a ^^^ b), (0x32, fun _ a _ => a),
   (0x2F, fun w a b => (a <<< (b % w)) % 2 ^ w), (0x30, fun w a b => a >>> (b % w)),
   (0x31, fun w a b => ((BitVec.ofNat w a).sshiftRight (b % w)).toNat)]

/-- R146: of those, the operations that every format has. -/
def vxBitwise : List Nat := [0x2C, 0x2D, 0x2E, 0x32]

/-- R146, R147: the floating-point operations on exact values, with whether they are invalid. -/
def vxFpRows : List (Nat × (RMode → FV → FV → FV → FV × Bool)) :=
  [(0x20, fun rm a b _ => fvAdd rm a b), (0x21, fun rm a b _ => fvAdd rm a (fvOpp b)), (0x22, fun _ a b _ => fvMul a b),
   (0x23, fun rm a b c => ((fvAdd rm (fvMul a b).1 c).1, (fvMul a b).2 || (fvAdd rm (fvMul a b).1 c).2)),
   (0x24, fun rm a b c => ((fvAdd rm (fvMul a b).1 (fvOpp c)).1, (fvMul a b).2 || (fvAdd rm (fvMul a b).1 (fvOpp c)).2)),
   (0x25, fun rm a b c => ((fvAdd rm (fvOpp (fvMul a b).1) c).1, (fvMul a b).2 || (fvAdd rm (fvOpp (fvMul a b).1) c).2)),
   (0x26, fun _ a b _ => fvMin a b), (0x27, fun _ a b _ => fvMax a b)]

/-- R149: q × 2^g is 1 / A, or 1 / √A, rounded toward zero to 12 significant bits, for A = m × 2^e above 0. -/
def estimates (sqrt : Bool) (m : Nat) (e : Int) (q : Nat) (g : Int) : Prop :=
  2048 ≤ q ∧ q < 4096 ∧ ∃ h : Nat,
    if sqrt then 2 * g + e = -(h : Int) ∧ q * q * m ≤ 2 ^ h ∧ 2 ^ h < (q + 1) * (q + 1) * m
    else g + e = -(h : Int) ∧ q * m ≤ 2 ^ h ∧ 2 ^ h < (q + 1) * m

/-- R150: a condition of `cmp` on two elements of which one is a NaN, or that compare as less, equal or greater. -/
def cmpHolds (cond : Nat) (un lt eq gt : Bool) : Bool :=
  if un then cond == 1 || cond == 6 else ([eq, !eq, lt, lt || eq, gt, gt || eq, false, true] : List Bool).getD cond false

/-- R150: the mask logic. -/
def maskRows : List (Nat × (Bool → Bool → Bool)) :=
  [(0x41, fun a b => a && b), (0x42, fun a b => a || b), (0x43, fun a b => a != b), (0x44, fun a b => a && !b)]

/-- R152: whether D[j] comes from B, and from which of its elements; x is element j of the index register, k VX.k. -/
def permuteFrom (op n vlm k x j : Nat) : Bool × Nat :=
  match op with
  | 0x60 => (false, x % vlm)
  | 0x61 => (decide (j % 2 = 1), j / 2)
  | 0x62 => if 2 * j < n then (false, 2 * j) else (true, 2 * j - n)
  | 0x63 => if 2 * j + 1 < n then (false, 2 * j + 1) else (true, 2 * j + 1 - n)
  | 0x64 => (false, (j + k) % n)
  | _ => (false, if Nat.xor j (2 ^ k) < n then Nat.xor j (2 ^ k) else j)

/-- R139: elements 0 to n − 1, of w bits, of an operation's destination register are written under its mask: `right j y` says what an active
element is, `flag j b` which flags of VX.st it sets; an inactive one keeps its value, or is zeroed under MZ. Nothing else differs but
the queue. -/
structure RegWritten (op : VxOp) (n w : Nat) (right flag : Nat → Nat → Prop) (vx vx' : Vx) : Prop where
  active : ∀ j, j < n → vActive (vxSees op vx).m op.desc j = true → right j (vGet vx'.v (dVD op.desc) w j)
  inactive : ∀ j, j < n → vActive (vxSees op vx).m op.desc j = false →
    vGet vx'.v (dVD op.desc) w j = if wBit op.desc 24 then 0 else vGet vx.v (dVD op.desc) w j
  others : ∀ p, p < 2048 * dVD op.desc ∨ 2048 * dVD op.desc + n * (w / 8) ≤ p → smGet 0 vx'.v p = smGet 0 vx.v p
  flags : ∀ b, b < 7 → (vx'.st.getLsbD b = true ↔
    vx.st.getLsbD b = true ∨ ∃ j, j < n ∧ vActive (vxSees op vx).m op.desc j = true ∧ flag j b)
  rest : vxPorts vx' = vxPorts vx

/-- R139, R150: bits 0 to n − 1 of an operation's destination mask are written under its mask: `bit` gives an active one, `invalid` says
whether it sets NV. Nothing else differs but the queue. -/
structure MaskWritten (op : VxOp) (n : Nat) (bit invalid : Nat → Bool) (vx vx' : Vx) : Prop where
  active : ∀ j, j < n → vActive (vxSees op vx).m op.desc j = true → mGet vx'.m (wBits op.desc 2 0) j = bit j
  inactive : ∀ j, j < n → vActive (vxSees op vx).m op.desc j = false →
    mGet vx'.m (wBits op.desc 2 0) j = if wBit op.desc 24 then false else mGet vx.m (wBits op.desc 2 0) j
  others : ∀ p, p < 2048 * wBits op.desc 2 0 ∨ 2048 * wBits op.desc 2 0 + n ≤ p → smGet false vx'.m p = smGet false vx.m p
  flags : ∀ b, b < 7 → (vx'.st.getLsbD b = true ↔
    vx.st.getLsbD b = true ∨ (b = 1 ∧ ∃ j, j < n ∧ vActive (vxSees op vx).m op.desc j = true ∧ invalid j = true))
  rest : { vx' with m := [], st := 0, queue := [] } = { vx with m := [], st := 0, queue := [] }

/-- R151: a result of w bits with its flags is written into element 0 of an operation's destination register. -/
structure Element0 (op : VxOp) (w : Nat) (right : Nat → Prop) (flag : Nat → Prop) (vx vx' : Vx) : Prop where
  result : right (vGet vx'.v (dVD op.desc) w 0)
  others : ∀ p, p < 2048 * dVD op.desc ∨ 2048 * dVD op.desc + w / 8 ≤ p → smGet 0 vx'.v p = smGet 0 vx.v p
  flags : ∀ b, b < 7 → (vx'.st.getLsbD b = true ↔ vx.st.getLsbD b = true ∨ flag b)
  rest : vxPorts vx' = vxPorts vx

/-- R148: y is the exact result x reduced to w bits, wrapped or saturated. -/
def reducedTo (w : Nat) (sg sat : Bool) (x : Int) (y : Nat) : Prop :=
  y < 2 ^ w ∧ if sat then vint w sg y = clampI (intLow w sg) (intHigh w sg) x else ((y : Int) - x) % (2 ^ w : Nat) = 0

/-! ## The matrix engine and the conversion unit -/

/-- The triggers of the matrix engine with the port of each, less 0x200. -/
def mxRows : List ((BitVec 14 → Word → BitVec 8 → Instr) × Nat) :=
  [(.mxMma, 0x20), (.mxDrain, 0x21), (.mxLut, 0x22), (.mxSave, 0x23), (.mxRestore, 0x24)]

/-- A tile without its matrix engine. -/
def withoutMx (t : Tile) : Tile := { t with mx := Mx.zero }

/-- The matrix engine without its queue and the record of what has been triggered for each bank. -/
def mxFixed (m : Mx) : Mx :=
  { m with
    queue := []
    bankA := { m.bankA with listValid := false, trigKind := 0, trigCount := 0 }
    bankB := { m.bankB with listValid := false, trigKind := 0, trigCount := 0 } }

/-- R172: an operation with the ports as they stand at its trigger. -/
def mxCaptured (t : Tile) (op : Nat) (x : Word) : MxOp :=
  { op := op, desc := x, aa := t.mx.aa, aks := t.mx.aks, ba := t.mx.ba, bks := t.mx.bks, asd := t.mx.asd, bsd := t.mx.bsd,
    da := t.mx.da, drs := t.mx.drs, cfg := t.mx.cfg, calOpen := (bankOf t).inlib, snapKind := 0, snap := [], lutA := [],
    lutB := [], started := false, wid := t.nextWid, run := MxRun.zero }

/-- An operation without what its start records. -/
def mxTriggered (o : MxOp) : MxOp :=
  { o with started := false, snapKind := 0, snap := [], lutA := [], lutB := [], run := MxRun.zero }

/-- A vector operation without what its start records. -/
def vxTriggered (o : VxOp) : VxOp := { o with started := false, run := VxRun.zero }

/-- A conversion without what its start and its reads record. -/
def cvTriggered (o : CvOp) : CvOp := { o with started := false, run := CvRun.zero }

/-- An 8-bit operand element as its format code reads it: 0xA signed, 0xE unsigned (R161). -/
def int8Of (fmt : Nat) (b : Byte) : Int := if fmt = 10 then b.toInt else b.toNat

/-- R191: the value of an element of a bank of a kind, as a save area holds it. -/
def savedValue (b : MxBank) (e : Nat) : Int :=
  let x := (smGet 0 b.vals e).toNat
  if b.kind = 0 ∨ (b.kind = 2 ∧ 16 ≤ e) then 0 else if b.kind = 1 then sInt 48 x else if b.kind = 2 then sInt 96 x else sInt 40 x

/-- R162: where the bytes of column or row k of a stream begin in the tile store. -/
def columnAt (o : MxOp) (st : MStream) (k : Nat) : Nat := if st.isB then o.ba.toNat + k * o.bks.toNat else o.aa.toNat + k * o.aks.toNat

/-- R168, R187: the scaled product of cell (r, c) in step k, for a bank at replay scale `sadj`. -/
def matrixProduct (s : State) (i : Nat) (o : MxOp) (cl : MClass) (sadj r c k : Nat) : FV :=
  match mScale s i o (mA o.desc) k r, mScale s i o (mB o.desc) k c with
  | some ea, some eb => fvShift (fvMul (mElem s i o (mA o.desc) cl k r).v (mElem s i o (mB o.desc) cl k c).v).1 (ea + eb - sadj)
  | _, _ => .nan false

/-- R176, R215: an element of a bank after an accumulation: its chunks of 16 products, each summed by the fixed tree, are added in order. -/
def matrixCell (s : State) (i : Nat) (o : MxOp) (cl : MClass) (sadj r c : Nat) (old : BitVec 96) : BitVec 96 :=
  let acc := if mKind cl = 2 then a96 else a48
  let node := fun (x y : FV) => (accNode acc (x, false) (y, false)).1
  (List.range (ceilDiv (mK o.desc) 16)).foldl (fun x j =>
    let chunk := chunkTree node (.fin false 0 0)
      ((List.range (min 16 (mK o.desc - 16 * j))).map fun q => matrixProduct s i o cl sadj r c (16 * j + q))
    BitVec.ofNat 96 (accPack acc (node (accUnpack acc x.toNat) chunk))) old

/-- R184: what a drain writes of an element of a bank of a kind, in w bytes. -/
def drainedBits (d : Word) (kind : BitVec 2) (w : Nat) (x : BitVec 96) : Nat :=
  if kind = 3 then uBits (8 * w) (if w = 4 then clampI (intLow 32 true) (intHigh 32 true) (i40 x) else i40 x)
  else (fPack (if kind = 2 then fp64 else fp32) (rmOf (wBits d 5 4)) (accUnpack (if kind = 2 then a96 else a48) x.toNat)).1

/-- R198, R199, R201: x rounded once into a target; `grid` rounds into F19 (R201). -/
def converted (k : CKind) (grid : Bool) (rm : RMode) (x : FV) : Nat :=
  match k, x with
  | .fp f, .fin g m e => if grid then (fRound f19 rm g m e).1 * 8192 else (fPack f rm (.fin g m e)).1
  | .fp f, x => (fPack f rm x).1
  | .int _ _, .nan _ => 0
  | .int w sg, .inf g => uBits w (if g then intLow w sg else intHigh w sg)
  | .int w sg, x => uBits w (clampI (intLow w sg) (intHigh w sg) ((fvToInt rm x).elim 0 (·.1)))

/-- R201, R210: the scaled source element j of a conversion, of the bytes as its line was read; none under a NaN block scale. -/
def convertSource (s : State) (i : Nat) (o : CvOp) (k : CKind) (j : Nat) : Option FV :=
  let src := (cvtFeet o.desc (cvPorts o (tileOf s i).cv) o.n.toNat).1
  let v := cValue k (leNat (cvBytes s i o src.reg (src.base + j * (cwidth k / 8)) (cwidth k / 8)))
  let e := (scaleByte s i o (j / 32)).toNat
  if cSbs o.desc then (if e = 255 then none else some (fvShift v ((e : Int) - 127 + xaOf o.x))) else some (fvShift v (xaOf o.x))

/-- R205, R207, R208: the block exponent E_b: of the largest magnitude of the block, of the stored scale and overflow bit, or of the slot's
history. -/
def blockExponent (s : State) (i : Nat) (o : CvOp) (k : CKind) (b : Nat) : Int :=
  let emax : Int := if cDf o.desc = 4 then 8 else 15
  let current := exOf emax (((List.range (min 32 (o.n.toNat - 32 * b))).map fun q => convertSource s i o k (32 * b + q)).foldl
    (fun a x => x.elim a (fvMaxAbs a)) (.fin false 0 0))
  let stored := (readByte s (storePa i (scaleOff o.sd b))).toNat
  if cBsc o.desc = 1 then current
  else if cBsc o.desc = 2 then min 127 ((if stored = 255 then 127 else (stored : Int) - 127) + b2n (oldBit s i o b))
  else (slotH (slotOf (tileOf s i).cv (cSlot o.desc))).elim current fun h => exOf emax (fUnpack fp32 h)

/-- R212, R213: the rounding of element j of a conversion. -/
def convertMode (s : State) (i : Nat) (o : CvOp) (j : Nat) : RMode :=
  let c := (tileOf s i).cv
  if (slotOf c (cSlot o.desc)).grad && o.sren then .sr (srWord s.fr.frel i (cSlot o.desc) ((smGet 0 c.ctr (cSlot o.desc)).toNat + j))
  else rmOf (wBits o.desc 16 15)

/-- The triggers of the conversion unit with the port of each, less 0x300. -/
def cvRows : List ((BitVec 14 → Word → BitVec 8 → Instr) × Nat) :=
  [(.cvCvt, 0x20), (.cvNode, 0x21), (.cvMwu, 0x22), (.cvHpush, 0x23), (.cvSlot, 0x24)]

/-- A tile without its conversion unit. -/
def withoutCv (t : Tile) : Tile := { t with cv := Cv.zero }

/-! ## Sends, puts and DMA -/

/-- The triggers whose operation enters the store buffer beside `st`, with its kind (R278, R301, R303). -/
def bufferedRows : List ((BitVec 14 → Word → BitVec 8 → Instr) × SbKind) :=
  [(.lsuDma, .dma), (.meshSend, .send), (.meshPut, .put)]

/-- Offset and length of what a buffered operation reads of its tile store. -/
def bufferedSource (k : SbKind) (x : Word) : Nat × Nat :=
  match k with
  | .dma => (wBits x 19 0, 64)
  | .send => (wBits x 45 26, 64 * (wBits x 18 17 + 1))
  | _ => (wBits x 30 11, 64 * (wBits x 3 0 + 1))

/-- The source is misaligned, out of the store, or in Calico's working set: the offset that the data abort names. -/
def badSource (s : State) (i : Nat) (k : SbKind) (x : Word) : Option Nat :=
  let (a, n) := bufferedSource k x
  if a % 64 ≠ 0 then some a
  else (spanBad s i (bankIn s i).inlib false a n).map fun off => if k = .dma then a else off

/-- A tile without its store buffer. -/
def withoutBuffer (t : Tile) : Tile := { t with sb := [], nextSeq := 0 }

/-- A tile without its mesh ports. -/
def withoutMesh (t : Tile) : Tile := { t with mesh := Mesh.zero }

/-- The mailbox of a message and its tile. -/
def messageBox (o : MeshOp) : Nat := wBits o.x 16 14
def messageTile (o : MeshOp) : Nat := wBits o.x 13 0

/-- R300: where the next message of a mailbox lands. -/
def slotPlace (m : Mesh) (mb : Nat) : Nat :=
  let p := smGet 0 m.mb mb
  wBits p 39 20 + 256 * (smGet 0 m.rc mb % (wBits p 4 1 + 1))

/-- How a put is checked at its receiver (R303). -/
def putAccess (cx : BitVec 12) : Acc := { write := true, serge := false, cxid := cx, calOwn := none, bar := false, die := none }

/-- Tile i, the flags of its cluster and the state beyond differ as a word that completes makes them, but for what `rest` leaves
out and for memory. -/
def CompletesWord (i : Nat) (rest : Tile → Tile) (s t : State) : Prop :=
  rest (signalPart (tileOf t i)) = rest (signalPart (tileOf s i)) ∧ OutsideTile i s t

/-- No trace ring is in place (R406). -/
def Untraced (s : State) : Prop := s.rel.traceOwner = 0xFFF

/-- R278, R280: the fields that a submission has taken from the 64 bytes of its descriptor. -/
def jobOf (j : DmaJob) (d : Nat) : Prop :=
  j.src = d % 2 ^ 52 ∧ j.dst = d / 2 ^ 64 % 2 ^ 52 ∧ j.len = d / 2 ^ 128 % 2 ^ 32 ∧ j.lc = d.testBit 168 ∧ j.fie = d.testBit 169 ∧
    j.frec = d / 2 ^ 192 % 2 ^ 20 ∧ (j.sg.extractLsb' 1 5).toNat = d / 2 ^ 160 % 32 ∧ j.sg.getLsbD 6 = d.testBit 165 ∧
    j.sg.getLsbD 0 = d.testBit 166 ∧ j.sg.getLsbD 7 = d.testBit 167

/-- R283, R284, R288: a fault of a descriptor is recorded: in the tile store while its frame runs, when the place allows it. -/
def FaultRecorded (s t : State) (ch : Nat) (j : DmaJob) (code side : Nat) : Prop :=
  (s.fr.fnum.toNat = j.frame → recFits s j = true →
    (readWord t (storePa j.lti j.frec)).toNat =
      code + 256 * side + 512 * b2n j.early + 1024 * ch + 65536 * ((j.len - j.next) % 2 ^ 32) ∧
    readWord t (storePa j.lti (j.frec + 8)) = wOf ((if side = 0 then j.src else j.dst) + 64 * j.next) ∧
    readWord t (storePa j.lti (j.frec + 16)) = s.fr.fnum ∧ readWord t (storePa j.lti (j.frec + 24)) = 0) ∧
  (s.fr.fnum.toNat ≠ j.frame → Untraced s → MemoryKept s t)

/-! ## Frames and the dictionary -/

/-- R51, R98, R99: what tile v is after a tick with entry e, from the tile u before it. -/
structure TileStarts (e : FtEntry) (u v : Tile) : Prop where
  off : e.en = false → v.run = .idle
  bad : e.en = true → ∀ h, u.staged = some h → h.fault ≠ 0 → v.run = .ended
  run : e.en = true → ∀ h, u.staged = some h → h.fault = 0 →
    v.run = .running ∧ v.pc = h.code ∧ v.sup = e.wl.getLsbD 0 ∧ v.world = (if e.wl.getLsbD 1 then .serge else .muslin) ∧
      v.det = e.det ∧ v.calen = h.calen ∧ v.loopen = h.loopen ∧ v.exc.xtbM = h.xtbm
  zero : v.prim = Bank.zero ∧ v.mban = Bank.zero ∧ v.sban = Bank.zero ∧ v.cur = .primary ∧ v.f = 0 ∧ v.c = [] ∧ v.vx = Vx.zero

/-- R15, R43, R50, R51, R54, R93: a tick at an instant of the timebase has taken the part from s to t. -/
structure TickMade (s t : State) (at_ : Nat) : Prop where
  ticked : t.fr.ticked = true
  number : t.fr.fnum = if s.fr.ticked then s.fr.fnum + 1 else 0
  instant : t.fr.lastTick = at_
  cycle : t.fr.fcyc = 4
  gap : t.fr.inGap = false
  pin : t.fr.frameOutDue = true
  shared : smWf Tile.zero s.tiles = true → (∀ d, d < 8 → (dieOf s d).clocks = true) →
    ∀ k, k < 640 → (clusterOf t k).f = 0 ∧ (clusterOf t k).c = []
  table : s.fr.inGap = true → t.fr.ft = comingTable s
  tiles : s.fr.inGap = true → smWf Tile.zero s.tiles = true → (∀ ft, comingTable s = some ft → smWf FtEntry.zero ft.entries = true) →
    ∀ i, i < 10240 → (dieOf s (i / 1280)).clocks = true → idxAvail s i = true → (tileOf s i).run ≠ .halted →
      (clusterOf s (i / 16)).copying ≠ some (i % 16) →
      TileStarts ((comingTable s).elim FtEntry.zero fun ft => smGet FtEntry.zero ft.entries i) (tileOf s i) (tileOf t i)

/-- The dictionary serves a request of a path at once (R344, R352, R355, R358); a request to another package (R360) and a frame that
is no request to this node (R353) are not served. -/
def Answers (s : State) (p : Path) : Prop :=
  s.boot.ready = true ∧ s.fr.validating = none ∧ (p = .mailbox → s.host.mbBusy = false) ∧
    (p = .zdp → s.dict.canSt ≠ 2 ∧ s.dict.canTx.length < 32) ∧ (∀ f, p ≠ .can f) ∧ ∀ c d, p ≠ .away c d

/-- The rights of the Serge world on a path (R338). -/
def sergePath (p : Path) : Bool := p == .firmware || p == .twill true

/-- The dictionary takes a whole domain write of a path at once: no transfer is open (R348, R350). -/
def Commits (s : State) (p : Path) : Prop := Answers s p ∧ s.dict.domW = []

/-! ## Memory controllers -/

/-- A channel without its queues. -/
def withoutQueues (c : Chan) : Chan := { c with rq := [], wq := [], merges := [], nextSeq := 0 }

/-- The channel of an address under the interleave in effect (R242). -/
def channelAt (s : State) (pa : Nat) : Nat := chanIdx s.fr.ilv pa

/-! ## Reliability -/

/-- R390, R393: how often the operation of a unit that is under way has been retried: the count of the retry that is kept for it. -/
def retriesOf (t : Tile) (unit : BitVec 4) : Nat :=
  ((t.retry.filter fun r => r.unit == unit && (r.op, r.chunk) == retryKey t unit).head?.map fun r => r.n).getD 0

/-! ## The dictionary -/

/-- A message has gone back by a path (R340, R355, R358, R360): the mailbox's response area, the transmit queue of the ZDP node, or the
path itself. -/
def Responded (p : Path) (bs : List Byte) (t : State) : Prop :=
  match p with
  | .mailbox => t.host.mbBusy = false ∧ t.host.mbDone = true ∧ smRead 0 t.host.mbRsp 0 bs.length = bs
  | .zdp => t.dict.canTx.getLast? = some bs
  | p => t.outbox.getLast? = some (.dictRsp (pathNo p) bs)

/-- R343: an abort with a code has gone back. -/
def Aborted (p : Path) (idx : BitVec 16) (sub tag : BitVec 8) (code : Nat) (t : State) : Prop :=
  Responded p (message 0x7F false false idx sub tag (leBytes 4 code)) t

/-- What a request to the dictionary that only reads, or is refused, leaves alone. -/
structure DictionaryOnly (s t : State) : Prop where
  tiles : t.tiles = s.tiles
  clusters : t.clusters = s.clusters
  frames : t.fr = s.fr
  twill : t.tw = s.tw
  power : t.pw = s.pw
  boot : t.boot = s.boot
  memory : Untraced s → t.ms = s.ms

/-- The writable objects with a value that a write changes at once and a read gives back: index, subindex, bytes (R336, R361). -/
def readBackRows : List (Nat × Nat × Nat) :=
  [(0x1010, 1, 1), (0x1010, 3, 1), (0x1010, 4, 1), (0x1011, 0, 2), (0x2102, 1, 2), (0x2201, 0, 1), (0x4010, 0, 1),
   (0x4061, 1, 4), (0x4070, 6, 4), (0x4071, 1, 4)]

/-- R346: the values that the next tick applies, of those accepted at this instant. -/
def latchedNow (s : State) : List TlWrite := if s.fr.inGap then s.fr.tl2 else s.fr.tl

/-- A segment with a toggle is the next one of a transfer (R348, R349). -/
def nextSegment (x : DomXfer) (t : Bool) : Prop := x.closed = false ∧ x.lastT ≠ some t ∧ (x.lastT = none → t = false)

/-! ## Twill -/

/-- A flit of a type that carries a sequence number arrives whole, in order, on link k that is up (R307). -/
def InOrder (s : State) (k : Nat) (h : BitVec 256) (p : List Byte) : Prop :=
  (linkOf s k).status = 2 ∧ (flitCrc h (fullPayload p)).toNat = hField h 255 224 ∧ sequenced (hField h 3 0) = true ∧
    hField h 17 6 = (linkOf s k).expSeq.toNat

/-- An in-order flit that brings neither acknowledgement nor credits, on links with nothing to send, which the package need not
answer over Twill: no route leads to its sender (R307, R308, R310). -/
def Unanswered (s : State) (k : Nat) (h : BitVec 256) (p : List Byte) : Prop :=
  InOrder s k h p ∧ hField h 30 30 = 0 ∧ hField h 41 32 = 0 ∧ (linkOf s k).waiting = [] ∧ hField h 55 50 = s.tw.id.toNat ∧
    routeOf s (hField h 49 44) = none

/-- The path on which a client of the hub has its answers (R360). -/
def clientPath : HubClient → Path
  | .firmware => .firmware
  | .mailbox => .mailbox
  | .zdp => .zdp

/-- A client takes an answer: the mailbox awaits one, the ZDP queue has room. -/
def ClientWaits (s : State) (c : HubClient) : Prop :=
  (c = .mailbox → s.host.mbBusy = true) ∧ (c = .zdp → s.dict.canTx.length < 32)

/-- A flit has left on link k, with a payload of zeros: its header. -/
def SentPlain (s t : State) (k : Nat) (p : BitVec 256 → Prop) : Prop :=
  ∃ g, t.outbox = s.outbox ++ [.flit (BitVec.ofNat 3 k) g (fullPayload [])] ∧ p g

/-! ## The host interface -/

/-- Host requests to memory space are handled at once: the link is up, the device is in D0 and READY, no request waits (R318, R319,
R324). -/
def HostServed (s : State) : Prop :=
  s.host.linkUp = true ∧ s.boot.ready = true ∧ s.host.d3 = false ∧ s.host.heldReqs = []

/-- The physical address of a byte of an access lies in stacked memory or a tile store. -/
def PlainMemory (pa n : Nat) : Prop := ∀ j, j < n → paClass (pa + j) = .stacked ∨ ∃ m off, paClass (pa + j) = .store m off

/-- The host registers without H.ERR and the record of errors. -/
def hostKept (h : HostIf) : HostIf :=
  { h with err := 0, advisory := false, nowStamp := 0, nowErr := 0, nowIrq := 0, nowSent := 0, nowDone := false, nowOvr := false }

/-- What a refused or completed host request leaves alone: every tile, byte of memory and host register but H.ERR. -/
structure HostOnly (s t : State) : Prop where
  tiles : t.tiles = s.tiles
  memory : MemoryKept s t
  host : hostKept t.host = hostKept s.host
  frames : t.fr = s.fr

/-- The host registers that a whole write changes, with what they read after a write of v (R322). -/
def hostWordRows : List (Nat × (Word → Word)) :=
  [(0x028, fun v => (v &&& 0xFFFF0000000)), (0x030, fun v => v &&& 0xFF), (0x040, fun v => v &&& 0x1FF), (0x050, fun v => v &&& 0x1F)]

/-! ## Invariants of every step -/

/-- The canonical form of memory: keys rise strictly and no entry holds what an unlisted byte reads as. -/
def Memory.wf (m : List Host.Cell) : Bool := smWf 0 m

/-- A command that starts a full reset, or leads to one (R410, R383). -/
def startsReset : Instr → Bool
  | .resetAssert _ => true
  | .thermalTrip _ _ => true
  | _ => false

end Sys2Proof.Machine
end

