-- ==== Sys2Proof/Certificates/Slice0/Obligations.lean ====
section
/-! DEFINITION. The statements for the provers. -/

open Sys2Proof Sys2Proof.Machine


/-- R76, R81: the sixteen operations of AL0 and AL1. The operand port holds A, the moved value is B; the previous result is
readable in the cycle of the word, the result and the flags are visible to the next word; results in flight come nearer by the cycles
that have passed (R10); `cmp` leaves the result port as it
is. Nothing else changes but what every word changes. -/
def Obligations.AluOperations : Prop :=
  ∀ row ∈ aluRows, ∀ (s : State) (lti : BitVec 14) (alu : Bool) (b : Word) (sg : BitVec 8), Ready s lti →
    let i := lti.toNat
    let a := aluOperand alu (bankIn s i)
    let c := flagBit (flagsNow (bankIn s i)) 2
    ∃ t f, exec (row.command lti alu b sg) s = .next t ∧ aluFlagsRight row a b c f ∧
      (bankIn t i).flags = flagsNow (bankIn s i) ∧ flagsNow (bankIn t i) = f ∧
      (row.writes = true → aluPending alu (bankIn t i) = some (row.result a b c, 1)) ∧
      (bankIn (wordBegun t i) i).flags = f ∧
      aluReadable alu (bankIn (wordBegun t i) i) =
        (if row.writes then row.result a b c
         else (landOne (cyclesPassed t i) (aluPending alu (bankIn t i)) (aluReadable alu (bankIn t i))).1) ∧
      (∀ x, aluReadable x (bankIn t i) = (landOne (cyclesPassed s i) (aluPending x (bankIn s i)) (aluReadable x (bankIn s i))).1) ∧
      (∀ x, x = alu → row.writes = false → aluPending x (bankIn t i) = (landOne (cyclesPassed s i) (aluPending x (bankIn s i)) 0).2) ∧
      (∀ x, x ≠ alu → aluPending x (bankIn t i) = (landOne (cyclesPassed s i) (aluPending x (bankIn s i)) 0).2) ∧
      WordFrame i id s t

/-- R82: a multiplication's product is written into MUL.lo and MUL.hi as the third word after its own begins; until then both
ports hold what they held. Stated where no other product is in flight; the queue of products says it otherwise.
R81, R82: an ALU result in flight and the flags of its word become visible, the other ALU's result stays in flight; the oldest
product in flight is written once its cycles have passed, bits [63:0] into MUL.lo and bits [127:64] into MUL.hi; before that, or with no
product in flight, its command changes nothing (the model's choice, assumption 1). -/
def Obligations.Multiplications : Prop :=
  (∀ row ∈ mulRows, ∀ (s : State) (lti : BitVec 14) (b : Word) (sg : BitVec 8), Ready s lti →
    let i := lti.toNat
    let p := BitVec.ofInt 128 (row.2 (bankIn s i).mulo b)
    ∃ t, exec (row.1 lti b sg) s = .next t ∧
      (bankIn t i).mulp =
        (((bankIn s i).mulp.filter fun p => decide (cyclesPassed s i < p.rem)).map fun p =>
          { p with rem := p.rem - cyclesPassed s i }) ++ [⟨p, 3, (tileOf s i).nextWid⟩] ∧
      ((bankIn s i).mulp = [] →
        let c1 := wordBegun t i
        let c2 := wordBegun c1 i
        let c3 := wordBegun c2 i
        (bankIn t i).mullo = (bankIn s i).mullo ∧ (bankIn t i).mulhi = (bankIn s i).mulhi ∧
        (bankIn c1 i).mullo = (bankIn s i).mullo ∧ (bankIn c1 i).mulhi = (bankIn s i).mulhi ∧
        (bankIn c2 i).mullo = (bankIn s i).mullo ∧ (bankIn c2 i).mulhi = (bankIn s i).mulhi ∧
        (bankIn c3 i).mullo = p.extractLsb' 0 64 ∧ (bankIn c3 i).mulhi = p.extractLsb' 64 64) ∧
      WordFrame i id s t) ∧
  (∀ (s : State) (lti : BitVec 14), Thawed s lti →
    let i := lti.toNat
    (∀ alu : Bool, ∃ t, exec (.alResult lti alu) s = .next t ∧
      (∀ v n, aluPending alu (bankIn s i) = some (v, n) → aluReadable alu (bankIn t i) = v) ∧
      (aluPending alu (bankIn s i) = none → aluReadable alu (bankIn t i) = aluReadable alu (bankIn s i)) ∧
      aluPending alu (bankIn t i) = none ∧ (bankIn t i).flags = flagsNow (bankIn s i) ∧
      (∀ x, x ≠ alu → aluReadable x (bankIn t i) = aluReadable x (bankIn s i) ∧
        aluPending x (bankIn t i) = aluPending x (bankIn s i)) ∧
      (bankIn t i).mulp = (bankIn s i).mulp ∧ (bankIn t i).mullo = (bankIn s i).mullo ∧
      (bankIn t i).mulhi = (bankIn s i).mulhi ∧ (bankIn t i).loops = (bankIn s i).loops ∧
      (tileOf t i).pc = (tileOf s i).pc ∧ (tileOf t i).words = (tileOf s i).words ∧ WordFrame i id s t) ∧
    ∃ t, exec (.mulProduct lti) s = .next t ∧
      (∀ p ps, (bankIn s i).mulp = p :: ps → cyclesPassed s i < p.rem → t = s) ∧
      (∀ p ps, (bankIn s i).mulp = p :: ps → p.rem ≤ cyclesPassed s i →
        (bankIn t i).mullo = p.val.extractLsb' 0 64 ∧ (bankIn t i).mulhi = p.val.extractLsb' 64 64 ∧ (bankIn t i).mulp = ps) ∧
      ((bankIn s i).mulp = [] → t = s) ∧
      { bankIn t i with mullo := 0, mulhi := 0, mulp := [] } = { bankIn s i with mullo := 0, mulhi := 0, mulp := [] } ∧
      (tileOf t i).pc = (tileOf s i).pc ∧ WordFrame i id s t)

/-- R73, R83: a division captures the dividend of DIV.o and latches its divisor into DIV.d; quotient and remainder keep their
values until it completes, and a division in progress is abandoned.
R83: a division's quotient and remainder: rounded toward zero with the sign of the dividend, all ones and the dividend for
a divisor of zero, which sets DZ, and −2^63 with 0 for −2^63 by −1. With no division in progress nothing completes and nothing changes (the
model's choice, assumption 1). -/
def Obligations.Divisions : Prop :=
  (∀ row ∈ [(Instr.divDiv, true), (Instr.divDivu, false)], ∀ (s : State) (lti : BitVec 14) (b : Word) (sg : BitVec 8), Ready s lti →
    let i := lti.toNat
    ∃ t, exec (row.1 lti b sg) s = .next t ∧
      (bankIn t i).div = some ⟨row.2, (bankIn s i).divo, (tileOf s i).nextWid⟩ ∧ (bankIn t i).divd = b ∧
      (bankIn t i).divq = (bankIn s i).divq ∧ (bankIn t i).divrem = (bankIn s i).divrem ∧ WordFrame i withoutDiv s t) ∧
  (∀ (s : State) (lti : BitVec 14), Thawed s lti →
    let i := lti.toNat
    ∃ t, exec (.divComplete lti) s = .next t ∧ ((bankIn s i).div = none → t = s) ∧
      ∀ d, (bankIn s i).div = some d →
        divisionRight d.signed d.n (bankIn s i).divd (bankIn t i).divq (bankIn t i).divrem ∧ (bankIn t i).div = none ∧
          ((bankIn t i).divDz = true ↔ (bankIn s i).divDz = true ∨ (bankIn s i).divd = 0) ∧
          { bankIn t i with div := none, divq := 0, divrem := 0, divDz := false } =
            { bankIn s i with div := none, divq := 0, divrem := 0, divDz := false } ∧
          OutsideTile i s t ∧ beyondWord t = beyondWord s ∧ (tileOf t i).pc = (tileOf s i).pc)

/-- R80: a move to a general register writes it; g0 reads 0 and a move to it is discarded. No other register changes. -/
def Obligations.GeneralRegisters : Prop :=
  ∀ (s : State) (lti : BitVec 14) (n : BitVec 6) (x : Word) (sg : BitVec 8), Ready s lti →
    let i := lti.toNat
    ∃ t, exec (.registerWrite lti (n.setWidth 12) x sg) s = .next t ∧
      gReg (bankIn t i) n.toNat = (if n = 0 then 0 else x) ∧
      (∀ m, m ≠ n.toNat → gReg (bankIn t i) m = gReg (bankIn s i) m) ∧
      (n = 0 → (bankIn t i).g = (bankIn s i).g) ∧ WordFrame i withoutG s t

/-- R5, R79: a move to an operand port writes the bits the port has, and the port then reads them; the other operand ports keep
their values.
R88, R97, R231: a move to SYS.flags is what the next word finds in the flags; LOOP.end takes the whole value; SYS.niwin takes bits [10:0],
raised to 16 or lowered to 1,024.
R5: a move to a read-only port is ignored: nothing changes but what every word changes.
R7: a move of x to a status port clears its bits where x has a 1 and leaves the others; a bit of WS.lostclr or WS.csat that the running
cycle sets stays set. A word with a signal of its own may record a lost clear or a saturation again (R96), so those two ports are
stated of a word without one. -/
def Obligations.Ports : Prop :=
  (∀ row ∈ wholePorts, ∀ (s : State) (lti : BitVec 14) (x : Word) (sg : BitVec 8), Ready s lti →
    let i := lti.toNat
    levelOk (tileOf s i) row.2.2 = true →
    ∃ t, exec (.registerWrite lti (BitVec.ofNat 12 row.1) x sg) s = .next t ∧
      readPort t i row.1 = wOf (x.toNat % 2 ^ row.2.1) ∧
      (∀ q ∈ wholePorts, q.1 ≠ row.1 → readPort t i q.1 = readPort s i q.1) ∧ WordFrame i withoutPorts s t) ∧
  (∀ (s : State) (lti : BitVec 14) (x : Word) (sg : BitVec 8), Ready s lti →
    let i := lti.toNat
    (∃ t, exec (.registerWrite lti 0x3C0 x sg) s = .next t ∧ flagsNow (bankIn t i) = x.setWidth 4 ∧
      readPort (wordBegun t i) i 0x3C0 = wOf (x.toNat % 16) ∧ WordFrame i id s t) ∧
    ((tileOf s i).loopen = true → ∃ t, exec (.registerWrite lti 0x0E0 x sg) s = .next t ∧ readPort t i 0x0E0 = x ∧
      WordFrame i withoutLoopEnd s t) ∧
    ((tileOf s i).sup = true → ∃ t, exec (.registerWrite lti 0x3CA x sg) s = .next t ∧
      readPort t i 0x3CA = wOf (max 16 (min 1024 (x.toNat % 2048))) ∧ WordFrame i withoutWindow s t)) ∧
  (∀ row ∈ readOnlyPorts, ∀ (s : State) (lti : BitVec 14) (x : Word) (sg : BitVec 8), Ready s lti →
    let i := lti.toNat
    levelOk (tileOf s i) row.2 = true → Movable (tileOf s i) row.1 x →
    ∃ t, exec (.registerWrite lti (BitVec.ofNat 12 row.1) x sg) s = .next t ∧
      { bankIn t i with loops := [], waited := none } = { bankIn (wordBegun s i) i with loops := [], waited := none } ∧
      WordFrame i id s t) ∧
  (∀ row ∈ clearPorts, ∀ (s : State) (lti : BitVec 14) (x : Word) (sg : BitVec 8), Ready s lti →
    let i := lti.toNat
    let b := wordBegun s i
    let kept : BitVec 32 :=
      if row.1 = 0x384 then lostNow b i (clusterOf b (i / 16)).same ||| lostNow b i (tileOf b i).same
      else if row.1 = 0x385 then satNow b i (clusterOf b (i / 16)).same ||| satNow b i (tileOf b i).same else 0
    levelOk (tileOf s i) row.2.2.2 = true → (row.1 = 0x384 ∨ row.1 = 0x385 → sg.getLsbD 7 = false) →
    ∃ t, exec (.registerWrite lti (BitVec.ofNat 12 row.1) x sg) s = .next t ∧
      (∀ k, row.2.1 ≤ k → k ≤ row.2.2.1 →
        (readPort t i row.1).getLsbD k = ((readPort b i row.1).getLsbD k && (!x.getLsbD k || kept.getLsbD k))) ∧
      t.ms = s.ms ∧ (∀ n, gReg (bankIn t i) n = gReg (bankIn s i) n) ∧ OutsideTile i s t)

/-- R86: jumps and calls are taken: the target word is the next word, an absolute target 16 B aligned, a relative one counted in
words from the branch word; a call writes BR.link with the address of the word after it, a jump leaves it; no loop level closes
(R89). -/
def Obligations.JumpsAndCalls : Prop :=
  ∀ row ∈ [(Instr.brJ, false, false), (Instr.brJr, true, false), (Instr.brCall, false, true), (Instr.brCallr, true, true)],
    ∀ (s : State) (lti : BitVec 14) (x : Word) (sg : BitVec 8), Ready s lti →
    let i := lti.toNat
    let pc := wOf (tileOf s i).pc
    (row.2.1 = false → x.toNat % 16 = 0) →
    ∃ t, exec (row.1 lti x sg) s = .next t ∧ wOf (tileOf t i).pc = (if row.2.1 then pc + x * 16 else x) ∧
      (bankIn t i).link = (if row.2.2 then pc + 16 else (bankIn s i).link) ∧ (bankIn t i).loops = (bankIn s i).loops ∧
      (bankIn t i).flags = flagsNow (bankIn s i) ∧ WordFrame i withoutBranch s t

/-- R86, R87: conditional branches and compare-and-branch: taken exactly when the condition holds on the flags of the cycle, or
on CB.o and the moved value; taken, the target counts words from the branch word and no loop level closes; not taken, and no open
level ending at the word, the word after it is next. SYS.flags is left unchanged. -/
def Obligations.ConditionalBranches : Prop :=
  ∀ (s : State) (lti : BitVec 14) (x : Word) (sg : BitVec 8), Ready s lti →
    let i := lti.toNat
    let pc := wOf (tileOf s i).pc
    let f := flagsNow (bankIn s i)
    let goes := fun (t : State) (taken : Bool) (off : Word) =>
      (taken = true → wOf (tileOf t i).pc = pc + off * 16 ∧ (bankIn t i).loops = (bankIn s i).loops) ∧
      (taken = false → (∀ l ∈ (bankIn s i).loops, l.last ≠ (tileOf s i).pc) →
        wOf (tileOf t i).pc = pc + 16 ∧ (bankIn t i).loops = (bankIn s i).loops) ∧
      (bankIn t i).flags = f ∧ flagsNow (bankIn t i) = f ∧ (bankIn t i).link = (bankIn s i).link ∧ WordFrame i withoutBranch s t
    (∀ cond : BitVec 4, cond.toNat < 10 → ∃ t, exec (.brConditional lti cond x sg) s = .next t ∧
      goes t (brHolds cond.toNat (flagBit f 0) (flagBit f 1) (flagBit f 2) (flagBit f 3)) x) ∧
    (∀ cond : BitVec 3, cond.toNat < 6 → ∃ t, exec (.cbCompareBranch lti cond x sg) s = .next t ∧
      goes t (cbHolds cond.toNat (bankIn s i).cbo x) (bankIn s i).cbtgt)

/-- R88, R89: a move of a count to LOOP.t.start opens a level whose body is the `LOOP.end` words after the word, counted by the low
32 bits; a count of 0 opens none and goes on after the body. A move of k, from 1 to the number of open levels, to LOOP.t.brk closes
the k innermost levels and goes on in sequence.
R89: after the last word of the innermost body, without a taken branch, the level counts down; above 0 the start of the body
is next, at 0 the level closes and, where no outer level ends there, the word after it is next. Stated of a move to g1. -/
def Obligations.Loops : Prop :=
  (∀ (s : State) (lti : BitVec 14) (x : Word) (sg : BitVec 8), Ready s lti →
    let i := lti.toNat
    let pc := wOf (tileOf s i).pc
    let last := pc + (bankIn s i).loopEnd * 16
    let n : BitVec 32 := x.setWidth 32
    (tileOf s i).loopen = true → NoLevelEnds s i →
    ((bankIn s i).loopEnd ≠ 0 → n = 0 → ∃ t, exec (.loopStart lti x sg) s = .next t ∧ wOf (tileOf t i).pc = last + 16 ∧
      (bankIn t i).loops = (bankIn s i).loops ∧ WordFrame i id s t) ∧
    ((bankIn s i).loopEnd ≠ 0 → n ≠ 0 → (bankIn s i).loops.length < 4 → last.toNat ≠ (tileOf s i).pc →
      ∃ t, exec (.loopStart lti x sg) s = .next t ∧ wOf (tileOf t i).pc = pc + 16 ∧
      (bankIn t i).loops = ⟨(pc + 16).toNat, last.toNat, n, true⟩ :: (bankIn s i).loops ∧ WordFrame i id s t) ∧
    (1 ≤ x.toNat → x.toNat ≤ 4 → x.toNat ≤ (bankIn s i).loops.length →
      ∃ t, exec (.loopBrk lti x sg) s = .next t ∧ (bankIn t i).loops = (bankIn s i).loops.drop x.toNat ∧
      wOf (tileOf t i).pc = pc + 16 ∧ WordFrame i id s t)) ∧
  (∀ (s : State) (lti : BitVec 14) (x : Word) (sg : BitVec 8) (l : LoopLevel) (ls : List LoopLevel), Ready s lti →
    let i := lti.toNat
    (bankIn s i).loops = l :: ls → l.last = (tileOf s i).pc →
    ∃ t, exec (.registerWrite lti 1 x sg) s = .next t ∧
      (1 < l.count.toNat → (tileOf t i).pc = l.start ∧
        (bankIn t i).loops = { l with count := l.count - 1, first := false } :: ls) ∧
      (l.count.toNat ≤ 1 → (∀ o ∈ ls, o.last ≠ (tileOf s i).pc) →
        wOf (tileOf t i).pc = wOf (tileOf s i).pc + 16 ∧ (bankIn t i).loops = ls) ∧
      gReg (bankIn t i) 1 = x)

/-- R90: a call of a catalogued routine runs it from the cluster's Calico ROM with INLIB = 1 in the caller's world and level, to
resume at the word after the call; LIB.last keeps its number. Registers keep their values at the call.
Assumption 9 of the log: the model's choices here. -/
def Obligations.LibraryCall : Prop :=
  ∀ (s : State) (lti : BitVec 14) (x : Word) (sg : BitVec 8), Ready s lti →
    let i := lti.toNat
    (tileOf s i).calen = true → catalogued x = true → (bankIn s i).inlib = false → (bankIn s i).loops.length < 4 →
    NoLevelEnds s i →
    ∃ t, exec (.libCall lti x sg) s = .next t ∧ (bankIn t i).inlib = true ∧
      wOf (bankIn t i).libRet = wOf (tileOf s i).pc + 16 ∧ (bankIn t i).libNo = x.setWidth 8 ∧
      (tileOf t i).libLast = x.setWidth 8 ∧
      paClass (tileOf t i).pc = .calicoRom (i / 16) ((tileOf t i).pc % 0x40000) ∧
      (tileOf t i).world = (tileOf s i).world ∧ (tileOf t i).sup = (tileOf s i).sup ∧
      (bankIn t i).g = (bankIn s i).g ∧ WordFrame i withoutLib s t

/-- R93, R96: moves to WS.t.fset and WS.t.fclr set and clear the flags whose bits are 1 and leave the others, own and shared; a
clear that meets a set of its cycle is lost and recorded in WS.lostclr. Stated of a word without a signal of its own, in a tile
that replays nothing (R63).
R93, R96: a move to a counter's port sets the counter to the moved 16 bits where nothing else changes it in the cycle; no
other counter changes, and no saturation is recorded.
Assumption 35 of the log: the model's choices here. -/
def Obligations.SignalMoves : Prop :=
  (∀ (s : State) (lti : BitVec 14) (x : Word) (sg : BitVec 8), Ready s lti → sg.getLsbD 7 = false →
    (tileOf s lti.toNat).skip = 0 →
    let i := lti.toNat
    let b := wordBegun s i
    let shared := (sameNow b (clusterOf b (i / 16)).same).sets
    let own := (tileOf b i).same.sets
    (∃ t, exec (.wsFset lti x sg) s = .next t ∧
      (∀ k, k < 32 → (flagsOf t i).getLsbD k = ((flagsOf b i).getLsbD k || x.getLsbD k)) ∧
      (∀ j, j / 16 ≠ i / 16 → flagsOf t j = flagsOf s j) ∧ WordFrame i id s t) ∧
    (∃ t, exec (.wsFclr lti x sg) s = .next t ∧
      (∀ k, k < 24 → (flagsOf t i).getLsbD k = ((flagsOf b i).getLsbD k && (!x.getLsbD k || own.getLsbD k))) ∧
      (∀ k, 24 ≤ k → k < 32 → (flagsOf t i).getLsbD k = ((flagsOf b i).getLsbD k && (!x.getLsbD k || shared.getLsbD k))) ∧
      (∀ k, k < 24 → x.getLsbD k = true → own.getLsbD k = true → (tileOf t i).lostclr.getLsbD k = true) ∧
      (∀ k, 24 ≤ k → k < 32 → x.getLsbD k = true → shared.getLsbD k = true → (tileOf t i).lostclr.getLsbD k = true) ∧
      (∀ j, j / 16 ≠ i / 16 → flagsOf t j = flagsOf s j) ∧ WordFrame i id s t)) ∧
  (∀ (s : State) (lti : BitVec 14) (n : BitVec 5) (x : Word) (sg : BitVec 8), Ready s lti → sg.getLsbD 7 = false →
    (tileOf s lti.toNat).skip = 0 →
    let i := lti.toNat
    let b := wordBegun s i
    (sameOf b i n.toNat).bumps = [] →
    ∃ t, exec (.wsCounterWrite lti n x sg) s = .next t ∧ counterOf t i n.toNat = x.setWidth 16 ∧
      (∀ m, m < 32 → m ≠ n.toNat → counterOf t i m = counterOf b i m) ∧
      (tileOf t i).csat = (tileOf b i).csat ∧ WordFrame i id s t)

/-- R93, R95: a word that triggers nothing signals as it issues: SGOP 1 sets the flag SGID names or increments the counter, SGOP 0
clears or decrements it; a counter saturates and WS.csat records it. Stated of own flags and counters, with nothing else landing; of a shared
counter with the changes that its cycle has had before. The increments and decrements that the tiles of a cluster make of a shared counter
in one cycle count as their net sum, whatever their order, and a move to its port as the value from which they count; the result
saturates, and every tile that has made one records it (assumption 35 of the log: which changes share a cycle). -/
def Obligations.SignalsFire : Prop :=
  (∀ (s : State) (lti : BitVec 14) (x : Word) (n : BitVec 5) (op : Bool), Ready s lti → n.toNat < 24 →
    let i := lti.toNat
    let sgOf := fun (kind : Bool) => BitVec.ofNat 8 (b2n op + 2 * n.toNat + 64 * b2n kind + 128)
    (bankIn s i).mulp = [] → (∀ w ∈ (tileOf s i).words, w.1 ≠ (tileOf s i).nextWid) →
    (∃ t, exec (.registerWrite lti 1 x (sgOf false)) s = .next t ∧ (flagsOf t i).getLsbD n.toNat = op ∧
      (∀ k, k < 32 → k ≠ n.toNat → (flagsOf t i).getLsbD k = (flagsOf s i).getLsbD k) ∧
      ∀ k, counterOf t i k = counterOf s i k) ∧
    (∃ t, exec (.registerWrite lti 1 x (sgOf true)) s = .next t ∧
      (counterOf t i n.toNat).toNat =
        (if op then min 0xFFFF ((counterOf s i n.toNat).toNat + 1) else (counterOf s i n.toNat).toNat - 1) ∧
      (tileOf t i).csat.getLsbD n.toNat =
        ((tileOf s i).csat.getLsbD n.toNat ||
          decide ((counterOf s i n.toNat).toNat = (if op then 0xFFFF else 0))) ∧
      (∀ k, k ≠ n.toNat → counterOf t i k = counterOf s i k) ∧ flagsOf t i = flagsOf s i)) ∧
  (∀ (s : State) (lti : BitVec 14) (x : Word) (n : BitVec 5) (op : Bool), Ready s lti → 24 ≤ n.toNat → (tileOf s lti.toNat).skip = 0 →
    let i := lti.toNat
    let b := wordBegun s i
    let e := ((sameOf b i n.toNat).bumps.find? fun e => e.n == n.toNat).getD ⟨n.toNat, counterOf b i n.toNat, 0, []⟩
    let z : Int := e.base.toNat + e.net + (if op then 1 else -1)
    (bankIn s i).mulp = [] → (∀ w ∈ (tileOf s i).words, w.1 ≠ (tileOf s i).nextWid) →
    ∃ t, exec (.registerWrite lti 1 x (BitVec.ofNat 8 (b2n op + 2 * n.toNat + 192))) s = .next t ∧
      ((counterOf t i n.toNat).toNat : Int) = clampI 0 0xFFFF z ∧ (z < 0 ∨ 0xFFFF < z → (tileOf t i).csat.getLsbD n.toNat = true) ∧
      (∀ k, k ≠ n.toNat → counterOf t i k = counterOf s i k) ∧ flagsOf t i = flagsOf s i) ∧
  ∀ (s : State) (i n : Nat) (l : List (Nat × Bool)) (v : BitVec 16), 24 ≤ n → n < 32 → l ≠ [] → (∀ e ∈ l, e.1 / 16 = i / 16) →
    (sameOf s i n).bumps = [] →
    let t := l.foldl (fun s e => bumpCounter s e.1 n e.2) s
    let net : Int := (l.map fun e => if e.2 then (1 : Int) else -1).sum
    let z : Int := (counterOf s i n).toNat + net
    ((counterOf t i n).toNat : Int) = clampI 0 0xFFFF z ∧
      (∀ e ∈ l, (tileOf t e.1).csat.getLsbD n = ((tileOf s e.1).csat.getLsbD n || decide (z < 0 ∨ 0xFFFF < z))) ∧
      ((counterOf (setCounter t i n v) i n).toNat : Int) = clampI 0 0xFFFF (v.toNat + net) ∧
      (∀ j m, m < 32 → m ≠ n → counterOf t j m = counterOf s j m) ∧ (∀ j, flagsOf t j = flagsOf s j) ∧
      ∀ j, j / 16 ≠ i / 16 → tileOf t j = tileOf s j

/-- R86, R88 to R90, R79, R100: the precise faults of a word that enter a handler of its own world at the word itself: a misaligned
target, a loop end of 0, a fifth level, a break outside 1 to the open levels, a library call inside a routine, a port of a higher level,
a reserved port, a LOOP or LIB port that is disabled.
R226, R233: an exception that meets its world's handler pushes: the bank and the record of that handler go into the frame of 1,024 bytes below XSP, as they
stand, XSP falls and the count rises, results in flight leave the bank, and XST has PSH set. R234, R235: a push that is refused, or a
Serge exception whose entry is invalid, is a double fault: 256 bytes are spilled and vector 0 is entered, not to be
returned from; where that cannot be done the tile halts. Stated with no trace ring in place.
R226, R235, R239: an exception of the Muslin world whose entry is invalid ends the program at its word; an exception met while
the fatal handler runs halts the tile. Registers keep their values. -/
def Obligations.FaultsTaken : Prop :=
  (∀ (s : State) (lti : BitVec 14) (x : Word) (sg : BitVec 8), Ready s lti →
    let i := lti.toNat
    let u := tileOf s i
    let takes := fun (c : Instr) (vec info : Nat) (fa : Word) => Enterable u u.world vec →
      ∃ t, exec c s = .next t ∧ HandlerEntered s t i u.world ⟨vec, info, fa, u.pc, 1, false, false⟩
    (x.toNat % 16 ≠ 0 → takes (.brJ lti x sg) 4 0 x ∧ takes (.brCall lti x sg) 4 0 x) ∧
    (u.loopen = true → (bankIn s i).loopEnd = 0 → takes (.loopStart lti x sg) 7 2 0) ∧
    (u.loopen = true → (bankIn s i).loopEnd ≠ 0 → x.toNat % 2 ^ 32 ≠ 0 → 4 ≤ (bankIn s i).loops.length →
      takes (.loopStart lti x sg) 7 1 0) ∧
    (u.loopen = true → x = 0 ∨ 4 < x.toNat ∨ (bankIn s i).loops.length < x.toNat → takes (.loopBrk lti x sg) 7 3 0) ∧
    (u.calen = true → catalogued x = true → (bankIn s i).inlib = true → takes (.libCall lti x sg) 1 5 0) ∧
    (u.calen = true → catalogued x = true → (bankIn s i).inlib = false → 4 ≤ (bankIn s i).loops.length →
      takes (.libCall lti x sg) 7 1 0) ∧
    (∀ p : BitVec 12, isPort p.toNat = true → portDisabled u p.toNat = false → levelOk u (portLevel p.toNat true) = false →
      (p = 0x0F8 → catalogued x = true) → inR p.toNat 0x810 0x817 = false →
      takes (.registerWrite lti p x sg) 2 1 (wOf p.toNat)) ∧
    (∀ p : BitVec 12, isPort p.toNat = false → takes (.registerWrite lti p x sg) 3 0 0) ∧
    (u.loopen = false → takes (.loopStart lti x sg) 3 0 0 ∧ takes (.loopBrk lti x sg) 3 0 0) ∧
    (u.calen = false → takes (.libCall lti x sg) 3 0 0)) ∧
  (∀ (s : State) (i : Nat) (h : World) (c : Cause),
    (h = .muslin → (tileOf s i).exc.fatal = false → wBit (latched (tileOf s i) h c.vec) 0 = false →
      (tileOf (enterExc s i h c) i).run = .draining ∧ (tileOf (enterExc s i h c) i).unhandled = true ∧ (bankIn (enterExc s i h c) i).g = (bankIn s i).g) ∧
    ((tileOf s i).exc.fatal = true →
      (tileOf (enterExc s i h c) i).run = .halted ∧ (bankIn (enterExc s i h c) i).g = (bankIn s i).g)) ∧
  ∀ (s : State) (i : Nat) (h : World) (c : Cause), i < 10240 → Untraced s →
    let u := if c.dual then s else landAll s i
    let v := tileOf u i
    let old := recordOf v h
    let want : XRec := ⟨wOf c.pc, entryXst v false (c.vec == 13), causeXcs c, c.fa⟩
    let t := enterExc s i h c
    v.exc.fatal = false →
    (wBit (latched v h c.vec) 0 = true → shadowUsed v h = true → ∀ r offs u', frameCheck u i h (xspOf v h - 1024).toNat true = (r, offs, u') →
      (r = 0 → apart offs → offs.length = 16 ∧
        (offs.map fun o => readBytes t (storePa i o) 64).flatten = frameBytes (bankIn u i) old ∧
        (∀ p, (∀ o ∈ offs, p < storePa i o ∨ storePa i o + 64 ≤ p) → readByte t p = readByte s p) ∧
        xspOf (tileOf t i) h = xspOf v h - 1024 ∧ pushedOf (tileOf t i) h = (pushedOf v h + 1) % 2 ^ 16 ∧
        (tileOf t i).cur = shadowOf h ∧ (tileOf t i).world = h ∧ (tileOf t i).sup = true ∧ (tileOf t i).run = .running ∧
        (tileOf t i).pc = 16 * wBits (latched v h c.vec) 51 4 ∧
        recordOf (tileOf t i) h = { want with st := entryXst v true (c.vec == 13) } ∧
        (∀ n, gReg (bankAt (tileOf t i) v.cur) n = gReg (bankIn u i) n) ∧
        (let b := bankAt (tileOf t i) v.cur
         b.al0p = none ∧ b.al1p = none ∧ b.mulp = [] ∧ b.div = none)) ∧
      (r ≠ 0 → FaultsTwice u t i want old (xspOf v h) r c.pc)) ∧
    (h = .serge → wBit (latched v .serge c.vec) 0 = false →
      FaultsTwice u t i want ⟨0, 0, 0, 0⟩ v.exc.xspS (if v.exc.latchedS then 5 else 6) c.pc)

/-- R224: a trap completes its word and then enters vector 48 + x[3:0] of the Serge world (x[4] = 1) or of the current one; XFA holds
the moved value and XPC the word after the trap. -/
def Obligations.SoftwareTrap : Prop :=
  ∀ (s : State) (lti : BitVec 14) (x : Word) (sg : BitVec 8), Ready s lti → NoLevelEnds s lti.toNat →
    let i := lti.toNat
    let h : World := if x.getLsbD 4 then .serge else (tileOf s i).world
    Enterable (tileOf s i) h (48 + x.toNat % 16) →
    ∃ t, exec (.sysTrap lti x sg) s = .next t ∧
      HandlerEntered s t i h ⟨48 + x.toNat % 16, 0, x, (wOf (tileOf s i).pc + 16).toNat, 0, false, false⟩

/-- R225, R226: the interrupt that qualifies enters its handler at the next word, with the recorded INFO and XFA, and its pending
bit clears.
R458, R155, R129: the pending asynchronous data abort, vector data abort or deterministic overload of the oldest access is taken at
the next word while the program runs; only a data abort has ASYNC set, only an overload is not resumable. -/
def Obligations.InterruptsAndAsynchronousFaults : Prop :=
  (∀ (s : State) (lti : BitVec 14) (h : World) (v : Nat), Clocked s lti →
    let i := lti.toNat
    let u := tileOf s i
    let r := smGet (0, 0) u.exc.ipInfo (v + 64 * b2n (isS h))
    qualInt u = some (h, v) → Enterable u h v → r.1.toNat < 256 →
    ∃ t, exec (.interruptEntry lti) s = .next t ∧ HandlerEntered s t i h ⟨v, r.1.toNat, r.2, u.pc, 0, false, false⟩ ∧
      (match h with | .muslin => (tileOf t i).exc.ipM | .serge => (tileOf t i).exc.ipS).getLsbD (v - 32) = false) ∧
  (∀ (s : State) (lti : BitVec 14) (a : AsyncFault),
    let i := lti.toNat
    let u := tileOf s i
    Clocked s lti → u.run = .running →
    ∀ row ∈ [(Instr.asyncDataAbort lti, 8), (Instr.vectorDataAbort lti, 12), (Instr.deterministicOverload lti, 13)],
      oldestAsync (u.asyncs.filter fun f => f.vec.toNat == row.2) = some a → Enterable u u.world row.2 →
      ∃ t, exec row.1 s = .next t ∧ HandlerEntered s t i u.world ⟨row.2, a.info.toNat, a.fa, u.pc, 0, row.2 == 8, false⟩)

/-- R236: a granted return without a pop resumes the interrupted code: its bank, world, level, address and INLIB as the record
requests; the handler's bank is free again. Stated where no interrupt is both pending and enabled.
R237: a return outside a handler, from a record that is not resumable, or that requests what R236 does not grant takes the privilege
fault with INFO 2.
R233, R234, R236: a return with PSH pops: bank and record are those of the frame, as it stands, XSP rises and the count falls, the bank
stays in use; a pop whose frame is refused is a double fault. R238: a return to a word at which an interrupt of the handler's world
would qualify is chained: bank, XPC and XST stay, XCS and XFA take the new cause, and its handler begins. -/
def Obligations.ReturnResumes : Prop :=
  (∀ (s : State) (lti : BitVec 14) (x : Word) (sg : BitVec 8), Ready s lti →
    let i := lti.toNat
    let u := tileOf s i
    let h : World := if u.cur = .serge then .serge else .muslin
    let r := recordOf u h
    u.sup = true → u.cur ≠ .primary → wBit r.st 7 = false → wBit r.st 6 = false →
    (wBits r.st 1 0 = wBits r.st 3 2 ∨ wBits r.st 1 0 = 0 ∧ wBits r.st 5 4 = 0) →
    u.exc.ipM &&& u.exc.ieM = 0 → u.exc.ipS &&& u.exc.ieS = 0 →
    ∃ t, exec (.sysXret lti x sg) s = .next t ∧ (tileOf t i).pc = r.pc.toNat ∧ (tileOf t i).sup = wBit r.st 0 ∧
      (tileOf t i).world = (if wBit r.st 1 then .serge else .muslin) ∧
      (tileOf t i).cur = bankOfCode (wBits r.st 5 4) ∧ (bankIn t i).inlib = wBit r.st 8 ∧
      (match h with | .muslin => (tileOf t i).exc.msh | .serge => (tileOf t i).exc.ssh) = false ∧
      (∀ n, gReg (bankAt (tileOf t i) (tileOf t i).cur) n = gReg (bankAt u (tileOf t i).cur) n)) ∧
  (∀ (s : State) (lti : BitVec 14) (x : Word) (sg : BitVec 8), Ready s lti →
    let i := lti.toNat
    let u := tileOf s i
    let r := recordOf u (if u.cur = .serge then .serge else .muslin)
    u.sup = true →
    u.cur = .primary ∨ wBit r.st 7 = true ∨ (wBits r.st 1 0 ≠ wBits r.st 3 2 ∧ ¬(wBits r.st 1 0 = 0 ∧ wBits r.st 5 4 = 0)) →
    TakesFault (.sysXret lti x sg) s i 2 2 0 ∧
      ∃ w, exec (.sysXret lti x sg) s = .next (enterExc w i u.world ⟨2, 2, 0, u.pc, 1, false, false⟩) ∧ (tileOf w i).exc = u.exc ∧
        (tileOf w i).cur = u.cur ∧ (∀ n, gReg (bankIn w i) n = gReg (bankIn s i) n) ∧ MemoryKept s w) ∧
  ∀ (s : State) (i : Nat), i < 10240 →
    let u := modTile s i fun t => { t with exc := { t.exc with niOpen := none } }
    let v := tileOf u i
    let h : World := if v.cur = .serge then .serge else .muslin
    let r := recordOf v h
    let t := returnFrom s i
    v.cur ≠ .primary →
    (wBit r.st 6 = true → ∀ bad offs u', frameCheck u i h (xspOf v h).toNat false = (bad, offs, u') →
      (bad ≠ 0 → Untraced s → FaultsTwice u t i ⟨0, 0, 0, 0⟩ r (xspOf v h) bad v.pc) ∧
      (bad = 0 → s.ms.soft = [] → v.exc.ipM &&& v.exc.ieM = 0 → v.exc.ipS &&& v.exc.ieS = 0 →
        let f := (offs.map fun o => readBytes s (storePa i o) 64).flatten
        (tileOf t i).pc = r.pc.toNat ∧ (tileOf t i).sup = wBit r.st 0 ∧ (tileOf t i).world = (if wBit r.st 1 then .serge else .muslin) ∧
          (tileOf t i).cur = v.cur ∧ bankIn t i = { restartDiv (frameBank f (v.exc.owed.headD [])) with inlib := wBit r.st 8 } ∧
          (∀ n, 0 < n → n < 64 → gReg (bankIn t i) n = fw f (8 * (n - 1))) ∧
          recordOf (tileOf t i) h = frameRec f ∧ xspOf (tileOf t i) h = xspOf v h + 1024 ∧
          pushedOf (tileOf t i) h = (pushedOf v h + 65535) % 65536 ∧ shadowUsed (tileOf t i) h = shadowUsed v h ∧ MemoryKept s t)) ∧
    (wBit r.st 6 = false → ∀ k, qualOf { returned v r none with landed := s.fr.cyc, resume := 3 } (isS h) = some k →
      wBit (latched v h k) 0 = true →
      let q := smGet (0, 0) v.exc.ipInfo (k + 64 * b2n (isS h))
      (tileOf t i).pc = 16 * wBits (latched v h k) 51 4 ∧ (tileOf t i).world = h ∧ (tileOf t i).sup = true ∧ (tileOf t i).cur = v.cur ∧
        bankIn t i = bankIn s i ∧ shadowUsed (tileOf t i) h = shadowUsed v h ∧
        recordOf (tileOf t i) h = { r with cs := causeXcs ⟨k, q.1.toNat, q.2, 0, 0, false, false⟩, fa := q.2 } ∧
        (match h with | .muslin => (tileOf t i).exc.ipM | .serge => (tileOf t i).exc.ipS).getLsbD (k - 32) = false ∧ MemoryKept s t)

/-- R85, R119, R120: a load trigger puts a load of LSU.o plus the offset in flight, its result port holding its old value (R73); a
store trigger puts the low LSU.sz bytes of LSU.d into the store buffer; neither changes memory. A full buffer holds the word, whose
cycle only brings results in flight nearer. An
address past the 52-bit space takes the data abort with reason 1.
R85, R113: a prefetch hint never faults and changes no register, no buffered access and no memory; in deterministic mode it is
ignored. A fence completes with its word when no earlier store is open, and else waits for those before it. -/
def Obligations.LoadsStoresHints : Prop :=
  (∀ (s : State) (lti : BitVec 14) (k : BitVec 2) (off : Word) (sg : BitVec 8), Ready s lti →
    let i := lti.toNat
    let b := wordOpen s i sg
    let va := accessVa (bankIn s i) off
    let n := accessSize (bankIn s i)
    (∀ tr l, lsuLook b i false va n = .ok (tr, l) → forward (tileOf s i).sb (serge (tileOf s i)) va n tr ≠ .hold →
      ∃ t, exec (.lsuLd lti k off sg) s = .next t ∧
        (∃ ld ∈ (tileOf t i).loads, ld.k = k ∧ ld.va = va ∧ ld.size = n ∧ ld.sx = (bankIn s i).lsusz.getLsbD 2 ∧
          ld.who = whoOf (tileOf s i) ∧ ld.wid = (tileOf s i).nextWid ∧
          (∀ bs, forward (tileOf s i).sb (serge (tileOf s i)) va n tr = .data bs → ld.fwd = some bs)) ∧
        (∀ j, loadPort (bankIn t i) j = loadPort (bankIn s i) j) ∧ (tileOf t i).sb = (tileOf s i).sb ∧ MemoryKept s t ∧
        OutsideTile i s t) ∧
    (∀ tr l, lsuLook b i true va n = .ok (tr, l) →
      ((tileOf s i).sb.length < 8 → ∃ t, exec (.lsuSt lti off sg) s = .next t ∧
        (∃ e, (tileOf t i).sb = (tileOf s i).sb ++ [e] ∧ e.kind = .store ∧ e.va = va ∧
          e.data = leBytes n (bankIn s i).lsud.toNat ∧ e.who = whoOf (tileOf s i) ∧ e.wid = (tileOf s i).nextWid) ∧
        (tileOf t i).loads = (tileOf s i).loads ∧ MemoryKept s t ∧ OutsideTile i s t) ∧
      (8 ≤ (tileOf s i).sb.length → exec (.lsuSt lti off sg) s = .next (wordBegun s i) ∧
        (tileOf (wordBegun s i) i).sb = (tileOf s i).sb ∧ (tileOf (wordBegun s i) i).pc = (tileOf s i).pc ∧
        MemoryKept s (wordBegun s i))) ∧
    (2 ^ 52 < va + n → TakesFault (.lsuLd lti k off sg) s i 8 1 (wOf va) ∧ TakesFault (.lsuSt lti off sg) s i 8 1 (wOf va))) ∧
  (∀ (s : State) (lti : BitVec 14) (x : Word) (sg : BitVec 8), Ready s lti →
    let i := lti.toNat
    (∃ t, exec (.lsuPf lti x sg) s = .next t ∧ (tileOf t i).exc = (tileOf s i).exc ∧ (tileOf t i).loads = (tileOf s i).loads ∧
      (tileOf t i).sb = (tileOf s i).sb ∧ (bankIn t i).g = (bankIn s i).g ∧ MemoryKept s t ∧
      ((tileOf s i).det = true → WordFrame i id s t)) ∧
    ∃ t, exec (.lsuFence lti x sg) s = .next t ∧
      ((tileOf s i).handed = [] → (∀ e ∈ (tileOf s i).sb, e.kind ≠ .store) → WordFrame i id s t) ∧
      ((tileOf s i).handed ≠ [] ∨ (∃ e ∈ (tileOf s i).sb, e.kind = .store) →
        (tileOf t i).fences = (tileOf s i).fences ++ [((tileOf s i).nextWid, (tileOf s i).nextSeq)] ∧
        WordFrame i (fun t => { t with fences := [], nextSeq := 0 }) s t))

/-- R85, R111, R120, R127: the oldest load of a result port takes its data, from the store buffer, from memory or from a line of the data
cache, into that port alone, sign-extended or zero-extended; it is no longer in flight and memory is as it was. -/
def Obligations.LoadResults : Prop :=
  ∀ (s : State) (lti : BitVec 14) (k : BitVec 2) (l : Load) (bs : List Byte), Thawed s lti →
    let i := lti.toNat
    let a := accOf s i l.who.serge l.who.inlib false
    (tileOf s i).loads.find? (fun x => x.k == k) = some l → l.who.bank = (tileOf s i).cur → l.size = 2 ^ (l.size.log2 % 4) →
    bs.length = l.size →
    (l.fwd = some bs ∧ l.tr ≠ .walking ∧ ∀ r, l.tr ≠ .refused r) ∨
      (l.fwd = none ∧ l.overload = false ∧ (∀ x ∈ (tileOf s i).loads, x.seq < l.seq → x.tr ≠ .walking) ∧ (tileOf s i).sb = [] ∧ (tileOf s i).handed = [] ∧ s.host.reqs = [] ∧
        ∃ pa pa2 c c2 lc, l.tr = .phys pa pa2 l.size c c2 lc ∧ heldByCopy s pa = false ∧ isHostPa pa = false ∧
          ((c = false ∧ (refusal s a pa l.size).isNone ∧ bs = readBytes s pa l.size) ∨
            (c = true ∧ (tileOf s i).cache.reqs = [] ∧ pa % 64 + l.size ≤ 64 ∧
              ∃ n ∈ (tileOf s i).cache.dlines, findLine (tileOf s i).cache.dlines pa = some n ∧
                bs = (n.data.drop (pa % 64)).take l.size))) →
    ∃ t, exec (.loadResult lti k) s = .next t ∧ loadPort (bankIn t i) k = extended l.sx bs ∧
      (∀ j, j ≠ k → loadPort (bankIn t i) j = loadPort (bankIn s i) j) ∧ (∀ x ∈ (tileOf t i).loads, x.seq ≠ l.seq) ∧
      (∀ n, gReg (bankIn t i) n = gReg (bankIn s i) n) ∧ MemoryKept s t ∧ OutsideTile i s t

/-- R119, R127: the oldest entry of the store buffer, a translated store, is handed to its path; the oldest handed-off store is
performed: its bytes are in memory at its address, every other byte reads as before. Stated of a store inside one page to stacked
memory or a tile store without uncorrectable or corrected lines, with no earlier load of the tile that waits for its walk. -/
def Obligations.StoresPerform : Prop :=
  ∀ (s : State) (lti : BitVec 14) (e : SbEntry) (es : List SbEntry) (pa pa2 n : Nat) (c c2 lc : Bool), Clocked s lti →
    let i := lti.toNat
    e.kind = .store → e.skip = false → e.tr = .phys pa pa2 n c c2 lc → e.data.length ≤ n →
    ((tileOf s i).sb = e :: es → e.overload = false → handOffWaits s i = false → (tileOf s i).loads = [] → (∀ x ∈ es, x.seq ≠ e.seq) →
      ∃ t, exec (.storeHandoff lti) s = .next t ∧ (tileOf t i).sb = es ∧ (tileOf t i).handed = (tileOf s i).handed ++ [e] ∧
        bankIn t i = bankIn s i ∧ MemoryKept s t ∧ OutsideTile i s t) ∧
    ((tileOf s i).handed = e :: es → (∀ l ∈ (tileOf s i).loads, l.tr ≠ .walking) → heldByCopy s pa = false → s.ms.bad = [] → s.ms.errs = [] →
      (∀ j, j < e.data.length → paClass (pa + j) = .stacked ∨ ∃ m off, paClass (pa + j) = .store m off) →
      refusal s { accOf s i e.who.serge e.who.inlib true with write := true } pa e.data.length = none →
      ∃ t, exec (.storePerformed lti) s = .next t ∧ readBytes t pa e.data.length = e.data ∧
        (∀ a, a < pa ∨ pa + e.data.length ≤ a → readByte t a = readByte s a) ∧ (∀ x ∈ (tileOf t i).handed, x.seq ≠ e.seq) ∧
        bankIn t i = bankIn s i ∧ OutsideTile i s t)

/-- R110, R265 to R270: an arriving line fills the cache that asked for it with the bytes of stacked memory; a walk of a fetch ends
with its leaf in the instruction TLB, or leaves the fetch a fault of reason 1; the walk of a waiting load or store ends with the access
translated: to the base of its leaf plus the offset in the page, on its second page by the leaf of that page, cacheable when the page, the tile
and the memory are, with the page's latency-critical mark; or refused with reason 1 when its page does not translate. A walk of a fetch that
a full destination has refused does not end. Where nothing waits, the command changes nothing (the model's choice, assumption 1). -/
def Obligations.LinesAndWalks : Prop :=
  ∀ (s : State) (lti : BitVec 14), Clocked s lti →
    let i := lti.toNat
    let u := tileOf s i
    let cx := cxidOf s (serge u)
    (∀ (code : Bool) (r : LineReq), u.cache.reqs.find? (fun x => x.code == code) = some r → u.handed = [] →
      r.addr % 64 = 0 → (code = false → u.sb = [] ∧ ∀ l ∈ u.loads, l.tr ≠ .walking) → u.cache.invalidating = [] → (if code then u.cache.ien else u.cache.den) = true →
      refusal s (accOf s i (serge u) (bankIn s i).inlib false) r.addr 64 = none →
      ∃ t, exec (.cacheLineFill lti code) s = .next t ∧
        ((findLine (if code then (tileOf t i).cache.ilines else (tileOf t i).cache.dlines) r.addr).map CLine.data =
          some (readBytes s r.addr 64)) ∧
        (tileOf t i).cache.reqs = u.cache.reqs.erase r ∧ MemoryKept s t ∧ bankIn t i = bankIn s i ∧ OutsideTile i s t) ∧
    (∀ code : Bool, (∀ r ∈ u.cache.reqs, r.code ≠ code) → exec (.cacheLineFill lti code) s = .next s) ∧
    (u.fetchWalk = false → exec (.tlbWalkComplete lti true) s = .next s) ∧
    (u.fetchOver = true → exec (.tlbWalkComplete lti true) s = .next s) ∧
    (u.fetchWalk = true → u.fetchOver = false → ∃ t, exec (.tlbWalkComplete lti true) s = .next t ∧ (tileOf t i).fetchWalk = false ∧
      (∀ e, (fillTlb s i (serge u) true u.pc).1 = some e → e ∈ (tileOf t i).itlb ∧ (tileOf t i).fetchFault = u.fetchFault) ∧
      ((fillTlb s i (serge u) true u.pc).1 = none → (tileOf t i).fetchFault = some 1) ∧
      (∀ e, tlbFind u.itlb cx u.pc = none → u.det = true ∨ tlbFind (clusterOf s (i / 16)).l2 cx u.pc = none →
        walk s (some (i / 1280)) cx (serge u) u.pc = .ok e → e ∈ (tileOf t i).itlb) ∧
      MemoryKept s t ∧ bankIn t i = bankIn s i) ∧
    ((∀ l ∈ u.loads, l.tr ≠ .walking) → (∀ e ∈ u.sb, e.tr ≠ .walking) → exec (.tlbWalkComplete lti false) s = .next s) ∧
    (∀ l, u.loads = [l] → u.sb = [] → u.handed = [] → l.tr = .walking → 1 ≤ l.size →
      ∃ t l', exec (.tlbWalkComplete lti false) s = .next t ∧ (tileOf t i).loads = [l'] ∧ l'.seq = l.seq ∧ l'.tr ≠ .walking ∧
        ((fillTlb s i l.who.serge false l.va).1 = none → l'.tr = .refused 1) ∧ MemoryKept s t ∧ bankIn t i = bankIn s i ∧
        WalkEnds s i l.who false false l.va l.size l'.tr) ∧
    (∀ e, u.loads = [] → u.sb = [e] → u.handed = [] → e.tr = .walking → 1 ≤ e.data.length →
      ∃ t e', exec (.tlbWalkComplete lti false) s = .next t ∧ (tileOf t i).sb = [e'] ∧ e'.seq = e.seq ∧ e'.data = e.data ∧
        e'.tr ≠ .walking ∧ ((fillTlb s i e.who.serge false e.va).1 = none → e'.tr = .refused 1) ∧ MemoryKept s t ∧
        bankIn t i = bankIn s i ∧ WalkEnds s i e.who true e.patch e.va e.data.length e'.tr)

/-- R115, R117, R122, R123: cache invalidation, the patch window, the instruction-side flush and SYS.ccfg. A whole-cache
invalidation drops the selected lines, never scratch, and is ignored in deterministic mode; one of a single line drops the line that holds
the address of LSU.o, translated, from the selected caches (none when it does not translate: the model's choice, assumption 110); the window covers the units x names;
the flush closes it for stores, and at its end drops code lines and closes it for fetch; SYS.ccfg takes the enables outside
deterministic mode, the scratch ways and their base.
Assumption 49 of the log: the model's choices here. -/
def Obligations.CacheControls : Prop :=
  ∀ (s : State) (lti : BitVec 14) (x : Word) (sg : BitVec 8),
    let i := lti.toNat
    let u := tileOf s i
    let k := u.cache
    (Ready s lti → x.getLsbD 3 = false ∨ u.det = true → ∃ t, exec (.sysCinv lti x sg) s = .next t ∧
      (u.det = true → WordFrame i id s t) ∧
      (u.det = false →
        (tileOf t i).cache.ilines = (if x.getLsbD 0 then [] else k.ilines) ∧
        (tileOf t i).cache.dlines = (if x.getLsbD 1 then [] else k.dlines) ∧
        (tileOf t i).cache.vlines = (if x.getLsbD 2 then [] else k.vlines) ∧ (tileOf t i).cache.scratch = k.scratch ∧
        (tileOf t i).cache.invalidating = k.invalidating ++ [(x.setWidth 3, u.nextWid)] ∧ WordFrame i withoutCache s t)) ∧
    (Ready s lti → x.getLsbD 3 = true → u.det = false →
      let va := (bankIn s i).lsuo.toNat
      let e := if 2 ^ 52 ≤ va then none else (fillTlb (wordOpen s i sg) i (serge u) false va).1
      let stays := fun (bit a : Nat) => match e with | some e => !x.getLsbD bit || a != tlbPa e va / 64 * 64 | none => true
      ∃ t, exec (.sysCinv lti x sg) s = .next t ∧
        (tileOf t i).cache.ilines = (k.ilines.filter fun c => stays 0 c.addr) ∧
        (tileOf t i).cache.dlines = (k.dlines.filter fun c => stays 1 c.addr) ∧
        (tileOf t i).cache.vlines = (k.vlines.filter fun c => stays 2 c.addr) ∧ (tileOf t i).cache.scratch = k.scratch ∧
        (tileOf t i).cache.invalidating = k.invalidating ++ [(0, u.nextWid)] ∧ WordFrame i withoutCache s t) ∧
    (Clocked s lti → ∀ sel wid rest, k.invalidating = (sel, wid) :: rest →
      ∃ t, exec (.cacheInvalidateComplete lti) s = .next t ∧ (tileOf t i).cache.invalidating = rest ∧
        (tileOf t i).cache.ilines = (if sel.getLsbD 0 then [] else k.ilines) ∧
        (tileOf t i).cache.dlines = (if sel.getLsbD 1 then [] else k.dlines) ∧ (tileOf t i).cache.scratch = k.scratch ∧
        WordFrame i withoutCache s t) ∧
    (Ready s lti → u.sup = true →
      (x.toNat % 256 ≠ 0 → k.patch = none → ∃ t, exec (.sysIcpatch lti x sg) s = .next t ∧
        (tileOf t i).cache.patch = some (x.toNat / 0x10000 % 2 ^ 36 * 0x10000, x.toNat % 256 * 0x10000) ∧
        (tileOf t i).cache.patchStores = true ∧ WordFrame i withoutCache s t) ∧
      (x.toNat % 256 = 0 ∨ k.patch ≠ none → TakesFault (.sysIcpatch lti x sg) s i 1 4 0)) ∧
    (Ready s lti → ∃ t, exec (.sysIcflush lti x sg) s = .next t ∧ (tileOf t i).cache.patchStores = false ∧
      (tileOf t i).cache.patch = k.patch ∧ (tileOf t i).cache.flushing = k.flushing ++ [(u.nextWid, u.nextSeq)] ∧
      WordFrame i (fun t => { withoutCache t with nextSeq := 0 }) s t) ∧
    (Clocked s lti → ∀ wid seq rest, k.flushing = (wid, seq) :: rest → u.handed = [] → u.sb = [] →
      ∃ t, exec (.icflushComplete lti) s = .next t ∧ (tileOf t i).cache.flushing = rest ∧ (tileOf t i).cache.ilines = [] ∧
        (tileOf t i).cache.pred = [] ∧ (tileOf t i).cache.loopBuf = [] ∧ (tileOf t i).cache.patch = none ∧
        (∀ v ∈ (tileOf t i).cache.vlines, v.code = false ∧ v ∈ k.vlines) ∧ (tileOf t i).cache.dlines = k.dlines ∧
        MemoryKept s t ∧ WordFrame i withoutCache s t) ∧
    (Ready s lti → u.sup = true → ∃ t, exec (.sysCcfgWrite lti x sg) s = .next t ∧
      (tileOf t i).cache.ien = (if u.det then k.ien else x.getLsbD 0) ∧
      (tileOf t i).cache.den = (if u.det then k.den else x.getLsbD 1) ∧
      (tileOf t i).cache.pfen = (if u.det then k.pfen else x.getLsbD 2) ∧
      (tileOf t i).cache.scr = x.extractLsb' 3 2 ∧ (tileOf t i).cache.sbase = x.extractLsb' 15 37 ∧
      (∀ l ∈ (tileOf t i).cache.dlines, l ∈ k.dlines ∧ l.way + (x.extractLsb' 3 2).toNat < 4) ∧
      WordFrame i withoutCache s t)

/-- R52, R376, R275, R231, R334: the system triggers that act beyond the word: the program's end, a power hint of the region (taken at
once in the first 200 ns of a gap), a
shootdown for the running or the coming frame, a non-interruptible window of SYS.niwin cycles, a host interrupt that waits its turn.
Stated in a tile that replays nothing (R63).
R52, R231, R334: the events those triggers wait for: a drained program ends and records its cycle, an undrained one goes on; a
window that runs out closes with SYS.niovr.OVR set; the oldest host interrupt sets its bit of H.IRQST, when its vector is enabled or a tile's own; vectors 9 to 15 are never raised (R332).
Assumption 1 of the log: the model's choices here. -/
def Obligations.SystemCommands : Prop :=
  (∀ (s : State) (lti : BitVec 14) (x : Word) (sg : BitVec 8), Ready s lti →
    let i := lti.toNat
    let u := tileOf s i
    u.skip = 0 →
    (∃ t, exec (.sysFend lti x sg) s = .next t ∧ (tileOf t i).run = .draining ∧
      WordFrame i (fun t => { t with run := .idle, fetchWalk := false, fetchFault := none }) s t) ∧
    (let hinted := fun r => if r = i / 64 then { regionOf s r with hintsNew := (regionOf s r).hintsNew ++ [x.setWidth 9] } else regionOf s r
      ∃ t, exec (.sysPhint lti x sg) s = .next t ∧
      (hintsOpen s = false → ∀ r, regionOf t r = hinted r) ∧
      (hintsOpen s = true → smWf Region.zero s.regions = true → ∀ r, regionOf t r = takeHints s.fr.fnum.toNat (hinted r)) ∧
      t.ms = s.ms ∧ OutsideTile i s t) ∧
    (u.sup = true → ∃ t, exec (.sysTlbs lti x sg) s = .next t ∧
      t.fr.shootReq = (s.fr.shootReq || !s.fr.inGap) ∧ t.fr.shootNext = (s.fr.shootNext || s.fr.inGap) ∧ t.ms = s.ms ∧
      OutsideTile i s t) ∧
    (u.sup = true → ∃ t, exec (.sysNi lti x sg) s = .next t ∧
      (tileOf t i).exc.niOpen = (if x = 0 then none else some (u.exc.niOpen.getD (serge u, u.exc.niwin.toNat))) ∧
      WordFrame i (fun t => { t with exc := { t.exc with niOpen := none } }) s t) ∧
    (16 ≤ x.toNat % 64 ∨ serge u = true → ∃ t, exec (.sysHostirq lti x sg) s = .next t ∧
      (tileOf t i).hostirqs = u.hostirqs ++ [(x.setWidth 6, u.nextSeq, u.nextWid)] ∧ t.host = s.host ∧
      WordFrame i (fun t => { t with hostirqs := [], nextSeq := 0 }) s t) ∧
    (x.toNat % 64 < 16 → serge u = false → TakesFault (.sysHostirq lti x sg) s i 2 1 0x3E1)) ∧
  (∀ (s : State) (lti : BitVec 14), Clocked s lti →
    let i := lti.toNat
    let u := tileOf s i
    (∃ t, exec (.frameEndDrained lti) s = .next t ∧
      (u.run = .draining → drained s i = true →
        (tileOf t i).run = .ended ∧ (tileOf t i).endCyc = s.fr.fcyc ∧ (tileOf t i).asyncs = [] ∧ bankIn t i = bankIn s i ∧
        OutsideTile i s t) ∧
      (u.run ≠ .draining ∨ drained s i = false → t = s)) ∧
    (u.exc.ipM &&& u.exc.ieM = 0 → u.exc.ipS &&& u.exc.ieS = 0 → ∃ t, exec (.niWindowExpire lti) s = .next t ∧
      (u.exc.niOpen = none → t = s) ∧
      (u.exc.niOpen ≠ none → (tileOf t i).exc = { u.exc with niOpen := none, niOvr := true } ∧ bankIn t i = bankIn s i ∧
        t.ms = s.ms ∧ OutsideTile i s t)) ∧
    (∀ v seq wid rest, u.hostirqs = (v, seq, wid) :: rest → u.sb = [] → u.handed = [] →
      ∃ t, exec (.hostirqSent lti) s = .next t ∧ (tileOf t i).hostirqs = rest ∧
        t.host.irqst.getLsbD v.toNat =
          (s.host.irqst.getLsbD v.toNat || decide (16 ≤ v.toNat) || (decide (v.toNat < 9) && s.host.irqen.getLsbD v.toNat)) ∧
        (∀ j, j ≠ v.toNat → t.host.irqst.getLsbD j = s.host.irqst.getLsbD j) ∧ bankIn t i = bankIn s i ∧ OutsideTile i s t))

/-- R221: a move to a table base is kept and starts the read of the table; the vector latch changes when the read completes: to the 64
entries read, or to all invalid when the read faults.
Assumption 55 of the log: the model's choices here. -/
def Obligations.HandlerTables : Prop :=
  ∀ (s : State) (lti : BitVec 14) (srg : Bool) (x : Word) (sg : BitVec 8),
    let i := lti.toNat
    let u := tileOf s i
    let h : World := if srg then .serge else .muslin
    (Ready s lti → u.sup = true → (srg = true → serge u = true) → ∃ t, exec (.xtbWrite lti srg x sg) s = .next t ∧
      (if srg then (tileOf t i).exc.xtbS else (tileOf t i).exc.xtbM) = x.setWidth 52 ∧
      (if srg then (tileOf t i).exc.latchPendS else (tileOf t i).exc.latchPendM) = some (x &&& 0xFFFFFFFFFFFFF, u.nextWid) ∧
      (∀ v, latched (tileOf t i) h v = latched u h v) ∧ MemoryKept s t ∧ OutsideTile i s t) ∧
    (Clocked s lti → ∀ base wid, (if srg then u.exc.latchPendS else u.exc.latchPendM) = some (base, wid) →
      ∃ t, exec (.handlerTableLatched lti srg) s = .next t ∧
        (∀ s' pas bs, tableLines s i srg (base.toNat / 64 * 64) = (some pas, s') → (∀ pa ∈ pas, isHostPa pa = false) →
          hostLines s' (i, 2 ^ 40 + wid) = [] → tableBytes s' i srg pas [] = some bs →
          ∀ v, v < 64 → latched (tileOf t i) h v = wOf (leNat ((bs.drop (8 * v)).take 8))) ∧
        (∀ s', tableLines s i srg (base.toNat / 64 * 64) = (none, s') → ∀ v, latched (tileOf t i) h v = 0) ∧
        MemoryKept s t ∧ bankIn t i = bankIn s i)

/-- R71, R98, R102, R104: the next word of a program, fetched from the line its header names, issues: a word of one immediate move to a
general register writes the register with the sign-extended 12 bits and goes on in sequence. A line of stacked memory was staged with the
header; the tile store is read as it stands.
R105, R106: in normal mode the word at a multiple of 32 and the one after it issue together when both are such words of the tile's own
store: with the effect of the first followed by the second. -/
def Obligations.WordsIssue : Prop :=
  ∀ (s : State) (lti : BitVec 14) (n m : BitVec 6) (v w : BitVec 12) (base : Nat) (bs : List Byte), Ready s lti →
    let i := lti.toNat
    let pc := (tileOf s i).pc
    let a := accOf s i (serge (tileOf s i)) false false
    let encodes := fun (n : BitVec 6) (v : BitVec 12) (x : List Byte) => leNat x = n.toNat + 2 ^ 12 * v.toNat + 2 ^ 24
    (tileOf s i).line0 = some (pc, base, bs) → pc < 2 ^ 52 → (bankIn s i).loops = [] → (bankIn s i).inlib = false →
    inPatch (tileOf s i) pc = false →
    let goes := ∃ t, exec (.issueWord lti) s = .next t ∧ gReg (bankIn t i) n.toNat = (if n = 0 then 0 else v.signExtend 64) ∧
      (∀ k, k ≠ n.toNat → gReg (bankIn t i) k = gReg (bankIn s i) k) ∧ wOf (tileOf t i).pc = wOf pc + 16 ∧ MemoryKept s t ∧
      OutsideTile i s t
    (paClass (base + pc % 64) = .stacked → (tileOf s i).det = false → encodes n v ((bs.drop (pc % 64)).take 16) → goes) ∧
    (∀ off, paClass (base + pc % 64) = .store i off → refusal s a (base + pc % 64) 16 = none →
      encodes n v (readBytes s (base + pc % 64) 16) →
      ((tileOf s i).det = true ∨ pc % 32 ≠ 0 → goes) ∧
      ∀ off', (tileOf s i).det = false → pc % 32 = 0 → inPatch (tileOf s i) (pc + 16) = false →
        paClass (base + (pc + 16) % 64) = .store i off' → refusal s a (base + (pc + 16) % 64) 16 = none →
        encodes m w (readBytes s (base + (pc + 16) % 64) 16) →
        ∃ t, exec (.issueWord lti) s = .next t ∧ gReg (bankIn t i) m.toNat = (if m = 0 then 0 else w.signExtend 64) ∧
          (n ≠ m → gReg (bankIn t i) n.toNat = (if n = 0 then 0 else v.signExtend 64)) ∧
          (∀ k, k ≠ n.toNat → k ≠ m.toNat → gReg (bankIn t i) k = gReg (bankIn s i) k) ∧
          wOf (tileOf t i).pc = wOf pc + 32 ∧ MemoryKept s t ∧ OutsideTile i s t)

/-- R73, R134, R136, R140, R155: a vector trigger. A refused descriptor takes the illegal-word fault with its reason, a refused
address of `ld` or `st` the data abort, a full queue vector 9; an operation of no elements completes with its word; else the
engine queues the operation with the ports as they stand at the trigger, and no register changes.
Assumptions 25 and 41 of the log: the model's choices here.
R134, R141: a write of x sets VL to x, or to 2,048 with CLAMP when the whole value exceeds that; the oldest operation that has
not started starts, in this cycle or when the one before it has left the engine's issue, and nothing else changes.
Assumption 13 of the log: the model's choices here. -/
def Obligations.VectorTriggers : Prop :=
  (∀ row ∈ vxRows, ∀ (s : State) (lti : BitVec 14) (x : Word) (sg : BitVec 8), Ready s lti →
    let i := lti.toNat
    let vx := (tileOf s i).vx
    let op := row.2
    let sel := decide (op = 0x90 ∨ op = 0x91)
    (∀ r, vxIllegal op x vx.vl.toNat vx.k.toNat = some r → TakesFault (row.1 lti x sg) s i 1 r 0) ∧
    ∀ k, vxIllegal op x vx.vl.toNat vx.k.toNat = none → vkind (vxFmt op x) = some k →
      let n := vxN vx.vl.toNat k
      let bad := if op = 0x80 ∨ op = 0x81 then
        vxLdCheck s i (bankIn s i).inlib (op == 0x81) vx.a vx.stride (vwidth k / 8) n else none
      (∀ a, bad = some a → TakesFault (row.1 lti x sg) s i 8 8 (BitVec.ofInt 64 a)) ∧
      (bad = none → sel = false → n = 0 → ∃ t, exec (row.1 lti x sg) s = .next t ∧ WordFrame i id s t) ∧
      (bad = none → sel = true ∨ n ≠ 0 →
        (4 ≤ vxHeld vx.queue → TakesFault (row.1 lti x sg) s i 9 0 0) ∧
        (vxHeld vx.queue < 4 → ∃ t, exec (row.1 lti x sg) s = .next t ∧
          (tileOf t i).vx = { vx with
            queue := vx.queue ++ [⟨op, x, vx.vl.toNat, vx.sa, vx.sb, vx.sc, vx.a, vx.stride, vx.k, vx.d, (bankIn s i).inlib,
              false, (tileOf s i).nextWid, VxRun.zero⟩]
            st := if sel = false ∧ vlmax k < vx.vl.toNat then vx.st ||| 1 else vx.st } ∧
          WordFrame i withoutVx s t))) ∧
  (∀ (s : State) (lti : BitVec 14),
    let i := lti.toNat
    let vx := (tileOf s i).vx
    (∀ (x : Word) (sg : BitVec 8), Ready s lti → ∃ t, exec (.vxVlWrite lti x sg) s = .next t ∧
      (tileOf t i).vx.vl.toNat = min x.toNat 2048 ∧
      (tileOf t i).vx.st = (if 2048 < x.toNat then vx.st ||| 1 else vx.st) ∧
      { (tileOf t i).vx with vl := 0, st := 0 } = { vx with vl := 0, st := 0 } ∧ WordFrame i withoutVx s t) ∧
    (Thawed s lti → ∀ pre o post, vx.queue = pre ++ o :: post → (∀ p ∈ pre, p.started = true) → o.started = false →
      ∃ t c, exec (.vxOpStart lti) s = .next t ∧ (pre = [] → c = s.fr.cyc) ∧ s.fr.cyc.toNat ≤ c.toNat ∧
        tileOf t i = { tileOf s i with vx := { vx with
          queue := pre.map vxLeave ++ { o with started := true, run := { o.run with start := c } } :: post } } ∧
        (∀ j, j ≠ i → tileOf t j = tileOf s j) ∧ { t with tiles := [] } = { s with tiles := [] }))

/-- R137, R139, R141, R142, R145 to R153, R158: the started vector operation that is to complete next completes. An elementwise one writes
each active element below n: on an integer format the exact
result of its sources reduced to the element's width, wrapped or saturated with ISAT, or the bitwise result, a shift among them; on a
floating-point format the exact result rounded once, with its flags, `abs` and `neg` only the sign bit, `rcpe` and `rsqe` the
reciprocal or the reciprocal square root rounded toward zero to 12 bits and then into the format. `cmp` and the mask
logic write mask bits, `mpop` and `mfirst` count and search, reductions write element 0: sums of integers are exact,
those of floating-point values follow the reference order; permutations take elements by their index, `pack` reduces and `unpack`
keeps values, a NaN with sign and payload; `ext` and `ins` move one element. An inactive one
keeps its value or is zeroed under MZ; no other byte of a register and no other mask bit changes. Its sources are the registers as they stood before
operations triggered after it wrote them. Which of several started operations is next rests on best-case counts (the model's choice,
assumption 13); that the flags of a floating-point reduction are those of its last rounding, and NV of any node, on assumption 26; `mandn`,
the NV of a product of zero and infinity, and `ext` and `ins` at VL = 0 on assumption 132. -/
def Obligations.VectorElements : Prop :=
  (∀ (s : State) (lti : BitVec 14) (op : VxOp) (k : VKind), Thawed s lti →
    let i := lti.toNat
    let vx := (tileOf s i).vx
    let see := vxSees op vx
    let d := op.desc
    let n := vxN op.vl k
    let w := vwidth k
    let a := fun j => vSrc see.v k (dVA d) op.sa j
    let b := fun j => vSrc see.v k (dVB d) op.sb j
    let c := fun j => vSrc see.v k (dVC d) op.sc j
    let act := fun j => vActive see.m d j
    vx.queue[vxNext vx]? = some op → op.started = true → vkind (vxFmt op.op d) = some k →
    let completes := fun (right : Vx → Vx → Prop) =>
      ∃ t, exec (.vxOpComplete lti) s = .next t ∧ right vx (tileOf t i).vx ∧
        (tileOf t i).vx.queue = vxTake vx (vxNext vx) ∧ (tileOf t i).pc = (tileOf s i).pc ∧ WordFrame i withoutVx s t
    (∀ sg, k = .int w sg →
      (∀ row ∈ vxExactRows, op.op = row.1 →
        let x := fun j => row.2 (vint w sg (a j)) (vint w sg (b j)) (vint w sg (c j))
        completes (RegWritten op n w (fun j y => reducedTo w sg (dSat d) (x j) y)
          fun j f => f = 6 ∧ dSat d = true ∧ clampI (intLow w sg) (intHigh w sg) (x j) ≠ x j)) ∧
      (∀ row ∈ vxBitRows, op.op = row.1 → completes (RegWritten op n w (fun j y => y = row.2 w (a j) (b j)) fun _ _ => False))) ∧
    (∀ f, k = .fp f →
      let rm := rmOf (dRM d)
      let u := fun (x : Nat) => fUnpack f x
      (∀ row ∈ vxBitRows, row.1 ∈ vxBitwise → op.op = row.1 →
        completes (RegWritten op n w (fun j y => y = row.2 w (a j) (b j)) fun _ _ => False)) ∧
      (∀ row ∈ vxFpRows, op.op = row.1 →
        let x := fun j => row.2 rm (u (a j)) (u (b j)) (u (c j))
        completes (RegWritten op n w (fun j y => y = (fPack f rm (x j).1).1)
          fun j b => (vFlags (x j).2 false (fPack f rm (x j).1).2 false).getLsbD b = true)) ∧
      (op.op = 0x28 → completes (RegWritten op n w (fun j y => y = a j % 2 ^ (w - 1)) fun _ _ => False)) ∧
      (op.op = 0x29 → completes (RegWritten op n w (fun j y => y = Nat.xor (a j) (2 ^ (w - 1))) fun _ _ => False)) ∧
      (op.op = 0x2A ∨ op.op = 0x2B → completes (RegWritten op n w
        (fun j y => y = (vEstimate f (op.op == 0x2B) (u (a j))).1) fun j b => (vEstimate f (op.op == 0x2B) (u (a j))).2.getLsbD b = true))) ∧
    (op.op = 0x40 →
      let cond := wBits d 17 15
      (∀ sg, k = .int w sg →
        let x := fun j => vint w sg (a j)
        let y := fun j => vint w sg (b j)
        completes (MaskWritten op n (fun j => cmpHolds cond false (decide (x j < y j)) (decide (x j = y j)) (decide (y j < x j))) fun _ => false)) ∧
      (∀ f, k = .fp f →
        let x := fun j => fUnpack f (a j)
        let y := fun j => fUnpack f (b j)
        let un := fun j => fvIsNan (x j) || fvIsNan (y j)
        completes (MaskWritten op n
          (fun j => cmpHolds cond (un j) (fvLt (x j) (y j)) (!fvLt (x j) (y j) && !fvLt (y j) (x j)) (fvLt (y j) (x j)))
          fun j => if 2 ≤ cond ∧ cond ≤ 5 then un j else fvIsSnan (x j) || fvIsSnan (y j)))) ∧
    (let ma := fun j => mGet see.m (wBits d 7 5) j
     let only := fun (r : Word) (v v' : Vx) => v' = { v with r := r, queue := v'.queue }
     (∀ row ∈ maskRows, op.op = row.1 →
       completes (MaskWritten op n (fun j => row.2 (ma j) (mGet see.m (wBits d 12 10) j)) fun _ => false)) ∧
     (op.op = 0x45 → completes (only (wOf ((List.range n).countP fun j => act j && ma j)))) ∧
     (op.op = 0x46 → ∀ r, r ≤ n → (∀ j, j < r → (act j && ma j) = false) → (r < n → act r = true ∧ ma r = true) → completes (only (wOf r)))) ∧
    (∀ sg, k = .int w sg →
      let x := fun j => vint w sg (a j)
      (op.op = 0x50 →
        let z := ((List.range n).map fun j => if act j then x j else 0).sum
        completes (Element0 op 32 (reducedTo 32 sg (dSat d) z) fun f => f = 6 ∧ dSat d = true ∧ clampI (intLow 32 sg) (intHigh 32 sg) z ≠ z)) ∧
      (op.op = 0x51 ∨ op.op = 0x52 → completes (Element0 op w
        (fun y => y < 2 ^ w ∧
          ((∀ j, j < n → act j = false) → vint w sg y = if op.op = 0x51 then intLow w sg else intHigh w sg) ∧
          (∀ j, j < n → act j = true → (if op.op = 0x51 then x j ≤ vint w sg y else vint w sg y ≤ x j) ∧
            ∃ j', j' < n ∧ act j' = true ∧ vint w sg y = x j')) fun _ => False))) ∧
    (∀ f, k = .fp f →
      let u := fun j => fUnpack f (a j)
      let snan := ∃ j, j < n ∧ act j = true ∧ fvIsSnan (u j) = true
      (op.op = 0x50 →
        let out := if f = fp64 then fp64 else fp32
        let r := accChunks (if f = fp64 then a96 else a48) (.fin false 0 0, false)
          ((List.range n).map fun j => (if act j then u j else .fin false 0 0, false))
        let p := fPack out (rmOf (dRM d)) r.1
        completes (Element0 op (fWidth out) (fun y => y = p.1)
          fun b => (vFlags r.2 false p.2 false).getLsbD b = true ∨ (b = 1 ∧ snan))) ∧
      (op.op = 0x51 ∨ op.op = 0x52 → completes (Element0 op w
        (fun y => y = (fPack f .rne (((List.range n).filter act).foldl (fun x j => (if op.op = 0x51 then fvMax x (u j) else fvMin x (u j)).1)
          (.nan false))).1) fun b => b = 1 ∧ snan))) ∧
    (0x60 ≤ op.op → op.op ≤ 0x65 →
      let at_ := fun j => permuteFrom op.op n (vlmax k) op.k.toNat (vGet see.v (dVB d) 16 j) j
      completes (RegWritten op n w (fun j y => y = vGet see.v (if (at_ j).1 then dVB d else dVA d) w (at_ j).2) fun _ _ => False)) ∧
    (∀ kw, (wideOf (dFmt d)).bind vkind = some kw →
      let x := fun j => vGet see.v (dVA d) (vwidth kw) j
      let narrow := fun j => vGet see.v (dVA d) w j
      (∀ sg, k = .int w sg → op.op = 0x70 →
        completes (RegWritten op n w (fun j y => reducedTo w sg (dSat d) (vint (vwidth kw) sg (x j)) y)
          fun j f => f = 6 ∧ dSat d = true ∧ clampI (intLow w sg) (intHigh w sg) (vint (vwidth kw) sg (x j)) ≠ vint (vwidth kw) sg (x j))) ∧
      (∀ sg, k = .int w sg → kw = .int (vwidth kw) sg → op.op = 0x71 →
        completes (RegWritten op n (vwidth kw) (fun j y => vint (vwidth kw) sg y = vint w sg (narrow j)) fun _ _ => False)) ∧
      (∀ f g, k = .fp f → kw = .fp g → op.op = 0x71 →
        completes (RegWritten op n (vwidth kw) (fun j y =>
          if fvIsNan (fUnpack f (narrow j)) then
            y = narrow j / 2 ^ (w - 1) % 2 * 2 ^ (vwidth kw - 1) + (2 ^ g.ew - 1) * 2 ^ g.fw + narrow j % 2 ^ f.fw * 2 ^ (g.fw - f.fw)
          else y = (fPack g .rne (fUnpack f (narrow j))).1) fun _ _ => False))) ∧
    (let e := vGet see.v (wBits d 4 0) w (wBits d 15 5)
     (op.op = 0x90 → completes fun v v' => v' = { v with r := (match k with | .int w true => sext64 w e | _ => wOf e), queue := v'.queue }) ∧
     (op.op = 0x91 → completes fun v v' => vGet v'.v (wBits d 4 0) w (wBits d 15 5) = op.d.toNat % 2 ^ w ∧
       (let p := 2048 * wBits d 4 0 + wBits d 15 5 * (w / 8)
        ∀ q, q < p ∨ p + w / 8 ≤ q → smGet 0 v'.v q = smGet 0 v.v q) ∧
       { v' with v := [], queue := [] } = { v with v := [], queue := [] }))) ∧
  ∀ (f : FFmt) (sqrt sg : Bool) (m : Nat) (e : Int), m ≠ 0 → (sqrt = true → sg = false) →
    ∃ q g, estimates sqrt m e q g ∧ (vEstimate f sqrt (.fin sg m e)).1 = (fPack f .rtz (.fin sg q g)).1

/-- R139, R154, R155, R156: vector loads and stores of the own tile store: each active element of `ld` and `gth` is the bytes at its address,
an inactive one keeps its value or is zeroed under MZ; `st` and `sct` leave each active element's bytes at its address, the higher index where
two meet, and every other byte of memory as it was; an
access of `gth` or `sct` that is refused ends the operation, records itself in VX.fe, discards it with the operations behind it and leaves a vector
data abort; the elements before it are done. -/
def Obligations.VectorMemory : Prop :=
  ∀ (s : State) (lti : BitVec 14) (op : VxOp) (k : VKind), Thawed s lti →
    let i := lti.toNat
    let vx := (tileOf s i).vx
    let see := vxSees op vx
    let n := vxN op.vl k
    let w := vwidth k
    let m := w / 8
    let act := fun j => vActive see.m op.desc j
    let p := fun j => storePa i (vxAddr op see j).toNat
    let loads := op.op = 0x80 ∨ op.op = 0x82
    let stores := op.op = 0x81 ∨ op.op = 0x83
    vx.queue[vxNext vx]? = some op → op.started = true → vkind (dFmt op.desc) = some k → s.ms.bad = [] → s.ms.soft = [] →
    let loaded := fun (t : State) (n : Nat) =>
      (∀ j, j < n → act j = true → vGet (tileOf t i).vx.v (dVD op.desc) w j = leNat (readBytes s (p j) m)) ∧
      (∀ j, j < n → act j = false →
        vGet (tileOf t i).vx.v (dVD op.desc) w j = if wBit op.desc 24 then 0 else vGet vx.v (dVD op.desc) w j) ∧
      (∀ q, q < 2048 * dVD op.desc ∨ 2048 * dVD op.desc + n * m ≤ q → smGet 0 (tileOf t i).vx.v q = smGet 0 vx.v q) ∧ MemoryKept s t
    let stored := fun (t : State) (n : Nat) =>
      (∀ j, j < n → act j = true → (∀ j', j < j' → j' < n → act j' = true → p j' + m ≤ p j ∨ p j + m ≤ p j') →
        readBytes t (p j) m = leBytes m (vSrc see.v k (dVA op.desc) op.sa j)) ∧
      (∀ a, (∀ j, j < n → act j = true → a < p j ∨ p j + m ≤ a) → readByte t a = readByte s a) ∧ (tileOf t i).vx.v = vx.v
    ((∀ j, j < n → act j = true → 0 ≤ vxAddr op see j ∧ vxAddr op see j + m ≤ 0xC0000) → vxGthStop s i op see k = none →
      loads ∨ stores → ∃ t, exec (.vxOpComplete lti) s = .next t ∧ (loads → loaded t n ∧ WordFrame i withoutVx s t) ∧
        (stores → stored t n ∧ OutsideTile i s t) ∧ (tileOf t i).vx.queue = vxTake vx (vxNext vx) ∧
        vxPorts (tileOf t i).vx = vxPorts vx ∧ (tileOf t i).vx.st = vx.st) ∧
    ∀ j r a, vxGthStop s i op see k = some (j, r, a) →
      ∃ t, exec (.vxOpComplete lti) s = .next t ∧ (tileOf t i).vx.queue = vx.queue.take (vxNext vx) ∧
        (tileOf t i).vx.fe = BitVec.ofNat 15 (j + 2048 * r + 16384) ∧
        (∃ x, (tileOf t i).asyncs = (tileOf s i).asyncs ++ [x] ∧ x.vec = 12 ∧ x.info = BitVec.ofNat 8 r ∧ x.fa = BitVec.ofInt 64 a) ∧
        (op.op = 0x82 → loaded t j) ∧ (op.op = 0x83 → stored t j) ∧ OutsideTile i s t

/-- R163, R172, R178, R191: a matrix trigger. A refused descriptor takes the illegal-word fault, a refused footprint the data
abort, a full queue vector 10, and save and restore need the supervisor level; an accumulation of no steps that keeps its bank
completes with its word; else the operation is queued with the ports as they stand at the trigger, and no bank value changes.
Assumption 42 of the log: the model's choices here. -/
def Obligations.MatrixTriggers : Prop :=
  ∀ row ∈ mxRows, ∀ (s : State) (lti : BitVec 14) (x : Word) (sg : BitVec 8), Ready s lti →
    let i := lti.toNat
    let m := (tileOf s i).mx
    let op := row.2
    let empty := op = 0x20 ∧ mK x = 0 ∧ wBit x 1 = false
    (0x23 ≤ op → (tileOf s i).sup = false → TakesFault (row.1 lti x sg) s i 2 1 (wOf (0x200 + op))) ∧
    (op < 0x23 ∨ (tileOf s i).sup = true →
      (∀ r, mxCheck s i op x = some (.inl r) → TakesFault (row.1 lti x sg) s i 1 r 0) ∧
      (∀ a, mxCheck s i op x = some (.inr a) → TakesFault (row.1 lti x sg) s i 8 8 (wOf a)) ∧
      (mxCheck s i op x = none →
        (empty → ∃ t, exec (row.1 lti x sg) s = .next t ∧ WordFrame i id s t) ∧
        (¬empty → 4 ≤ m.queue.length → TakesFault (row.1 lti x sg) s i 10 0 0) ∧
        (¬empty → m.queue.length < 4 → ∃ t, exec (row.1 lti x sg) s = .next t ∧
          (tileOf t i).mx.queue = m.queue ++ [mxCaptured (tileOf s i) op x] ∧ mxFixed (tileOf t i).mx = mxFixed m ∧
          WordFrame i withoutMx s t)))

/-- R166, R175, R179, R191: the next operation of a unit starts when those triggered before it allow it, and not before: a zeroing
accumulation empties its bank, a drain keeps the bank it reads; an accumulation before it whose last step that start implies has its value
by then (the model's choice, assumption 13). A table load, a save and a restore complete: sixteen 16-bit
entries; 256 elements of 12 bytes for each bank, sign-extended; the kinds that the descriptor names with no list to replay. -/
def Obligations.MatrixStorage : Prop :=
  ∀ (s : State) (lti : BitVec 14), Thawed s lti →
    let i := lti.toNat
    let m := (tileOf s i).mx
    let a := fun (o : MxOp) => o.desc.toNat % 2 ^ 20
    (∀ (unit : BitVec 2) pre o post, m.queue = pre ++ o :: post → o.started = false → mxUnit o.op = unit.toNat →
      (∀ p ∈ pre, p.started = true ∨ mxUnit p.op ≠ unit.toNat) → s.ms.bad = [] → s.ms.soft = [] →
      ∃ t, exec (.mxOpStart lti unit) s = .next t ∧ (mxMayStart pre o = false → t = s) ∧
        (mxMayStart pre o = true → ∃ o', (tileOf t i).mx.queue[pre.length]? = some o' ∧ o'.started = true ∧
          (tileOf t i).mx.queue.map mxTriggered = m.queue.map mxTriggered ∧
          (o.op = 0x20 → wBit o.desc 1 = true → (mxBank (tileOf t i).mx (wBit o.desc 0)).vals = []) ∧
          (o.op = 0x21 → o'.snap = (mxBank m (wBit o.desc 0)).vals ∧ o'.snapKind = (mxBank m (wBit o.desc 0)).kind) ∧
          WordFrame i withoutMx s t)) ∧
    (∀ o, m.queue = [o] → o.started = true → s.ms.bad = [] → s.ms.soft = [] →
      (o.op = 0x22 → ∃ t, exec (.mxLutComplete lti) s = .next t ∧
        (∀ q, q < 16 → (smGet 0 (if wBit o.desc 20 then (tileOf t i).mx.lutB else (tileOf t i).mx.lutA) q).toNat =
          leNat (readBytes s (storePa i (a o + 2 * q)) 2)) ∧
        { (tileOf t i).mx with lutA := [], lutB := [] } = { m with queue := [], lutA := [], lutB := [] } ∧
        MemoryKept s t ∧ WordFrame i withoutMx s t) ∧
      (o.op = 0x23 → a o + 6144 ≤ 0xC0000 → ∃ t, exec (.mxSaveComplete lti) s = .next t ∧
        (∀ b e, e < 256 → sInt 96 (leNat (readBytes t (storePa i (a o + (if b then 3072 else 0) + 12 * e)) 12)) =
          savedValue (mxBank m b) e) ∧
        (∀ p, p < storePa i (a o) ∨ storePa i (a o) + 6144 ≤ p → readByte t p = readByte s p) ∧
        (tileOf t i).mx = { m with queue := [] } ∧ OutsideTile i s t) ∧
      (o.op = 0x24 → ∃ t, exec (.mxRestoreComplete lti) s = .next t ∧
        (∀ b, let k := mxBank (tileOf t i).mx b
          k.kind.toNat = wBits o.desc (if b then 23 else 21) (if b then 22 else 20) ∧ k.ops = [] ∧ k.listValid = false ∧
          k.nrep = 0 ∧ (k.kind = 0 → k.vals = []) ∧
          (k.kind = 3 → ∀ e, e < 256 → (smGet 0 k.vals e).toNat =
            leNat (readBytes s (storePa i (a o + (if b then 3072 else 0) + 12 * e)) 5))) ∧
        MemoryKept s t ∧ WordFrame i withoutMx s t))

/-- R160 to R162, R165 to R169, R176, R184, R185, R187, R199, R215: an INT8 accumulation whose sums stay inside INT40 adds to each element of its bank the exact
sum of its products; an INT40 drain writes the values, saturated to INT32 with ISAT or whole, and leaves the bank; an
accumulation that overflows as the first of its bank's list raises the bank's scale by k, empties it, counts a replay, sets REP and
reads its operands again. An accumulation whose steps have all issued completes with the flags they left.
An accumulation of a floating-point class adds to each element, chunk by chunk in the reference order, the products of its operands, scaled
by the block scales of MXFP8 and by the replay scale of the bank; an operand is the value of its stored bits, FP32 rounded into F19, a
narrow weight the entry of its lookup table or (q − Z) × S rounded once and clamped. A drain writes each element rounded once, to the tile
store or to vector registers; of INT64 rows all go into VD (assumption 43). -/
def Obligations.MatrixResults : Prop :=
  ∀ (s : State) (lti : BitVec 14) (o : MxOp), Thawed s lti →
    let i := lti.toNat
    let m := (tileOf s i).mx
    let b := wBit o.desc 0
    let bk := mxBank m b
    m.queue = [o] → o.started = true → s.ms.bad = [] → s.ms.soft = [] →
    (o.op = 0x20 → mmaClass o.desc = some .int8 → wBit o.desc 2 = false → bk.sadj = 0 →
      (∀ e, e < 256 → (i40 (smGet 0 bk.vals e)).natAbs + mK o.desc * 65536 < 2 ^ 39) → o.run.issued = false → o.run.seen = [] →
      ∃ t, exec (.mxMmaComplete lti) s = .next t ∧
        (∀ e, e < 256 → i40 (smGet 0 (mxBank (tileOf t i).mx b).vals e) = i40 (smGet 0 bk.vals e) +
          ((List.range (mK o.desc)).map fun k =>
            int8Of (wBits o.desc 11 8) (readByte s (storePa i (o.aa.toNat + k * o.aks.toNat + e / 16))) *
            int8Of (wBits o.desc 15 12) (readByte s (storePa i (o.ba.toNat + k * o.bks.toNat + e % 16)))).sum) ∧
        mxBank (tileOf t i).mx (!b) = mxBank m (!b) ∧ (tileOf t i).mx.st = m.st ∧ (tileOf t i).mx.queue = [] ∧
        MemoryKept s t ∧ WordFrame i withoutMx s t) ∧
    (o.op = 0x20 → o.run.issued = true → ∃ t, exec (.mxMmaComplete lti) s = .next t ∧
      (tileOf t i).mx = { m with queue := [], st := m.st ||| o.run.flags } ∧ MemoryKept s t ∧ WordFrame i withoutMx s t) ∧
    (∀ w, o.op = 0x21 → o.snapKind = 3 → drainBytes o.desc 3 = some w → wBit o.desc 6 = false → 16 * w ≤ o.drs.toNat →
      o.da.toNat + 15 * o.drs.toNat + 16 * w ≤ 0xC0000 →
      let v := fun e => i40 (smGet 0 o.snap e)
      let y := fun e => if w = 4 then clampI (intLow 32 true) (intHigh 32 true) (v e) else v e
      ∃ t, exec (.mxDrainComplete lti) s = .next t ∧
        (∀ r c, r < 16 → c < 16 →
          sInt (8 * w) (leNat (readBytes t (storePa i (o.da.toNat + r * o.drs.toNat + c * w)) w)) = y (16 * r + c)) ∧
        (∀ p, (∀ r, r < 16 → p < storePa i (o.da.toNat + r * o.drs.toNat) ∨
          storePa i (o.da.toNat + r * o.drs.toNat) + 16 * w ≤ p) → readByte t p = readByte s p) ∧
        ((tileOf t i).mx.st.getLsbD 4 = true ↔ m.st.getLsbD 4 = true ∨ ∃ e, e < 256 ∧ y e ≠ v e) ∧
        mxBank (tileOf t i).mx b = bk ∧ (tileOf t i).mx.queue = [] ∧ OutsideTile i s t) ∧
    (∀ cl v fl, o.op = 0x20 → mmaClass o.desc = some cl → cl ≠ .int8 → o.run.issued = false → o.run.seen = [] →
      mRun s i o bk.sadj.toNat (mayReplay bk) bk.vals = (none, v, fl) →
      ∃ t, exec (.mxMmaComplete lti) s = .next t ∧
        (∀ e, e < mDim cl * mDim cl → smGet 0 (mxBank (tileOf t i).mx b).vals e =
          matrixCell s i o cl bk.sadj.toNat (e / mDim cl) (e % mDim cl) (smGet 0 bk.vals e)) ∧
        mxBank (tileOf t i).mx (!b) = mxBank m (!b) ∧ (tileOf t i).mx.st = m.st ||| fl ∧ (tileOf t i).mx.queue = [] ∧
        MemoryKept s t ∧ WordFrame i withoutMx s t) ∧
    (∀ st ∈ [mA o.desc, mB o.desc], ∀ cl k x, (st.isB = true ∨ wBit o.desc 2 = false) →
      let v := (mElem s i o st cl k x).v
      let at_ := columnAt o st k
      let w := (mBits st.fmt).getD 8 / 8
      let q := if st.fmt = 6 ∨ st.fmt = 7 then (readByte s (storePa i (at_ + x / 2))).toNat / (if x % 2 = 0 then 1 else 16) % 16
        else leNat (readBytes s (storePa i (at_ + w * x)) w)
      let f := mFp (mXf o.desc)
      let side := if st.isB then o.bsd.toNat else o.asd.toNat
      let rec_ := leNat (readBytes s (storePa i (side + 4 * (16 * (k / mGsz o.desc) + x))) 4)
      let z : Int := if st.fmt = 6 ∨ st.fmt = 10 then sInt 8 (rec_ / 65536 % 256) else (rec_ / 65536 % 256 : Nat)
      let dlt := (if st.fmt = 6 then sInt 4 q else if st.fmt = 10 then sInt 8 q else q) - z
      (st.ex = 0 → st.fmt ≠ 1 → v = fUnpack (mFp st.fmt) q) ∧ (st.ex = 0 → st.fmt = 1 → v = (f19Enter o.cfg q).1) ∧
      (st.ex = 1 → v = fUnpack f ((smGet 0 (if st.isB then o.lutB else o.lutA) q).toNat % (if mXf o.desc = 4 ∨ mXf o.desc = 5 then 256 else 65536))) ∧
      (st.ex = 2 → (fvIsNan (fUnpack bf16 (rec_ % 65536)) = true → v = .nan false) ∧
        (∀ g, fUnpack bf16 (rec_ % 65536) = .inf g → v = if dlt = 0 then .nan false else fUnpack f (fMax f (g != decide (dlt < 0)))) ∧
        (∀ g m e, fUnpack bf16 (rec_ % 65536) = .fin g m e →
          let p := (fvMul (.fin g m e) (fvOfInt dlt)).1
          v = fUnpack f (if (fPack f .rne p).2.of then fMax f (fvNeg p) else (fPack f .rne p).1))) ∧
      (st.mx = false → mScale s i o st k x = some 0) ∧
      (st.mx = true →
        let e := (readByte s (storePa i (side + 16 * (k / 32) + x))).toNat
        mScale s i o st k x = if e = 255 then none else some ((e : Int) - 127))) ∧
    (∀ w, o.op = 0x21 → drainBytes o.desc o.snapKind = some w →
      let n := kindDim o.snapKind
      let y := fun e => drainedBits o.desc o.snapKind w (smGet 0 o.snap e)
      (wBit o.desc 6 = false → n * w ≤ o.drs.toNat → o.da.toNat + (n - 1) * o.drs.toNat + n * w ≤ 0xC0000 →
        ∃ t, exec (.mxDrainComplete lti) s = .next t ∧
          (∀ r c, r < n → c < n → leNat (readBytes t (storePa i (o.da.toNat + r * o.drs.toNat + c * w)) w) = y (n * r + c)) ∧
          mxBank (tileOf t i).mx b = bk ∧ OutsideTile i s t) ∧
      (wBit o.desc 6 = true → ∃ t, exec (.mxDrainComplete lti) s = .next t ∧
        (∀ e, e < n * n → vGet (tileOf t i).vx.v (wBits o.desc 11 7) (8 * w) e = y e) ∧
        (∀ p, p < 2048 * wBits o.desc 11 7 ∨ 2048 * wBits o.desc 11 7 + n * n * w ≤ p → smGet 0 (tileOf t i).vx.v p = smGet 0 (tileOf s i).vx.v p) ∧
        mxBank (tileOf t i).mx b = bk ∧ (tileOf t i).mx.queue = [] ∧ MemoryKept s t ∧ WordFrame i (fun u => withoutVx (withoutMx u)) s t)) ∧
    (∀ k v fl, o.op = 0x20 → o.run.issued = false → bk.ops.head? = some o → mRun s i o bk.sadj.toNat (mayReplay bk) bk.vals = (some k, v, fl) →
      ∃ t, exec (.mxOverflowReplay lti) s = .next t ∧
        mxBank (tileOf t i).mx b = { bk with vals := [], sadj := BitVec.ofInt 16 (bk.sadj.toNat + k), nrep := bk.nrep + 1 } ∧
        (tileOf t i).mx.st.getLsbD 2 = true ∧
        (tileOf t i).mx.queue = [{ o with run := { o.run with
          opened := 0, read := 0, bytes := [], t0 := s.fr.cyc, seen := if o.run.seen = [] then operandsRead s i o else o.run.seen } }] ∧
        MemoryKept s t ∧ WordFrame i withoutMx s t)

/-- R202, R203, R214, R217: a conversion-unit trigger. A refused descriptor takes the illegal-word fault, a refused footprint the
data abort, a full queue vector 11; an operation of no elements completes with its word; else the operation is queued with the
ports as they stand. The oldest queued operation starts, fixes the order of its source lines and reads the first of them; one that has
started already is left alone.
Assumption 1 of the log: the model's choices here. -/
def Obligations.ConversionTriggers : Prop :=
  (∀ row ∈ cvRows, ∀ (s : State) (lti : BitVec 14) (x : Word) (sg : BitVec 8), Ready s lti →
    let i := lti.toNat
    let c := (tileOf s i).cv
    let op := row.2
    let empty := op ≤ 0x22 ∧ c.n = 0
    (∀ r, cvCheck s i op x = some (.inl r) → TakesFault (row.1 lti x sg) s i 1 r 0) ∧
    (∀ a, cvCheck s i op x = some (.inr a) → TakesFault (row.1 lti x sg) s i 8 8 (wOf a)) ∧
    (cvCheck s i op x = none →
      (empty → ∃ t, exec (row.1 lti x sg) s = .next t ∧ WordFrame i id s t) ∧
      (¬empty → 4 ≤ c.queue.length → TakesFault (row.1 lti x sg) s i 11 0 0) ∧
      (¬empty → c.queue.length < 4 → ∃ t, exec (row.1 lti x sg) s = .next t ∧
        (tileOf t i).cv = { c with queue := c.queue ++
          [⟨op, x, c.sa, c.sb, c.da, c.sd, c.n, c.x, c.d, c.sren, false, (tileOf s i).nextWid,
            CvRun.zero⟩] } ∧
        WordFrame i withoutCv s t))) ∧
  ∀ (s : State) (lti : BitVec 14) (o : CvOp) (rest : List CvOp), Thawed s lti →
    let i := lti.toNat
    let c := (tileOf s i).cv
    c.queue = o :: rest →
    (o.started = true → exec (.cvOpStart lti) s = .next s) ∧
    (o.started = false → s.ms.soft = [] → ∃ t o', exec (.cvOpStart lti) s = .next t ∧
      (tileOf t i).cv.queue = o' :: rest ∧ o'.started = true ∧ cvTriggered o' = cvTriggered o ∧
      o'.run.plan = cvPlan o c ∧ o'.run.got = min 1 (cvPlan o c).length ∧
      { (tileOf t i).cv with queue := [], slots := [] } = { c with queue := [], slots := [] } ∧
      (∀ k, (slotOf (tileOf t i).cv k).ring = (slotOf c k).ring ∧ (slotOf (tileOf t i).cv k).w = (slotOf c k).w ∧
        (slotOf (tileOf t i).cv k).grad = (slotOf c k).grad) ∧
      (o.op ≠ 0x20 → (tileOf t i).cv.slots = c.slots) ∧ withoutCv (tileOf t i) = withoutCv (tileOf s i) ∧
      (∀ j, j ≠ i → tileOf t j = tileOf s j) ∧ { t with tiles := [] } = { s with tiles := [] })

/-- R197, R201, R204 to R208, R210, R212 to R214, R217: what a started operation of the conversion unit leaves: a slot configured or its maximum pushed,
the ring at most 16 long; INT64 nodes of equal exponents, of the source bytes as they were when their lines were read, add exactly and saturate, CV.xr takes the exponent; a conversion without
block scales writes its destination alone, and advances the counter of a gradient slot by n when rounding is stochastic.
A conversion writes each element scaled, by its block's exponent too where it has one, and rounded once; it writes the block scales and
the overflow map and raises the running maximum of its slot. A node brings both values to the greater exponent and adds them, INT64 ones
rounded to nearest even. A master-weight update writes w − λ × g rounded once, and its copy rounded from that. -/
def Obligations.ConversionResults : Prop :=
  ∀ (s : State) (lti : BitVec 14) (o : CvOp) (rest : List CvOp), Thawed s lti →
    let i := lti.toNat
    let c := (tileOf s i).cv
    let n := o.n.toNat
    let k := o.desc.toNat % 32
    c.queue = o :: rest → o.started = true → o.run.bad = none → s.ms.bad = [] → s.ms.soft = [] →
    (o.op = 0x23 → ∃ t, exec (.cvOpComplete lti) s = .next t ∧
      (slotOf (tileOf t i).cv k).amax = 0 ∧ (slotOf (tileOf t i).cv k).ring = ((slotOf c k).amax :: (slotOf c k).ring).take 16 ∧
      (slotOf (tileOf t i).cv k).w = (slotOf c k).w ∧ (slotOf (tileOf t i).cv k).grad = (slotOf c k).grad ∧
      (∀ j, j ≠ k → slotOf (tileOf t i).cv j = slotOf c j) ∧
      { (tileOf t i).cv with slots := [] } = { c with slots := [], queue := rest } ∧ MemoryKept s t ∧ WordFrame i withoutCv s t) ∧
    (o.op = 0x24 → ∃ t, exec (.cvOpComplete lti) s = .next t ∧
      (slotOf (tileOf t i).cv k).w = o.desc.extractLsb' 5 4 ∧ (slotOf (tileOf t i).cv k).grad = wBit o.desc 9 ∧
      (wBit o.desc 10 = true → (slotOf (tileOf t i).cv k).amax = 0 ∧ (slotOf (tileOf t i).cv k).ring = []) ∧
      (wBit o.desc 10 = false →
        (slotOf (tileOf t i).cv k).amax = (slotOf c k).amax ∧ (slotOf (tileOf t i).cv k).ring = (slotOf c k).ring) ∧
      (∀ j, j ≠ k → slotOf (tileOf t i).cv j = slotOf c j) ∧ MemoryKept s t ∧ WordFrame i withoutCv s t) ∧
    (o.op = 0x21 → wBits o.desc 3 0 = 11 → o.da.toNat + 8 * n ≤ 0xC0000 →
      let top := max (xaOf o.x) (xbOf o.x)
      let v := fun (a : BitVec 20) (x : Int) j => shrRne (sInt 64 (leNat (cvBytes s i o false (a.toNat + 8 * j) 8))) (top - x).toNat
      ∃ t, exec (.cvOpComplete lti) s = .next t ∧
        (∀ j, j < n → sInt 64 (leNat (readBytes t (storePa i (o.da.toNat + 8 * j)) 8)) =
          clampI (intLow 64 true) (intHigh 64 true) (v o.sa (xaOf o.x) j + v o.sb (xbOf o.x) j)) ∧
        (∀ p, p < storePa i o.da.toNat ∨ storePa i o.da.toNat + 8 * n ≤ p → readByte t p = readByte s p) ∧
        (tileOf t i).cv.xr.toInt = top ∧ (tileOf t i).cv.queue = rest ∧ OutsideTile i s t) ∧
    (∀ w, (w = 8 ∧ wBits o.desc 3 0 = 0) ∨ (w = 4 ∧ wBits o.desc 3 0 = 1) → o.op = 0x21 → o.da.toNat + w * n ≤ 0xC0000 →
      let f := if w = 8 then fp64 else fp32
      let top := max (xaOf o.x) (xbOf o.x)
      let v := fun (a : BitVec 20) (x : Int) j => fvShift (fUnpack f (leNat (cvBytes s i o false (a.toNat + j * w) w))) (x - top)
      ∃ t, exec (.cvOpComplete lti) s = .next t ∧
        (∀ j, j < n → leNat (readBytes t (storePa i (o.da.toNat + j * w)) w) =
          (fPack f .rne (fvAdd .rne (v o.sa (xaOf o.x) j) (v o.sb (xbOf o.x) j)).1).1) ∧
        (∀ p, p < storePa i o.da.toNat ∨ storePa i o.da.toNat + w * n ≤ p → readByte t p = readByte s p) ∧
        (tileOf t i).cv.xr.toInt = top ∧ (tileOf t i).cv.queue = rest ∧ OutsideTile i s t) ∧
    (o.op = 0x22 → mwuRefused o.desc = false → o.sa.toNat + 6 * n ≤ 0xC0000 →
      let gw := cSize (wBits o.desc 3 0)
      let cw := cSize (wBits o.desc 7 4)
      let copy := wBit o.desc 8
      let w := fun j => m48Value (leNat (cvBytes s i o false (o.sa.toNat + 6 * j) 6))
      let g := fun j => fUnpack (mFp (wBits o.desc 3 0)) (leNat (cvBytes s i o false (o.sb.toNat + gw * j) gw))
      let y := fun j => (fPack m48 .rne (fvAdd .rne (w j) (fvOpp (fvMul (fUnpack fp32 o.d.toNat) (g j)).1)).1).1
      (copy = true → o.da.toNat + cw * n ≤ 0xC0000 ∧ (o.da.toNat + cw * n ≤ o.sa.toNat ∨ o.sa.toNat + 6 * n ≤ o.da.toNat)) →
      ∃ t, exec (.cvOpComplete lti) s = .next t ∧
        (∀ j, j < n → leNat (readBytes t (storePa i (o.sa.toNat + 6 * j)) 6) = y j / 65536 + y j % 65536 * 2 ^ 32) ∧
        (copy = true → ∀ j, j < n → leNat (readBytes t (storePa i (o.da.toNat + cw * j)) cw) =
          (fPack (mFp (wBits o.desc 7 4)) .rne (fUnpack m48 (y j))).1) ∧
        (∀ p, (p < storePa i o.sa.toNat ∨ storePa i o.sa.toNat + 6 * n ≤ p) →
          (copy = true → p < storePa i o.da.toNat ∨ storePa i o.da.toNat + cw * n ≤ p) → readByte t p = readByte s p) ∧
        (tileOf t i).cv.queue = rest ∧ OutsideTile i s t) ∧
    (∀ sk dk, o.op = 0x20 → ckind (cSf o.desc) = some sk → ckind (cDf o.desc) = some dk → cvtRefused o.desc o.sd n = false →
      let dst := (cvtFeet o.desc (cvPorts o c) n).2.1
      let w := cwidth dk / 8
      let nb := ceilDiv n 32
      let bsc := cBsc o.desc ≠ 0
      let sd := cSdOff o.sd
      let map := sd + 64 * ceilDiv nb 64
      let shift := fun j => if cBsc o.desc = 0 then 0 else -blockExponent s i o sk (j / 32)
      (dst.reg = true → dst.base + n * w ≤ 65536) → (dst.reg = false → dst.base + n * w ≤ 0xC0000) →
      (bsc → map + 64 * ceilDiv nb 512 ≤ 0xC0000 ∧
        (dst.reg = true ∨ dst.base + n * w ≤ sd ∨ map + 64 * ceilDiv nb 512 ≤ dst.base)) →
      ∃ t, exec (.cvOpComplete lti) s = .next t ∧
        (∀ j, j < n → leNat (footRead t i dst.reg (dst.base + j * w) w) = match convertSource s i o sk j with
          | some x => converted dk (wBit o.desc 17) (convertMode s i o j) (fvShift x (shift j))
          | none => (match dk with | .fp f => fNan f | .int _ _ => 0)) ∧
        (bsc → ∀ b, b < nb → readByte t (storePa i (scaleOff o.sd b)) = BitVec.ofInt 8 (blockExponent s i o sk b + 127) ∧
          ∀ f, dk = .fp f → ((readByte t (storePa i (map + b / 8))).getLsbD (b % 8) = true ↔ ∃ j x, j < n ∧ j / 32 = b ∧
            convertSource s i o sk j = some x ∧ (fPack f (convertMode s i o j) (fvShift x (shift j))).2.of = true)) ∧
        (slotOf (tileOf t i).cv (cSlot o.desc)).amax = BitVec.ofNat 32 (((List.range n).map (convertSource s i o sk)).foldl
          (fun (a : Nat) (x : Option FV) => x.elim a fun x => max a (cAmax x)) (slotOf c (cSlot o.desc)).amax.toNat) ∧
        (∀ k, k ≠ cSlot o.desc → slotOf (tileOf t i).cv k = slotOf c k) ∧ (tileOf t i).cv.queue = rest ∧ OutsideTile i s t) ∧
    (∀ sk dk, o.op = 0x20 → ckind (cSf o.desc) = some sk → ckind (cDf o.desc) = some dk → wBit o.desc 9 = false →
      cBsc o.desc = 0 → o.da.toNat + n * (cwidth dk / 8) ≤ 0xC0000 →
      let sl := slotOf c (cSlot o.desc)
      ∃ t, exec (.cvOpComplete lti) s = .next t ∧
        (∀ p, p < storePa i o.da.toNat ∨ storePa i o.da.toNat + n * (cwidth dk / 8) ≤ p → readByte t p = readByte s p) ∧
        (smGet 0 (tileOf t i).cv.ctr (cSlot o.desc)) =
          (if sl.grad && o.sren then smGet 0 c.ctr (cSlot o.desc) + BitVec.ofNat 48 n else smGet 0 c.ctr (cSlot o.desc)) ∧
        (slotOf (tileOf t i).cv (cSlot o.desc)).ring = sl.ring ∧ (tileOf t i).vx = (tileOf s i).vx ∧
        (tileOf t i).cv.queue = rest ∧ OutsideTile i s t)

/-- R119, R278, R301, R303: a DMA submission, a send and a put enter the store buffer; a source that is misaligned, out of the tile
store or in Calico's working set takes the data abort with reason 0x08, a send to a Serge mailbox from the Muslin world the
privilege fault; a full buffer holds the word. With the source inside the tile store and outside Calico's working set, and a free place,
each of the three enters the buffer.
R300: a mailbox port is written and its count set to 0; slots that leave the tile store or touch protected bytes take the data
abort, a Serge mailbox outside the Serge supervisor the privilege fault. -/
def Obligations.SendsPutsMailboxes : Prop :=
  (∀ row ∈ bufferedRows, ∀ (s : State) (lti : BitVec 14) (x : Word) (sg : BitVec 8), Ready s lti →
    let i := lti.toNat
    let u := tileOf s i
    let sergeBox := row.2 = .send ∧ 6 ≤ wBits x 16 14 ∧ serge u = false
    (sergeBox → TakesFault (row.1 lti x sg) s i 2 1 0x820) ∧
    (¬sergeBox → ∀ a, badSource s i row.2 x = some a → TakesFault (row.1 lti x sg) s i 8 8 (wOf a)) ∧
    (¬sergeBox → badSource s i row.2 x = none →
      (u.sb.length < 8 → ∃ t e, exec (row.1 lti x sg) s = .next t ∧ (tileOf t i).sb = u.sb ++ [e] ∧ e.kind = row.2 ∧ e.x = x ∧
        e.pa = u.mesh.pa.toNat / 64 * 64 ∧ e.who = whoOf u ∧ e.wid = u.nextWid ∧ WordFrame i withoutBuffer s t) ∧
      (8 ≤ u.sb.length → exec (row.1 lti x sg) s = .next (wordBegun s i) ∧ (tileOf (wordBegun s i) i).sb = u.sb ∧
        (tileOf (wordBegun s i) i).pc = u.pc ∧ MemoryKept s (wordBegun s i)))) ∧
  (∀ (s : State) (lti : BitVec 14) (x : Word) (sg : BitVec 8), Ready s lti →
    let i := lti.toNat
    let u := tileOf s i
    let clear := fun (a n : Nat) =>
      a % 64 = 0 ∧ a + n ≤ 0xC0000 ∧ (u.calen = false ∨ (bankIn s i).inlib = true ∨ a + n ≤ 0xB0000)
    let enters := fun (c : Instr) (k : SbKind) => ∃ t e, exec c s = .next t ∧ (tileOf t i).sb = u.sb ++ [e] ∧ e.kind = k ∧
      e.x = x ∧ e.pa = u.mesh.pa.toNat / 64 * 64 ∧ e.who = whoOf u ∧ e.wid = u.nextWid ∧ bankIn t i = { bankIn (wordBegun s i) i with
        loops := (bankIn t i).loops, waited := none } ∧ MemoryKept s t ∧ WordFrame i withoutBuffer s t
    u.sb.length < 8 →
    (clear (x.toNat % 2 ^ 20) 64 → enters (.lsuDma lti x sg) .dma) ∧
    (clear (x.toNat / 2 ^ 26 % 2 ^ 20) (64 * (x.toNat / 2 ^ 17 % 4 + 1)) → x.toNat / 2 ^ 14 % 8 < 6 ∨ serge u = true →
      enters (.meshSend lti x sg) .send) ∧
    (clear (x.toNat / 2 ^ 11 % 2 ^ 20) (64 * (x.toNat % 16 + 1)) → enters (.meshPut lti x sg) .put)) ∧
  (∀ (s : State) (lti : BitVec 14) (n : BitVec 3) (x : Word) (sg : BitVec 8), Ready s lti →
    let i := lti.toNat
    let u := tileOf s i
    let box := fun (t : State) => smGet 0 (tileOf t i).mesh.mb n.toNat
    (6 ≤ n.toNat → u.sup = false ∨ serge u = false → TakesFault (.meshMailboxWrite lti n x sg) s i 2 1 (wOf (0x810 + n.toNat))) ∧
    (let base := x.toNat / 2 ^ 20 % 2 ^ 20 / 256 * 256
      let len := 256 * (x.toNat / 2 % 16 + 1)
      n.toNat < 6 ∨ u.sup = true ∧ serge u = true → base + len ≤ 0xC0000 →
      u.calen = false ∨ (bankIn s i).inlib = true ∨ base + len ≤ 0xB0000 →
      (∀ off, base ≤ off → off < base + len → tsinHit s i off = false) →
      ∃ t, exec (.meshMailboxWrite lti n x sg) s = .next t ∧ wBit (box t) 0 = wBit x 0 ∧ wBits (box t) 4 1 = wBits x 4 1 ∧
        wBits (box t) 39 20 = base ∧ smGet 0 (tileOf t i).mesh.rc n.toNat = 0 ∧ MemoryKept s t ∧ WordFrame i withoutMesh s t) ∧
    (n.toNat < 6 ∨ u.sup = true ∧ serge u = true →
      (∀ off, mailboxBad s i x = some off → TakesFault (.meshMailboxWrite lti n x sg) s i 8 8 (wOf off)) ∧
      (mailboxBad s i x = none → ∃ t, exec (.meshMailboxWrite lti n x sg) s = .next t ∧
        (box t).extractLsb' 0 14 = x.extractLsb' 0 14 ∧ (box t).extractLsb' 14 14 = 0 ∧
        (box t).extractLsb' 28 12 = x.extractLsb' 28 12 ∧ (box t).extractLsb' 40 24 = 0 ∧
        smGet 0 (tileOf t i).mesh.rc n.toNat = 0 ∧
        (∀ k, k ≠ n.toNat → smGet 0 (tileOf t i).mesh.mb k = smGet 0 u.mesh.mb k ∧
          smGet 0 (tileOf t i).mesh.rc k = smGet 0 u.mesh.rc k) ∧
        { (tileOf t i).mesh with mb := [], rc := [] } = { u.mesh with mb := [], rc := [] } ∧ WordFrame i withoutMesh s t)))

/-- R297, R300, R302, R303: the send or put of a tile to its own package that is due is delivered: the message's lines stand in the
slot of the mailbox and its count advances, or it is dropped with NAK, and with RDROP when its mailbox is off; a tile that no route reaches
is unavailable to it; the put's lines stand at its address, or nothing is written and NAK is set. Stated of a message that no other
of its cycle has preceded at its mailbox.
Assumptions 102 and 117 of the log: the model's choices here.
R304: a completion counts a flit of its remote operation, a refusing status is remembered; the last one completes the operation
with NAK if any was refused; a timeout completes it with RTO, and what arrives later changes nothing.
Assumption 73 of the log: the model's choices here. -/
def Obligations.MeshOperations : Prop :=
  (∀ (s : State) (lti : BitVec 14) (o : MeshOp), Clocked s lti →
    let i := lti.toNat
    let d := messageTile o
    let k := messageBox o
    let m := (tileOf s d).mesh
    let box := smGet 0 m.mb k
    let place := storePa d (slotPlace m k)
    let reached := idxAvail s d = true ∧ unreachable s (some (i / 1280)) (d / 1280) = false
    firstDue (deliverable s (tileOf s i).mesh.out) = some o → s.ms.bad = [] → s.ms.errs = [] → o.lines.length ≤ 256 →
    (o.put = false →
      (reached → wBit box 0 = true → slotPlace m k + o.lines.length ≤ 0xC0000 → (m.stamp = s.fr.cyc → ∀ a ∈ m.arrived, a.mb ≠ k) →
        ∃ t, exec (.messageDelivery lti) s = .next t ∧ readBytes t place o.lines.length = o.lines ∧
          (∀ a, a < place ∨ place + o.lines.length ≤ a → readByte t a = readByte s a) ∧
          smGet 0 (tileOf t d).mesh.rc k = smGet 0 m.rc k + 1 ∧
          (tileOf t i).mesh.out = (tileOf s i).mesh.out.erase o ∧ (tileOf t i).mesh.nak = (tileOf s i).mesh.nak) ∧
      (¬reached ∨ wBit box 0 = false →
        ∃ t, exec (.messageDelivery lti) s = .next t ∧ MemoryKept s t ∧
          (tileOf t i).mesh.out = (tileOf s i).mesh.out.erase o ∧ (tileOf t i).mesh.nak = ((tileOf s i).mesh.nak || o.live) ∧
          (reached → (tileOf t d).mesh.rdrop = true))) ∧
    (o.put = true → 0 < o.lines.length → o.pa + o.lines.length ≤ 0x12000000000 →
      (refusal s (putAccess o.cxid) o.pa o.lines.length = none →
        ∃ t, exec (.messageDelivery lti) s = .next t ∧ readBytes t o.pa o.lines.length = o.lines ∧
          (∀ a, a < o.pa ∨ o.pa + o.lines.length ≤ a → readByte t a = readByte s a) ∧
          (tileOf t i).mesh = { (tileOf s i).mesh with out := (tileOf s i).mesh.out.erase o } ∧ OutsideTile i s t) ∧
      (refusal s (putAccess o.cxid) o.pa o.lines.length ≠ none →
        ∃ t, exec (.messageDelivery lti) s = .next t ∧ MemoryKept s t ∧
          (tileOf t i).mesh = { (tileOf s i).mesh with
            out := (tileOf s i).mesh.out.erase o, nak := (tileOf s i).mesh.nak || o.live } ∧ OutsideTile i s t))) ∧
  (∀ (s : State) (lti : BitVec 14) (tag : BitVec 12) (status : BitVec 4), Clocked s lti →
    let i := lti.toNat
    let u := tileOf s i
    let same := fun (r : RemoteOp) => r.tag == tag && r.lti == i
    ∃ t v, exec (.remoteOpCompletion lti tag status) s = .next t ∧ exec (.remoteOpTimeout lti tag) s = .next v ∧
      (s.tw.remote.find? same = none → t = s) ∧
      (∀ r, s.tw.remote.find? same = some r → 1 < r.flits →
        t.tw.remote.find? same = some { r with flits := r.flits - 1, nak := r.nak || decide (status ≠ 0) } ∧ t.tiles = s.tiles) ∧
      (∀ r o, s.tw.remote.find? same = some r → r.flits ≤ 1 → u.mesh.out.find? (fun o => o.remote && o.tag == tag) = some o →
        t.tw.remote.find? same = none ∧
        (tileOf t i).mesh = { u.mesh with
          out := u.mesh.out.erase o, nak := u.mesh.nak || ((r.nak || decide (status ≠ 0)) && o.live) } ∧
        MemoryKept s t ∧ CompletesWord i withoutMesh s t) ∧
      (∀ o, u.mesh.out.find? (fun o => o.remote && o.tag == tag) = some o →
        v.tw.remote.find? same = none ∧
        (tileOf v i).mesh = { u.mesh with out := u.mesh.out.erase o, rto := u.mesh.rto || o.live } ∧
        exec (.remoteOpCompletion lti tag status) v = .next v ∧ MemoryKept s v ∧ CompletesWord i withoutMesh s v))

/-- R278, R279, R281, R282, R284: a submission at the head of the store buffer is handed off with the 64 bytes of its descriptor
as they stand; the channel takes the oldest arriving one that need not wait: it refuses a misaligned or overlapping one with its fault
record, completes one of no units, and
lets any other wait; a fifth waiting one waits in normal mode and takes the overload fault in deterministic mode. An idle
channel starts its oldest waiting descriptor.
R268, R272, R280, R282, R283, R285: the next unit of a transfer is performed: its 64 bytes stand at the destination, every other
byte reads as before; its source read is latency-critical when the descriptor or the page says so; a failing unit ends the transfer with its fault record and residual count; past its last unit the
transfer completes and sets its flag while its frame runs; an expired descriptor fails with code 0x08.
Assumptions 1 and 53 of the log: the model's choices here. -/
def Obligations.DmaCommands : Prop :=
  (∀ (s : State),
    (∀ (lti : BitVec 14) (e : SbEntry) (es : List SbEntry), Clocked s lti →
      let i := lti.toNat
      let r := i / 64
      let ch := wBits e.x 21 20
      (tileOf s i).sb = e :: es → e.kind = .dma → e.skip = false → handOffWaits s i = false → s.ms.bad = [] → (∀ x ∈ es, x.seq ≠ e.seq) →
      (tileOf s i).det = true ∨ waitingOf (dmaChOf s r ch) i < 4 →
      ∃ t j, exec (.dmaDescriptorRead lti) s = .next t ∧ (tileOf t i).sb = es ∧
        dmaChOf t r ch = { dmaChOf s r ch with arriving := (dmaChOf s r ch).arriving ++ [j] } ∧ j.lti = i ∧ j.wid = e.wid ∧
        j.serge = e.who.serge ∧ j.cxid = cxidOf s e.who.serge ∧ j.frame = s.fr.fnum.toNat ∧ j.next = 0 ∧
        jobOf j (leNat (readBytes s (storePa i (wBits e.x 19 0)) 64)) ∧ MemoryKept s t) ∧
    ∀ (region : BitVec 8) (ch : BitVec 2), region.toNat < 160 → (dieOf s (region.toNat / 20)).clocks = true →
      let r := region.toNat
      let c := dmaChOf s r ch.toNat
      let first := fun (j : DmaJob) (rest : List DmaJob) => ∃ pre post, c.arriving = pre ++ j :: post ∧ rest = pre ++ post ∧
        ∀ x ∈ pre, x.det = false ∧ 4 ≤ waitingOf c x.lti
      (∀ j rest, first j rest → waitingOf c j.lti < 4 → j.next = 0 → ∃ t, exec (.dmaAccept region ch) s = .next t ∧
        (∀ code, descRefused j = some code →
          dmaChOf t r ch.toNat = { c with arriving := rest } ∧ FaultRecorded s t ch.toNat j code 0) ∧
        (descRefused j = none → j.len = 0 →
          dmaChOf t r ch.toNat = { c with arriving := rest } ∧ (Untraced s → MemoryKept s t)) ∧
        (descRefused j = none → j.len ≠ 0 → j.early = false →
          dmaChOf t r ch.toNat = { c with arriving := rest, waiting := c.waiting ++ [j] } ∧ MemoryKept s t)) ∧
      (∀ j rest, first j rest → waitingOf c j.lti < 4 → j.next = 0 → j.early = false → 0 < j.len →
        j.src % 64 = 0 → j.dst % 64 = 0 → j.src + 64 * j.len ≤ 2 ^ 52 → j.dst + 64 * j.len ≤ 2 ^ 52 → j.frec % 32 = 0 → j.frec < 0xC0000 →
        j.src + 64 * j.len ≤ j.dst ∨ j.dst + 64 * j.len ≤ j.src →
        ∃ t, exec (.dmaAccept region ch) s = .next t ∧
          dmaChOf t r ch.toNat = { c with arriving := rest, waiting := c.waiting ++ [j] } ∧ MemoryKept s t) ∧
      ((∀ j ∈ c.arriving, j.det = false ∧ 4 ≤ waitingOf c j.lti) → exec (.dmaAccept region ch) s = .next s) ∧
      (∀ j rest, first j rest → 4 ≤ waitingOf c j.lti → ∃ t, exec (.dmaAccept region ch) s = .next t ∧
        (j.det = true → dmaChOf t r ch.toNat = { c with arriving := rest } ∧
          ∃ a ∈ (tileOf t j.lti).asyncs, a.vec = 13 ∧ a.fa = wOf j.src)) ∧
      (∀ j rest, c.run = none → c.waiting = j :: rest → ∃ t, exec (.dmaStart region ch) s = .next t ∧
        dmaChOf t r ch.toNat = { c with run := some j, waiting := rest } ∧ t.tiles = s.tiles ∧ t.clusters = s.clusters ∧
        (Untraced s → MemoryKept s t))) ∧
  (∀ (s : State) (region : BitVec 8) (ch : BitVec 2) (j : DmaJob), region.toNat < 160 → (dieOf s (region.toNat / 20)).clocks = true →
    let r := region.toNat
    let k := ch.toNat
    let c := dmaChOf s r k
    c.run = some j →
    (∀ spa dpa lc lc' s1 s2 bs, j.next < j.len → dmaExpired s j = false →
      unitPa s r k j false (j.src + 64 * j.next) = .ok (spa, lc, s1) → genOk s1 j spa = true →
      unitPa s1 r k j true (j.dst + 64 * j.next) = .ok (dpa, lc', s2) → genOk s2 j dpa = true →
      heldByCopy s2 spa = false → heldByCopy s2 dpa = false → refusal s2 (dmaAcc j true) dpa 64 = none →
      spa + 64 ≤ 0x12000000000 → dpa + 64 ≤ 0x12000000000 → checkedRead s2 (dmaAcc j false) spa 64 = .ok bs → s.ms.bad = [] →
      s.ms.errs = [] → ∃ t, exec (.dmaUnitPerformed region ch) s = .next t ∧ exec (.dmaUnitFail region ch) s = .next s ∧
        bs = readBytes s spa 64 ∧ readBytes t dpa 64 = bs ∧ (∀ a, a < dpa ∨ dpa + 64 ≤ a → readByte t a = readByte s a) ∧
        (dmaChOf t r k).run = some { j with next := j.next + 1 } ∧ (dmaChOf t r k).lcRead = (j.lc || lc) ∧ t.tiles = s.tiles ∧ t.clusters = s.clusters) ∧
    (∀ sp dp, j.next < j.len → j.early = true → s.fr.fnum.toNat < j.frame + 2 →
      let at_ := fun (p : RecPage) (va : Nat) => p.pbase + va % 2 ^ pageBits p.level
      let covers := fun (p : RecPage) (dst : Bool) (va : Nat) => p.dst = dst ∧ p.vpage = va / 2 ^ pageBits p.level
      let spa := at_ sp (j.src + 64 * j.next)
      let dpa := at_ dp (j.dst + 64 * j.next)
      let kept := fun (pa : Nat) => smGet 0 s.ms.gen (pa / 0x200000) = smGet 0 j.gens (pa / 0x200000)
      j.pages = [sp, dp] → covers sp false (j.src + 64 * j.next) → covers dp true (j.dst + 64 * j.next) →
      (spa < 0x12000000000 → ¬kept spa → ∃ t, exec (.dmaUnitFail region ch) s = .next t ∧ (dmaChOf t r k).run = none ∧
        FaultRecorded s t k j 7 0) ∧
      (PlainMemory spa 64 → PlainMemory dpa 64 → (∀ a ∈ [spa, dpa], a < 0x12000000000 → kept a) →
        (∀ a ∈ [spa, dpa], heldByCopy s a = false) → refusal s (dmaAcc j false) spa 64 = none →
        refusal s (dmaAcc j true) dpa 64 = none → s.ms.bad = [] → s.ms.errs = [] →
        ∃ t, exec (.dmaUnitPerformed region ch) s = .next t ∧ readBytes t dpa 64 = readBytes s spa 64 ∧
          (∀ a, a < dpa ∨ dpa + 64 ≤ a → readByte t a = readByte s a) ∧ (dmaChOf t r k).run = some { j with next := j.next + 1 } ∧
          t.tiles = s.tiles ∧ t.clusters = s.clusters)) ∧
    (∀ code side s', j.next < j.len → dmaUnit s r k j = .fail code side s' →
      ∃ t, exec (.dmaUnitFail region ch) s = .next t ∧ exec (.dmaUnitPerformed region ch) s = .next s ∧
        (dmaChOf t r k).run = none ∧ FaultRecorded s' t k j code side ∧
        (s.fr.fnum.toNat ≠ j.frame → t.tiles = s'.tiles ∧ t.clusters = s'.clusters)) ∧
    (∃ t, exec (.dmaTransferComplete region ch) s = .next t ∧ (j.next < j.len → t = s) ∧
      (j.len ≤ j.next → dmaChOf t r k = { c with run := none } ∧ (Untraced s → MemoryKept s t) ∧
        (s.fr.fnum.toNat ≠ j.frame → t.tiles = s.tiles ∧ t.clusters = s.clusters) ∧
        (s.fr.fnum.toNat = j.frame → j.sg.getLsbD 7 = true → j.sg.getLsbD 6 = false → j.sg.getLsbD 0 = true →
          (flagsOf t j.lti).getLsbD (j.sg.extractLsb' 1 5).toNat = true))) ∧
    (dmaExpired s j = true → j.next < j.len → ∃ t, exec (.dmaExpiry region ch) s = .next t ∧
      dmaChOf t r k = { c with run := none } ∧ FaultRecorded s t k j 8 0))

/-- R39 to R41, R50 to R52: a tick of the internal timer, of the edge that FRAME_IN brings after 120 ns, of a substitute for a late
edge, and of a member's holdover: the frame number advances from 0, the gap ends, the table that waited is in effect, the
shared flags are 0 and each tile starts from its staged header or idles. An early edge is ignored and counted.
Assumptions 1 and 75 of the log: the model's choices here. -/
def Obligations.Ticks : Prop :=
  ∀ (s : State) (at_ : Nat),
    (∃ t, exec .tickTimerExpiry s = .next t ∧
      (if timerTicks s = true ∧ s.boot.ready = true ∧ suppressed s (s.fr.lastTick + periodOf s) = false then
        TickMade s t (s.fr.lastTick + periodOf s) else t = s)) ∧
    (∃ t, exec (.frameInEdge at_) s = .next t ∧
      (if s.fr.source ≠ 1 ∨ s.boot.ready = false then t = s
       else if s.fr.ticked = true ∧ at_ + 120 < s.fr.lastTick + periodOf s then
         t = { s with fr := { s.fr with edgesIgnored := s.fr.edgesIgnored + 1 } }
       else TickMade s t (at_ + 120))) ∧
    (∃ t, exec .substituteTick s = .next t ∧
      (if s.fr.source = 1 ∧ s.fr.holdover ≠ 0 ∧ s.fr.ticked = true ∧ s.boot.ready = true then
        TickMade s t (s.fr.lastTick + periodOf s + 1000 * s.fr.holdover.toNat) ∧ t.fr.substitutes = s.fr.substitutes + 1
       else t = s)) ∧
    ∃ t, exec .holdoverTick s = .next t ∧
      (if s.fr.source = 2 ∧ s.tw.st = 2 then
        TickMade s t (s.fr.lastTick + s.fr.sysPeriod + 1000) ∧ t.fr.holdovers = s.fr.holdovers + 1
       else t = s)

/-- R42 to R44, R60, R275, R361, R431, R442: the gap marks the tiles that still run, performs the shootdowns asked for once and leaves
every tile's program as it is; FRAME_OUT rises after a tick and falls; a spread setting takes effect at a peak; the timestamp's
wraps are counted; a tile that has overrun K frames is recorded and wedges the function.
Assumptions 1, 76 and 114 of the log: the model's choices here. -/
def Obligations.FrameEvents : Prop :=
  ∀ (s : State) (lti : BitVec 14),
    let i := lti.toNat
    (∃ t, exec .tickGap s = .next t ∧ (s.fr.inGap = true ∨ s.fr.ticked = false → t = s) ∧
      (s.fr.inGap = false → s.fr.ticked = true → t.fr.inGap = true ∧ t.fr.fnum = s.fr.fnum ∧
        (s.fr.shootReq = true → t.ms.shootdowns = s.ms.shootdowns + 1 ∧ t.fr.shootReq = false ∧
          ∀ j, (tileOf t j).itlb = [] ∧ (tileOf t j).dtlb = []) ∧
        (s.fr.shootReq = false → t.ms.shootdowns = s.ms.shootdowns) ∧
        (smWf Tile.zero s.tiles = true → ∀ j, (tileOf t j).late = isLate (tileOf s j) ∧ (tileOf t j).run = (tileOf s j).run ∧
          (tileOf t j).pc = (tileOf s j).pc ∧ bankIn t j = bankIn s j))) ∧
    (∃ t, exec .frameOutRise s = .next t ∧ (s.fr.frameOutDue = true → t.fr.frameOut = true ∧ t.fr.frameOutDue = false) ∧
      (s.fr.frameOutDue = false → t = s) ∧ t.tiles = s.tiles ∧ t.ms = s.ms) ∧
    (∃ t, exec .frameOutFall s = .next t ∧ t.fr.frameOut = false ∧ (s.fr.frameOut = false → t = s) ∧ t.tiles = s.tiles ∧
      t.ms = s.ms) ∧
    (∃ t, exec .spreadPeakChange s = .next t ∧ t.fr.spreadPend = none ∧
      (∀ on, s.fr.spreadPend = some on → t.fr.spreadOn = on) ∧ (s.fr.spreadPend = none → t = s) ∧ t.tiles = s.tiles ∧ t.ms = s.ms) ∧
    (∃ t, exec .timestampWrap s = .next t ∧ t.dict.tsWraps = s.dict.tsWraps + 1 ∧ t.tiles = s.tiles ∧ t.ms = s.ms) ∧
    (Clocked s lti → ∃ t, exec (.wedge lti) s = .next t ∧
      (smGet 0 s.fr.ovr i < s.fr.wedgeK.toNat ∨ i ∈ s.fr.wedgeRec → t = s) ∧
      (s.fr.wedgeK.toNat ≤ smGet 0 s.fr.ovr i → i ∉ s.fr.wedgeRec → t.fr.wedgeRec = s.fr.wedgeRec ++ [i] ∧
        (s.fr.wedged = false → s.dict.emergencies.length < 16 → t.fr.wedged = true ∧ ∃ w, w ∈ t.dict.emergencies ∧ w.1 = 1 ∧ w.2.1.toNat = i)))

/-- R45, R46, R49, R60: a write of the frame-table base: 0 lets no table wait for the next tick, another base starts validation, a
wedged function refuses with status 0x08. Validation lets the table wait, or leaves the tables as they are and shows its reason
and index, 0x01 for a base that is misaligned or outside stacked memory.
Assumptions 30 and 60 of the log: the model's choices here. -/
def Obligations.FrameTables : Prop :=
  ∀ (s : State),
    let refused := s.fr.wedged = true ∨ s.rel.svc.toNat ≤ 1 ∨ s.rel.stRec ≠ none
    let waits := fun (t : State) (x : Option FrameTable) =>
      if s.fr.inGap then t.fr.ftPend2 = some x ∧ t.fr.ftPend = s.fr.ftPend else t.fr.ftPend = some x ∧ t.fr.ftPend2 = s.fr.ftPend2
    let kept := fun (t : State) => t.fr.ft = s.fr.ft ∧ t.fr.ftPend = s.fr.ftPend ∧ t.fr.ftPend2 = s.fr.ftPend2
    (∀ (path : Path) (v : Word), Answers s path → ∃ t, exec (.frameTableBaseWrite path v) s = .next t ∧ t.fr.ft = s.fr.ft ∧
      (refused → kept t ∧ t.fr.validating = none ∧ (s.fr.wedged = true → t.fr.ftCode = 8)) ∧
      (¬refused → v = 0 → waits t none ∧ t.fr.ftCode = 0 ∧ t.fr.validating = none) ∧
      (¬refused → v ≠ 0 → kept t ∧ ∃ q, t.fr.validating = some (v, q) ∧ q.path = path)) ∧
    (∀ (v : Word) (q : DReq), s.fr.validating = some (v, q) → s.dict.waiting = [] → q.cmd = 0x20 → ¬refused →
      ∃ t, exec .frameTableValidationDone s = .next t ∧ t.fr.validating = none ∧ t.fr.ft = s.fr.ft ∧
        (v.toNat % 64 ≠ 0 ∨ 0x12000000000 < v.toNat + 0x50240 → kept t ∧ t.fr.ftCode = 1 ∧ t.fr.ftIndex = 0) ∧
        (∀ c k, validate s v.toNat = .error (c, k) →
          kept t ∧ t.fr.ftCode = BitVec.ofNat 8 c ∧ t.fr.ftIndex = BitVec.ofNat 14 k) ∧
        (∀ x, validate s v.toNat = .ok x → waits t (some x) ∧ t.fr.ftCode = 0) ∧
        ∀ (cx : BitVec 12) (period : Nat), v.toNat % 64 = 0 → v.toNat + 0x50240 ≤ 0x12000000000 → cx ≠ 0xFFF →
          (∀ g, v.toNat / 0x200000 ≤ g → g ≤ (v.toNat + 0x5023F) / 0x200000 → ownerOf s g = cx) → 10000 ≤ period → period ≤ 1000000000 →
          s.boot.upBuffer = false → hubNat s v.toNat 64 = 1 + 2 ^ 16 * cx.toNat + 2 ^ 32 * period →
          (∀ n, n < 10240 → hubNat s (v.toNat + 0x40 + 32 * n) 32 = 0) →
          ∃ x, waits t (some x) ∧ t.fr.ftCode = 0 ∧ x.cxid = cx ∧ x.period = period ∧ x.inputs = [] ∧ x.entries = [])

/-- R35, R245, R248, R249: requests of one cycle are taken deterministic ones first, then by port. A request enters the queue of its
channel: a read changes no memory, a whole write replaces its line and the merges of it, a part is written and its merge stays
pending; earlier reads of the line keep the line as it was. A full queue holds the request and those of its path behind it; a
refused one is answered and leaves nothing. The read of a merge that has come back makes one whole write of the line at the place of
its first part; when the line is lost, the parts are lost and counted.
R246, R247, R250, R375: a burst slot serves one request of its queues, or a merge's read: a deterministic one first, no write while
an aged latency-critical read waits, nothing else at the slot limit; a read's line is delivered; the rows that stay open are those
that a queued request names. A slot that serves nothing keeps the queues. The age limits are noted when such a request waits, and a
refresh closes the bank's row and takes the bank for 24 slots.
Assumptions 28 and 68 of the log: the model's choices here. -/
def Obligations.MemoryControllers : Prop :=
  (∀ (s : State), s.ms.bad = [] → s.ms.errs = [] →
    (∀ (a b : MemReq), (a.det = true ∧ b.det = false) ∨ (a.det = b.det ∧ a.path < b.path) →
      exec (.memRequestAccept [b, a]) s = exec (.memRequestAccept [a, b]) s) ∧
    (∀ (h q : MemReq), s.ms.held = [h] → reqFits h = true → reqRefused s h = false →
      queueFull (chanOf s (channelAt s h.pa)) h.write (badKey s h.pa) = true → reqFits q = true → q.path = h.path →
      ∃ t, exec (.memRequestAccept [q]) s = .next t ∧ t.ms.held = [h, q] ∧ t.ms.chans = s.ms.chans ∧ MemoryKept s t) ∧
    (∀ (q : MemReq), s.ms.held = [] →
      let c := channelAt s q.pa
      let ch := chanOf s c
      let r := asAccepted s ch.nextSeq q
      let full := queueFull ch q.write (badKey s q.pa)
      ∃ t, exec (.memRequestAccept [q]) s = .next t ∧ t.tiles = s.tiles ∧
        (reqFits q = false → t = s) ∧
        (reqFits q = true → reqRefused s q = true → t = emit s (.memAnswer q.path q.pa none)) ∧
        (reqFits q = true → reqRefused s q = false →
          withoutQueues (chanOf t c) = withoutQueues ch ∧ (∀ k, k ≠ c → chanOf t k = chanOf s k) ∧
          (full = true → t.ms.held = [q] ∧ chanOf t c = ch ∧ MemoryKept s t) ∧
          (full = false → t.ms.held = []) ∧
          (full = false → q.write = false →
            (chanOf t c).rq = ch.rq ++ [r] ∧ (chanOf t c).wq = ch.wq ∧ (chanOf t c).merges = ch.merges ∧ MemoryKept s t) ∧
          (full = false → q.write = true →
            readBytes t q.pa q.len = q.data ∧ (∀ a, a < q.pa ∨ q.pa + q.len ≤ a → readByte t a = readByte s a) ∧
            (chanOf t c).rq = ch.rq.map (fun p =>
              if p.key = r.key ∧ p.snap = none then
                { p with snap := some (readBytes s (lineAddr q) 64, []), parts := partMask ch r.key } else p) ∧
            (q.len = 64 → (chanOf t c).wq = ch.wq ++ [r] ∧ (chanOf t c).merges = ch.merges.filter fun m => m.key != r.key) ∧
            (q.len ≠ 64 → (chanOf t c).wq = ch.wq ∧ (chanOf t c).merges = ch.merges ++ [{ r with
              served := ch.merges.any fun m => m.key == r.key && m.served
              old := readBytes s q.pa q.len }])))) ∧
    ∀ (chan : BitVec 10) (m : QReq),
      let c := chan.toNat
      let ch := chanOf s c
      readyMerge ch = some m → s.ms.held = [] → inService s c = true →
      ∃ t w, exec (.partialWriteMerge chan []) s = .next t ∧ (chanOf t c).wq = insertWrite ch.wq w ∧ w.req.pa = lineAddr m.req ∧
        w.req.len = 64 ∧ w.req.data = lineAt s m.key ∧ w.seq = m.seq ∧ w.key = m.key ∧
        (chanOf t c).merges = ch.merges.filter (fun p => p.key != m.key) ∧ (chanOf t c).rq = ch.rq ∧ MemoryKept s t) ∧
  (∀ (s : State) (chan : BitVec 10) (flips : List (BitVec 32)) (m : QReq),
    let c := chan.toNat
    let ch := chanOf s c
    readyMerge ch = some m → s.ms.held = [] → inService s c = true → eccAt (flipLine s m.key flips) m.key = .uncorrectable →
    ∃ t, exec (.partialWriteMerge chan flips) s = .next t ∧ m.key ∈ t.ms.bad ∧ t.tiles = s.tiles ∧
      t.ms.lostPartial = s.ms.lostPartial + (ch.merges.filter fun p => p.key == m.key).length ∧
      (chanOf t c).merges = ch.merges.filter (fun p => p.key != m.key) ∧ (chanOf t c).wq = ch.wq) ∧
  (∀ (s : State) (chan : BitVec 10) (flips : List (BitVec 32)),
    let c := chan.toNat
    let ch := chanOf s c
    (∃ t, exec (.burstSlot chan flips) s = .next t ∧ t.tiles = s.tiles ∧ (inService s c = false → t = s) ∧
      (inService s c = true → s.ms.held = [] →
        ((chooseReq s c ch).1 = none → (chanOf t c).rq = ch.rq ∧ (chanOf t c).wq = ch.wq ∧ (chanOf t c).merges = ch.merges ∧
          MemoryKept s t) ∧
        (∀ q, (chooseReq s c ch).1 = some q → q ∈ ch.rq ++ writeWork ch ∧ servable ch q = true ∧
          ((∃ p ∈ ch.rq, p.req.det = true ∧ servable ch p = true) → q.req.det = true) ∧
          (slotsUsed s c ch = true → q.req.det = true) ∧ (ch.agedRead ≠ [] → q ∈ ch.rq) ∧
          (chanOf t c).rq = ch.rq.filter (fun p => p.seq ≠ q.seq) ∧ (chanOf t c).wq = ch.wq.filter (fun p => p.seq ≠ q.seq) ∧
          (mergeRead q = true → ∀ m ∈ (chanOf t c).merges, m.key = q.key → m.served = true) ∧
          (∀ b r, smGet 0 (chanOf t c).openRows b = r + 1 →
            ∃ p ∈ (chanOf t c).rq ++ (chanOf t c).wq ++ (chanOf t c).merges, p.bank = b ∧ p.row = r) ∧
          (flips = [] → MemoryKept s t) ∧
          (q.req.write = true → t.outbox = s.outbox) ∧
          (q.req.write = false → flips = [] → s.ms.bad = [] → s.ms.errs = [] →
            (q.snap = none → t.outbox = s.outbox ++ [.memAnswer q.req.path q.req.pa (some (lineAt s q.key))]) ∧
            ∀ l, q.snap = some (l, []) → l.length = 64 →
              t.outbox = s.outbox ++ [.memAnswer q.req.path q.req.pa (some l)])))) ∧
    (∃ t, exec (.lcReadAgeLimit chan) s = .next t ∧ t.tiles = s.tiles ∧ t.ms.mem = s.ms.mem ∧
      (lcReads ch = [] → chanOf t c = ch) ∧
      ∀ q qs, lcReads ch = q :: qs → chanOf t c = { ch with agedRead := ch.agedRead ++ [q.seq] }) ∧
    (∃ t, exec (.writeAgeLimit chan) s = .next t ∧ t.tiles = s.tiles ∧ t.ms.mem = s.ms.mem ∧
      chanOf t c = { ch with agedWrite := ch.agedWrite || !ch.wq.isEmpty || !ch.merges.isEmpty }) ∧
    ∀ bank : BitVec 6, ∃ t, exec (.memRefresh chan bank) s = .next t ∧ (48 ≤ bank.toNat → t = s) ∧
      (bank.toNat < 48 → smGet 0 (chanOf t c).openRows bank.toNat = 0 ∧ smGet 0 (chanOf t c).refresh bank.toNat = 24 ∧
        (∀ b, b ≠ bank.toNat → smGet 0 (chanOf t c).openRows b = smGet 0 ch.openRows b ∧
          smGet 0 (chanOf t c).refresh b = smGet 0 ch.refresh b) ∧
        (chanOf t c).rq = ch.rq ∧ (chanOf t c).wq = ch.wq ∧ t.tiles = s.tiles ∧ t.ms.mem = s.ms.mem))

/-- R252 to R255, R259 to R261: a scrub uses a slot that no request wants: a clean line stays, a corrected one is counted and written
back unless a write of it waits, an uncorrectable one is counted. Margining and repair start only without a frame table, take
their channels out, and give them back when they end: the report holds the margins of each lane, the repair maps its row (a hard
one in the training record too), memory keeps its contents. The layout of the report and of the record is the model's
(assumption 115).
Assumptions 1 and 29 of the log: the model's choices here. -/
def Obligations.MemoryService : Prop :=
  ∀ (s : State),
    (∀ (chan : BitVec 10) (n : Nat) (flips : List (BitVec 32)),
      let c := chan.toNat
      let ch := chanOf s c
      let k := lineKey c n
      let place := rankBankRow (64 * n)
      let found := flipLine s k flips
      let free := inService s c = true ∧ s.ms.scrubHours ≠ 0 ∧ n < 18874368 ∧ slotIdle s c = true ∧
        smGet 0 ch.refresh (16 * place.1 + place.2.1) = 0
      ∃ t, exec (.patrolScrub chan n flips) s = .next t ∧ t.tiles = s.tiles ∧ (¬free → t = s) ∧
        (free →
          (eccAt found k = .clean → chanOf t c = slotPasses ch true ∧ (flips = [] → MemoryKept s t)) ∧
          (eccAt found k = .uncorrectable → (flips ≠ [] → k ∈ t.ms.bad) ∧
            smGet 0 t.ms.uncorrectableReads (c / 64) = smGet 0 s.ms.uncorrectableReads (c / 64) + 1) ∧
          (∀ j, eccAt found k = .corrected j → Untraced s → (chanOf t c).corrected = smSet 0 ch.corrected j
              (min (2 ^ 32 - 1) (smGet 0 ch.corrected j + 1)) ∧
            smGet 0 t.ms.correctedReads (c / 64) = smGet 0 s.ms.correctedReads (c / 64) + 1 ∧
            ((∀ q ∈ ch.wq ++ ch.merges, q.key ≠ k) → smGet [] t.ms.errs k = [] ∧
              lineAt t k = delivered (lineAt s k) (smGet [] found.ms.errs k))))) ∧
    (∀ (path : Path) (rec : Word), Commits s path →
      let one := 64 * wBits rec 3 0 + wBits rec 9 4
      let used := smGet 0 (if wBit rec 30 then s.ms.repairsHard else s.ms.repairsSoft) (repairKey rec)
      let free := noTable s = true ∧ serviceBusy s = false
      (∃ t, exec (.marginingCommand path rec) s = .next t ∧ t.tiles = s.tiles ∧
        (free → t.ms.margining = some rec ∧ ∀ c ∈ marginChans rec, (chanOf t c).out = true) ∧
        (¬free → t.ms.margining = s.ms.margining ∧ ∀ c, (chanOf t c).out = (chanOf s c).out)) ∧
      ∃ t, exec (.repairCommand path rec) s = .next t ∧ t.tiles = s.tiles ∧
        (free → wBits rec 11 10 ≠ 3 → wBits rec 29 16 < 12288 → used = 0 → t.ms.repair = some rec ∧ (chanOf t one).out = true) ∧
        (¬free ∨ wBits rec 11 10 = 3 ∨ 12288 ≤ wBits rec 29 16 ∨ used ≠ 0 →
          t.ms.repair = s.ms.repair ∧ ∀ c, (chanOf t c).out = (chanOf s c).out)) ∧
    (∀ (m : List (BitVec 8 × BitVec 8)), ∃ t, exec (.marginingComplete m) s = .next t ∧ t.tiles = s.tiles ∧ t.ms.mem = s.ms.mem ∧
      t.ms.margining = none ∧ (s.ms.margining = none → t = s) ∧
      ∀ (rec : Word), s.ms.margining = some rec →
        (∀ c ∈ marginChans rec, (chanOf t c).out = false) ∧
        ∀ n lo hi c, m[n]? = some (lo, hi) → (marginChans rec)[n / 19]? = some c →
          (t.ms.marginReport.drop (4 * n)).take 4 =
            [lo, hi, BitVec.ofNat 8 (b2n (laneInUse (chanOf s c) (n % 19))), BitVec.ofNat 8 (wBits rec 11 10)]) ∧
    ∃ t, exec .repairComplete s = .next t ∧ t.tiles = s.tiles ∧ t.ms.repair = none ∧ (s.ms.repair = none → t = s) ∧
      ∀ (rec : Word), s.ms.repair = some rec →
        smGet 0 (if wBit rec 30 then t.ms.repairsHard else t.ms.repairsSoft) (repairKey rec) = wBits rec 29 16 + 1 ∧
        (wBit rec 30 = true → t.ms.repairsSoft = s.ms.repairsSoft ∧
          t.ms.trainRecs = recRepair s.ms.trainRecs (repairChan rec) (repairKey rec % 48) (wBits rec 29 16 + 1) ∧
          .trainRecs t.ms.trainRecs ∈ t.boot.flashWrites) ∧
        (wBit rec 30 = false → t.ms.repairsHard = s.ms.repairsHard ∧ t.ms.trainRecs = s.ms.trainRecs) ∧
        (chanOf t (repairChan rec)).out = false ∧ (s.ms.errs = [] → s.ms.bad = [] → t.ms.mem = s.ms.mem)

/-- R61, R62, R66, R390, R391, R393 to R395: a fault of a unit is retried in place, up to the limit of its unit for one operation, and
freezes the tile for
the cost of the scalar units; at the limit, or for a bank without a valid list, the tile retires; while a tile is frozen none of its words issues,
no result lands and no engine goes on; a fault of a cache, TLB or tile-store word leaves what the program sees: a single bit stays in its
word until it is read or replaced, a second one makes the word uncorrectable; a retirement copies the
store to the cluster's spare and counts the tile as retired, or loses the cluster when the spare is gone; the copy's end puts
the index on the spare, where a program that ran starts again. Stated with no host request held and no message waiting.
Assumptions 1, 114, 123 and 127 of the log: the model's choices here. -/
def Obligations.RetriesAndSparing : Prop :=
  ∀ (s : State), s.host.heldReqs = [] →
    (∀ (lti : BitVec 14), Clocked s lti →
      let i := lti.toNat
      let u := tileOf s i
      let k := i / 16
      let c := clusterOf s k
      (0 < u.frozen → (∀ x ∈ frozenRows lti, exec x s = .next s) ∧ exec (.issueWord lti) s = .next s ∧
        (∀ row ∈ aluRows, ∀ alu b sg, exec (row.command lti alu b sg) s = .next s) ∧
        ∀ dst x sg, exec (.registerWrite lti dst x sg) s = .next s) ∧
      (∀ unit : BitVec 4, 1 ≤ unit.toNat → unit.toNat ≤ 12 → u.run = .running ∨ u.run = .draining →
        let spent := (if unit = 9 then 1 else 2) ≤ retriesOf u unit ∨ (unit = 10 ∧ u.mx.bankA.listValid = false) ∨
          (unit = 11 ∧ u.mx.bankB.listValid = false)
        ∃ t, exec (.residueFault lti unit) s = .next t ∧
          (spent → t.rel.retiredTiles = s.rel.retiredTiles + (if c.unavailable then 0 else 1)) ∧
          (¬spent → (∃ r ∈ (tileOf t i).retry, r.unit = unit ∧ (r.op, r.chunk) = retryKey u unit ∧ r.n = retriesOf u unit + 1) ∧
            (∀ r ∈ u.retry, r.unit ≠ unit → r ∈ (tileOf t i).retry) ∧ (tileOf t i).frozen = u.frozen + freezeOf unit ∧
            (tileOf t i).run = u.run ∧ (tileOf t i).pc = u.pc ∧ bankIn t i = bankIn s i ∧ (∀ j, j ≠ i → tileOf t j = tileOf s j) ∧
            t.clusters = s.clusters ∧ (Untraced s → MemoryKept s t))) ∧
      (∀ f : ParityFault, (∀ cause, f ≠ .retires cause) → ∃ t, exec (.parityFaultRetire lti f) s = .next t ∧
        t.rel.retiredTiles = s.rel.retiredTiles ∧ (tileOf t i).run = u.run ∧ (tileOf t i).pc = u.pc ∧ bankIn t i = bankIn s i ∧
        (∀ j, j ≠ i → tileOf t j = tileOf s j) ∧ t.ms.mem = s.ms.mem ∧
        (∀ off : BitVec 20, off.toNat < 786432 →
          let w := badKey s (storePa i off.toNat)
          (f = .storeBit off → w ∉ s.ms.bad → (w ∉ s.ms.soft → w ∈ t.ms.soft ∧ t.ms.bad = s.ms.bad) ∧ (w ∈ s.ms.soft → w ∈ t.ms.bad)) ∧
            (f = .storeWord off → w ∈ t.ms.bad))) ∧
      (∀ cause : BitVec 8, ∃ t, exec (.parityFaultRetire lti (.retires cause)) s = .next t ∧ (c.unavailable = true → t = s) ∧
        (c.unavailable = false → t.rel.retiredTiles = s.rel.retiredTiles + 1 ∧
          (c.spareFor = none → c.spareBad = false → c.copying = none →
            (clusterOf t k).copying = some (i % 16) ∧ (clusterOf t k).retired = c.retired ++ [i % 16] ∧
            (clusterOf t k).unavailable = false ∧ t.rel.sparingPend = s.rel.sparingPend ++ [17 * k + i % 16] ∧
            ((tileOf t i).replay = true ↔ u.run = .running ∨ u.run = .draining)) ∧
          (c.spareFor ≠ none ∨ c.spareBad = true ∨ c.copying ≠ none → (clusterOf t k).unavailable = true)))) ∧
    ∀ (cluster : BitVec 10), cluster.toNat < 640 → s.tw.held = [] →
      let k := cluster.toNat
      ∃ t, exec (.spareRemap cluster) s = .next t ∧ ((clusterOf s k).copying = none → t = s) ∧
        (∀ p, (clusterOf s k).copying = some p → (clusterOf t k).copying = none ∧ (clusterOf t k).spareFor = some p ∧
          (∀ h, (tileOf s (16 * k + p)).replay = true → (tileOf s (16 * k + p)).hdr = some h → h.fault = 0 →
            (tileOf t (16 * k + p)).run = .running ∧ (tileOf t (16 * k + p)).pc = h.code ∧
            (tileOf t (16 * k + p)).skip = (tileOf s (16 * k + p)).skip) ∧
          (∀ j, j ≠ 16 * k + p → tileOf t j = tileOf s j) ∧ MemoryKept s t)

/-- R397, R403, R418, R291: a device fault of a package that is ready wedges the function and is counted; the oldest waiting log entry, of one
cycle that of the hub and then of the lowest die, goes to the ring of 1,024 and,
when serious, to the record of 64, which is written to flash; a record write that ends is used up, and flash holds what it wrote, and the
sparing record its tile, only if it read back right (of a failed one the model keeps the copy before: assumption 90); a due hot-page entry, with the threshold that its count reached, stands in its ring of stacked memory and the head advances, or a
full ring drops it.
Assumptions 1 and 56 of the log: the model's choices here. -/
def Obligations.ErrorRecords : Prop :=
  ∀ (s : State),
    (∀ kind : BitVec 8, ∃ t, exec (.deviceFault kind) s = .next t ∧ (s.boot.ready = false → t = s) ∧
      (s.boot.ready = true → t.fr.wedged = true ∧ t.rel.deviceFaults = s.rel.deviceFaults + 1) ∧ t.tiles = s.tiles ∧ t.clusters = s.clusters ∧ (Untraced s → MemoryKept s t)) ∧
    (∃ t, exec .errorLogAppend s = .next t ∧ t.tiles = s.tiles ∧
      ((∀ q, q < 9 → smGet [] s.rel.queues q = []) → t = s) ∧
      ∀ q e rest, q < 9 → smGet [] s.rel.queues q = e :: rest →
        (∀ p e' rest', p < 9 → p ≠ q → smGet [] s.rel.queues p = e' :: rest' → e.cyc.toNat < e'.cyc.toNat ∨ (e.cyc = e'.cyc ∧ q < p)) →
        smGet [] t.rel.queues q = rest ∧ (∀ p, p ≠ q → smGet [] t.rel.queues p = smGet [] s.rel.queues p) ∧
        t.rel.log = (if 1024 ≤ s.rel.log.length then s.rel.log.drop 1 else s.rel.log) ++ [e] ∧
        t.rel.written = s.rel.written + 1 ∧ t.rel.lost = s.rel.lost + (if 1024 ≤ s.rel.log.length then 1 else 0) ∧
        (e.sev.toNat < 4 → t.rel.persist = s.rel.persist ∧ t.boot = s.boot) ∧
        (4 ≤ e.sev.toNat → t.boot.flashWrites = s.boot.flashWrites ++ [.persist t.rel.persist] ∧ t.rel.persist.getLast? = some e ∧ t.rel.persist.length = min 64 (s.rel.persist.length + 1))) ∧
    (∀ ok : Bool, ∃ t, exec (.flashWriteComplete ok) s = .next t ∧ (s.boot.flashWrites = [] → t = s) ∧
      (∀ w ws, s.boot.flashWrites = w :: ws → t.boot.flashWrites = ws ∧ (ok = false → t.boot.flash = s.boot.flash) ∧
        (∀ p, w = .sparing p → t.rel.sparingPend = s.rel.sparingPend.drop 1 ∧ t.rel.sparing = s.rel.sparing ++ (if ok then [p] else []) ∧
          t.boot.flash = s.boot.flash) ∧
        ((∀ p, w ≠ .sparing p) → t.rel.sparingPend = s.rel.sparingPend ∧ t.rel.sparing = s.rel.sparing) ∧
        (ok = true → (∀ v, w = .node v → t.boot.flash = { s.boot.flash with nodeStored := v }) ∧
          (∀ v, w = .nomRate v → t.boot.flash = { s.boot.flash with nomRate := v }) ∧
          (∀ v, w = .datRate v → t.boot.flash = { s.boot.flash with datRate := v }) ∧
          (∀ v, w = .training v → t.boot.flash = { s.boot.flash with training := v }) ∧
          (∀ l, w = .regulators l → t.boot.flash = { s.boot.flash with regulators := l }) ∧
          (∀ l, w = .trainRecs l → t.boot.flash = { s.boot.flash with trainRecs := l }) ∧
          ∀ l, w = .persist l → t.boot.flash = { s.boot.flash with persist := l })) ∧ t.tiles = s.tiles ∧ t.ms = s.ms) ∧
    ∀ (gi : BitVec 21),
      let full := (s.ms.hotHead - s.ms.hotTail).toNat = 2 ^ s.ms.hotM.toNat
      let pa := s.ms.hotBase.toNat + 16 * (s.ms.hotHead.toNat % 2 ^ s.ms.hotM.toNat)
      ∃ t, exec (.hotPageLogAppend gi) s = .next t ∧ ((∀ e ∈ s.ms.hotDue, e.1 ≠ gi) → t = s) ∧
        (∀ e, s.ms.hotDue.find? (fun e => e.1 == gi) = some e →
          (full → t.ms.hotDropped = s.ms.hotDropped + 1 ∧ t.ms.hotHead = s.ms.hotHead ∧ MemoryKept s t) ∧
          (¬full → refusal s (putAccess 0) pa 16 = none → s.ms.bad = [] → s.ms.errs = [] → Untraced s → pa + 16 ≤ 0x12000000000 →
            t.ms.hotHead = s.ms.hotHead + 1 ∧ readBytes t pa 16 = hotEntry e.1 e.2.2.2 e.2.1 e.2.2.1 ∧
            ∀ a, a < pa ∨ pa + 16 ≤ a → readByte t a = readByte s a) ∧
          (¬full → 0x12000000000 ≤ pa → t.ms.hotHead = s.ms.hotHead ∧ MemoryKept s t)) ∧ t.tiles = s.tiles

/-- R5, R6, R336 to R343, R346, R348: a read answers with the object's value, or aborts with the first code that applies; a write of a
value in range takes effect at once and reads back, or waits for its tick and is answered with the frame; one out of range
aborts with 0x0006. Reads and aborts change no other part of the machine. -/
def Obligations.DictionaryValues : Prop :=
  ∀ (s : State) (path : Path) (idx : BitVec 16) (sub tag : BitVec 8), Answers s path →
    let i := idx.toNat
    let j := sub.toNat
    (∃ t, exec (.dictRead path idx sub tag) s = .next t ∧ DictionaryOnly s t ∧
      (∀ c, objFind i j = .error c → Aborted path idx sub tag c t) ∧
      (∀ r, objFind i j = .ok r →
        (r.srg = true → pathSerge path = false → Aborted path idx sub tag 3 t) ∧
        (r.srg = false ∨ pathSerge path = true → r.acs = .wo → Aborted path idx sub tag 4 t) ∧
        (r.srg = false ∨ pathSerge path = true → r.acs ≠ .wo → readState s i j = false → r.typ ≠ 8 →
          Responded path (message 0x11 false false idx sub tag (objValue s r j)) t))) ∧
    (∀ data r, objFind i j = .ok r → r.srg = false ∨ pathSerge path = true → r.acs ≠ .ro → r.typ ≠ 8 → i ≠ 0x5010 →
      i ≠ 0x6003 → data.length ≤ pathLimit path → writeState path i j s = false →
      ∃ t, exec (.dictWrite path idx sub tag data) s = .next t ∧
        (data.length ≠ typeSize r.typ → Aborted path idx sub tag 5 t ∧ DictionaryOnly s t) ∧
        (data.length = typeSize r.typ → valueOk s i j (leNat data) = false → Aborted path idx sub tag 6 t ∧ DictionaryOnly s t) ∧
        (data.length = typeSize r.typ → valueOk s i j (leNat data) = true → r.acs = .tl →
          Responded path (message 0x21 false false idx sub tag (leBytes 8 (tlFrame s))) t ∧
          (latchedNow t).getLast? = some ⟨idx, sub, wOf (leNat data)⟩ ∧
          (i ≠ 0x9000 → latchedNow t =
            (latchedNow s).filter (fun w => w.idx != idx || w.sub != sub) ++ [⟨idx, sub, wOf (leNat data)⟩]) ∧
          t.tiles = s.tiles ∧ (Untraced s → ∀ r', r'.typ ≠ 8 → r'.idx < 0x9000 → objValue t r' j = objValue s r' j))) ∧
    ∀ row ∈ readBackRows, s.dict.canTx.length < 31 → i = row.1 → j = row.2.1 → ∀ data : List Byte, data.length = row.2.2 → valueOk s i j (leNat data) = true →
      ∃ t u, exec (.dictWrite path idx sub tag data) s = .next t ∧
        Responded path (message 0x21 false false idx sub tag []) t ∧ t.tiles = s.tiles ∧
        exec (.dictRead path idx sub tag) t = .next u ∧ Responded path (message 0x11 false false idx sub tag data) u

/-- R348 to R350: a domain write opens with its size; its segments add up; past the size it is refused and dropped; the last segment
commits the whole. A domain read gives the snapshot part by part. A segment of an object that is not there or not permitted has the
code of that. The requester's abort, or 1 s of silence, closes it; the requester is told of the silence, over Twill when it came so.
Assumption 33 of the log: the model's choices here. -/
def Obligations.DomainTransfers : Prop :=
  ∀ (s : State) (path : Path) (idx : BitVec 16) (sub tag : BitVec 8), Answers s path →
    let p := pathNo path
    (∀ size : BitVec 32, ∃ t, exec (.domainWriteOpen path idx sub tag size) s = .next t ∧
      (∀ c, openRefused (plainReq path 0x30 idx sub tag (leBytes 4 size.toNat)) size.toNat true s = some c →
        Aborted path idx sub tag c t ∧ t.dict.domW = s.dict.domW ∧ DictionaryOnly s t) ∧
      (openRefused (plainReq path 0x30 idx sub tag (leBytes 4 size.toNat)) size.toNat true s = none →
        openAt t.dict.domW p = some { noXfer with idx := idx, sub := sub, size := size.toNat } ∧
        Responded path (message 0x31 false false idx sub tag []) t ∧ DictionaryOnly s t) ∧
      (idx = 0x3015 → sub = 0 → s.dict.domW = [] → 1 ≤ size.toNat → size.toNat ≤ 16 →
        openAt t.dict.domW p = some { noXfer with idx := idx, sub := sub, size := size.toNat } ∧
        Responded path (message 0x31 false false idx sub tag []) t ∧ DictionaryOnly s t)) ∧
    (∀ (g last : Bool) (data : List Byte) (x : DomXfer) (r : ObjRow), data.length ≤ pathLimit path →
      objCheck (plainReq path 0x32 idx sub tag data) true = .ok r →
      s.dict.domW.find? (fun e => e.1 == p && e.2.idx == idx && e.2.sub == sub) = some (p, x) → nextSegment x g →
      smWf noXfer s.dict.domW = true →
      ∃ t, exec (.domainWriteSegment path idx sub tag g last data) s = .next t ∧ t.tiles = s.tiles ∧
        (x.size < (x.data ++ data).length → Aborted path idx sub tag 0xB t ∧ openAt t.dict.domW p = none) ∧
        ((x.data ++ data).length ≤ x.size → last = false → Responded path (message 0x33 g false idx sub tag []) t ∧
          ∃ y, openAt t.dict.domW p = some y ∧ y.data = x.data ++ data ∧ y.size = x.size ∧ y.lastT = some g) ∧
        ((x.data ++ data).length < x.size → last = true → Aborted path idx sub tag 0xC t ∧ openAt t.dict.domW p = none) ∧
        ((x.data ++ data).length = x.size → last = true → idx = 0x3015 → Responded path (message 0x33 g true idx sub tag []) t ∧
          t.dict.regulatorsStored = x.data ++ data ∧ openAt t.dict.domW p = none)) ∧
    (∀ (g : Bool), (∀ c, objCheck (plainReq path 0x42 idx sub tag []) false = .error c →
        ∃ t, exec (.domainReadSegment path idx sub tag g) s = .next t ∧ Aborted path idx sub tag c t ∧ DictionaryOnly s t) ∧
      ∀ data last c, objCheck (plainReq path 0x32 idx sub tag data) true = .error c →
        ∃ t, exec (.domainWriteSegment path idx sub tag g last data) s = .next t ∧ Aborted path idx sub tag c t ∧ DictionaryOnly s t) ∧
    (∀ (g : Bool) (x : DomXfer) (r : ObjRow),
      s.dict.domR.find? (fun e => e.1 == p && e.2.idx == idx && e.2.sub == sub) = some (p, x) →
      nextSegment x g → objCheck (plainReq path 0x42 idx sub tag []) false = .ok r →
      let part := (x.data.drop x.pos).take (pathLimit path)
      let last := decide (x.size ≤ x.pos + part.length)
      ∃ t, exec (.domainReadSegment path idx sub tag g) s = .next t ∧ Responded path (message 0x43 g last idx sub tag part) t ∧
        DictionaryOnly s t ∧
        (last = true → openAt t.dict.domR p = none) ∧
        (last = false → ∃ y, openAt t.dict.domR p = some y ∧ y.data = x.data ∧ y.pos = x.pos + part.length)) ∧
    (∀ x, openAt s.dict.domW p = some x → x.idx = idx → x.sub = sub → smWf noXfer s.dict.domW = true →
      ∃ t, exec (.dictAbort path idx sub tag) s = .next t ∧ openAt t.dict.domW p = none ∧ t.tiles = s.tiles ∧ t.ms = s.ms ∧
        (path = .mailbox → t.host.mbBusy = false)) ∧
    (∀ write x, openAt (if write then s.dict.domW else s.dict.domR) p = some x →
      smWf noXfer (if write then s.dict.domW else s.dict.domR) = true →
      ∃ t, exec (.domainTransferTimeout path write) s = .next t ∧
        openAt (if write then t.dict.domW else t.dict.domR) p = none ∧ t.tiles = s.tiles ∧
        (x.src = none → ∃ tag, Aborted path x.idx x.sub tag 0xA t) ∧
        ∀ d, x.src = some d → ∃ tag, t.tw = (managementSend d.toNat (message 0x7F false false x.idx x.sub tag (leBytes 4 0xA)) s).tw)

/-- R264, R274, R275, R277, R296, R309, R362, R407, R422: the rows that send one record of the dictionary. Context roots and ownership
records wait, whole, for the next tick with a shootdown, or change nothing without the rights or with a bad value; a die route
and the trace ring wait for the tick; a retrain starts; the reset of a path is armed and fired; the security version rises.
Assumptions 32 and 61 of the log: the model's choices here. -/
def Obligations.RecordWrites : Prop :=
  ∀ (s : State) (path : Path), Commits s path →
    let srg := pathSerge path
    let latches := fun (t : State) (idx sub v : Nat) =>
      (⟨BitVec.ofNat 16 idx, BitVec.ofNat 8 sub, wOf v⟩ : TlWrite) ∈ latchedNow t
    let asked := fun (t : State) => if s.fr.inGap then t.fr.shootNext = true else t.fr.shootReq = true
    (∀ recs : List Word, recs ≠ [] → 8 * recs.length ≤ 32768 → ∃ t, exec (.contextRootRecords path recs) s = .next t ∧
      t.ms.roots = s.ms.roots ∧ t.tiles = s.tiles ∧
      (if (srg = false ∧ ∃ r ∈ recs, wBits r 11 0 = 0) ∨ ∃ r ∈ recs, wBits r 11 0 = 0xFFF ∨ (wBit r 12 = true ∧ 0x12000000000 ≤ wBits r 43 16 * 65536)
        then t.ms.rootsNext = s.ms.rootsNext ∧ t.ms.rootsNext2 = s.ms.rootsNext2 ∧ t.fr = s.fr
        else asked t ∧ (if s.fr.inGap then t.ms.rootsNext2 = s.ms.rootsNext2 ++ recs ∧ t.ms.rootsNext = s.ms.rootsNext
          else t.ms.rootsNext = s.ms.rootsNext ++ recs ∧ t.ms.rootsNext2 = s.ms.rootsNext2))) ∧
    (∀ recs : List Word, recs ≠ [] → 8 * recs.length ≤ 32768 → ∃ t, exec (.ownershipRecords path recs) s = .next t ∧
      t.ms.owner = s.ms.owner ∧ t.tiles = s.tiles ∧
      let granules := fun (ok : Word → Nat → Prop) => ∀ r ∈ recs, ∀ g, ownFirst r ≤ g → g < ownFirst r + ownCount r → ok r g
      let changes := recs.map fun r => (⟨ownFirst r, ownCount r, ownNew r, false⟩ : OwnChange)
      let kept := t.ms.ownNext = s.ms.ownNext ∧ t.ms.ownNext2 = s.ms.ownNext2 ∧ t.fr = s.fr
      let ranged := ∀ r ∈ recs, ownRange r = false
      let rights := srg = true ∨ ((∀ r ∈ recs, ownNew r ≠ 0) ∧ granules fun _ g => ownerOf s g ≠ 0)
      let whole := granules fun _ g => granuleCleared s g = true ∧ granuleFenced s (g * 0x200000) = false
      (¬ranged → kept) ∧ (ranged → ¬rights → kept) ∧ (ranged → ¬whole → kept) ∧
      (ranged → rights → whole → asked t ∧
        (if s.fr.inGap then t.ms.ownNext2 = s.ms.ownNext2 ++ changes ∧ t.ms.ownNext = s.ms.ownNext
          else t.ms.ownNext = s.ms.ownNext ++ changes ∧ t.ms.ownNext2 = s.ms.ownNext2))) ∧
    (∀ v : BitVec 8, ∃ t, exec (.shootdownRequest path v) s = .next t ∧ t.tiles = s.tiles ∧ (v = 1 → asked t) ∧
      (v ≠ 1 → t.fr = s.fr)) ∧
    (∀ (sub v : BitVec 8), 1 ≤ sub.toNat → sub.toNat ≤ 64 → ∃ t, exec (.dieRouteWrite path sub v) s = .next t ∧
      t.tiles = s.tiles ∧ t.tw.dieRoutes = s.tw.dieRoutes ∧ (dieRouteOk s sub.toNat v.toNat = false → t.fr = s.fr) ∧
      (v = 0 → latches t 0x2120 sub.toNat 0) ∧
      (dieRouteOk s sub.toNat v.toNat = true → latches t 0x2120 sub.toNat v.toNat)) ∧
    (∀ (sub : BitVec 8) (v : BitVec 32), 1 ≤ sub.toNat → sub.toNat ≤ 8 →
      let l := linkOf s (sub.toNat - 1)
      ∃ t, exec (.linkRetrainCommand path sub v) s = .next t ∧ t.tiles = s.tiles ∧
      (v.getLsbD 7 = false → t.tw = s.tw) ∧
      (v.getLsbD 7 = true → linkOf t (sub.toNat - 1) = { l with
          status := 1, failedLanes := 0, retrains := sat32 l.retrains, resends := 0, afresh := l.afresh || l.status == 3 || l.status == 0 } ∧
        ∀ k, k ≠ sub.toNat - 1 → linkOf t k = linkOf s k)) ∧
    (∀ v : BitVec 8, ∃ t u, exec (.resetArm path v) s = .next t ∧ exec (.resetFire path v) s = .next u ∧ t.tiles = s.tiles ∧
      u.tiles = s.tiles ∧ t.dict.armed = (if v = 0xA5 then some (pathNo path) else s.dict.armed) ∧ t.dict.firing = s.dict.firing ∧
      (s.dict.armed = some (pathNo path) → v = 0x5A → u.dict.firing = true ∧ u.dict.armed = none) ∧
      (s.dict.armed ≠ some (pathNo path) ∨ v ≠ 0x5A → u.dict.firing = s.dict.firing ∧ u.dict.armed = s.dict.armed)) ∧
    (exec .resetArmExpiry s = .next { s with dict := { s.dict with armed := none } }) ∧
    (∀ v : BitVec 8, ∃ t, exec (.svnRaise path v) s = .next t ∧ t.tiles = s.tiles ∧
      (s.boot.upPend = true ∨ v ≠ 1 → t.boot = s.boot) ∧
      (s.boot.upPend = false → v = 1 → t.boot.svn.toNat = max s.boot.svn.toNat s.boot.running.svn.toNat ∧
        t.boot.revoked = s.boot.revoked ||| s.boot.running.revk)) ∧
    (∀ v : BitVec 8, ∃ t, exec (.persistentFaultClear path v) s = .next t ∧ t.tiles = s.tiles ∧
      t.rel.persist = (if srg = true ∧ v = 0 then [] else s.rel.persist)) ∧
    ∀ (sub : BitVec 8) (v : Word), 1 ≤ sub.toNat → sub.toNat ≤ 3 →
      let w := v.toNat % (if sub = 2 then 2 ^ 64 else if sub = 3 then 2 ^ 8 else 2 ^ 32)
      ∃ t, exec (.traceRingWrite path sub v) s = .next t ∧ t.tiles = s.tiles ∧ t.rel.traceBase = s.rel.traceBase ∧
        t.rel.traceExp = s.rel.traceExp ∧ t.rel.traceMask = s.rel.traceMask ∧ (sub = 1 → latches t 0x9000 1 w) ∧
        (valueOk s 0x9000 sub.toNat w = true → latches t 0x9000 sub.toNat w) ∧
        (valueOk s 0x9000 sub.toNat w = false → t.fr = s.fr)

/-- R365, R366, R400, R402, R418, R420, R422 to R427: self-test, firmware images and attestation. A test runs only without a frame
table and ends with its summary, after the entry of a tile that failed and its retirement when the command asks for it; a valid image is stored in the slot that is not active and named as trial, another is refused with
its reason; a report holds the nonce, is signed once, and is used up by the next nonce.
Assumptions 1, 29 and 31 of the log: the model's choices here. -/
def Obligations.TestsImagesAttestation : Prop :=
  ∀ (s : State) (path : Path), Commits s path →
    let srg := pathSerge path
    let free := noTable s = true ∧ serviceBusy s = false
    (∀ rec : Word, ∃ t, exec (.selfTestCommand path rec) s = .next t ∧ t.tiles = s.tiles ∧
      (¬free → t.rel.stRec = s.rel.stRec ∧ t.rel.stStatus = s.rel.stStatus) ∧
      (free → stScope rec ∈ [1, 2, 3, 4, 15] → stDies rec ≠ [] → t.rel.stRec = some rec ∧ t.rel.stStatus = 1 ∧ t.rel.stReport = [])) ∧
    (s.host.heldReqs = [] → ∀ rec, s.rel.stRec = some rec → ∃ t, exec (.selfTestComplete []) s = .next t ∧ t.rel.stRec = none ∧
      t.rel.stStatus = BitVec.ofNat 32 (2 + 256 * stTargets rec (stScope rec)) ∧
      t.rel.stReport = s.rel.stReport ++ stEntry (stScope rec) true false true (stTargets rec (stScope rec)) 0 0) ∧
    (s.host.heldReqs = [] → ∀ rec (f : TestFail), s.rel.stRec = some rec → stScope rec = 2 → f.scope = 2 →
      let n := f.target.toNat
      let c := clusterOf s (n / 17)
      let ret := wBit rec 4 && stRetires s n
      ∃ t, exec (.selfTestComplete [f]) s = .next t ∧ t.rel.stRec = none ∧ t.rel.stStatus = BitVec.ofNat 32 (6 + 256 * stTargets rec 2) ∧
        t.rel.stReport = s.rel.stReport ++ stEntry 2 false ret false n f.sig f.expected ++ stEntry 2 false false true (stTargets rec 2) 0 0 ∧
        (ret = false → t.clusters = s.clusters ∧ t.rel.retiredTiles = s.rel.retiredTiles) ∧
        (ret = true → n % 17 ≠ 16 → c.spareFor ≠ some (n % 17) → t.rel.retiredTiles = s.rel.retiredTiles + 1 ∧ n % 17 ∈ (clusterOf t (n / 17)).retired ∧
          (c.unavailable = false → (c.spareFor = none ∧ c.spareBad = false ∧ c.copying = none → (clusterOf t (n / 17)).copying = some (n % 17)) ∧
            (c.spareFor ≠ none ∨ c.spareBad = true ∨ c.copying ≠ none → (clusterOf t (n / 17)).unavailable = true))) ∧
        (ret = true → n % 17 = 16 → c.spareFor = none → (clusterOf t (n / 17)).spareBad = true ∧
          (clusterOf t (n / 17)).unavailable = (c.unavailable || c.copying.isSome) ∧ t.rel.retiredTiles = s.rel.retiredTiles)) ∧
    (∀ img : List Byte, img.length ≤ 16777216 → s.boot.upStoring = none → ∃ t, exec (.firmwareImageCommit path img) s = .next t ∧
      t.tiles = s.tiles ∧ t.boot.slot0 = s.boot.slot0 ∧ t.boot.slot1 = s.boot.slot1 ∧
      (∀ r, imageFails s img = some r → t.boot.upRes = BitVec.ofNat 4 r ∧ t.boot.upStoring = none) ∧
      (imageFails s img = none → t.boot.upStoring = some (imageOf img)) ∧
      (let len := leNat ((img.drop 12).take 4)
       let key := (img.drop 48).take 32
       let i := imageOf img
       leNat (img.take 4) = 0x395A4C5A → 0 < len → len ≤ 16769024 → 0x2000 + len ≤ img.length →
       s.boot.revoked.getLsbD i.key.toNat = false → Config.sha256 key = Config.vendorKeyHash i.key → s.boot.svn.toNat ≤ i.svn.toNat →
       i.svn.toNat ≤ 64 → Config.slhVerify key (img.take 128) ((img.drop 0x80).take 7856) = true →
       Config.sha256 ((img.drop 0x2000).take len) = (img.drop 16).take 32 → i.revk.getLsbD i.key.toNat = false →
       t.boot.upStoring = some i)) ∧
    (∀ (ok : Bool) (i : Image), s.boot.upStoring = some i → ∃ t, exec (.firmwareStoreComplete ok) s = .next t ∧
      t.boot.upStoring = none ∧ t.tiles = s.tiles ∧ imageSlot t.boot s.boot.active = imageSlot s.boot s.boot.active ∧
      (ok = true → t.boot.trial = some (!s.boot.active) ∧ imageSlot t.boot (!s.boot.active) = some i ∧
        t.boot.upPend = true ∧ t.boot.upRes = 1 ∧ ∃ d, (t.boot.dirA = some d ∨ t.boot.dirB = some d) ∧ d.seq = s.boot.dirSeq + 1 ∧
          d.active = s.boot.active ∧ d.trial = some (!s.boot.active) ∧ dirHolds (some d) = true) ∧
      (ok = false → imageSlot t.boot (!s.boot.active) = none ∧ t.boot.trial = s.boot.trial ∧ t.boot.upPend = false ∧
        t.boot.upRes = 8 ∧ t.boot.dirA = s.boot.dirA ∧ t.boot.dirB = s.boot.dirB)) ∧
    (∀ nonce : List Byte, nonce.length = 32 → ∃ t, exec (.attestationNonce path nonce) s = .next t ∧ t.tiles = s.tiles ∧
      (s.boot.attState = 1 → t.boot = s.boot) ∧
      (s.boot.attState ≠ 1 → t.boot.nonce = nonce ∧ t.boot.attState = 0 ∧ t.boot.attReport = [])) ∧
    (∀ pairs : List (BitVec 24), pairs ≠ [] → 3 * pairs.length ≤ 192 →
      let sel := pairs.map fun p => (p.toNat % 65536, p.toNat / 65536)
      ∃ t, exec (.attestationSelection path pairs) s = .next t ∧ t.tiles = s.tiles ∧
      (s.boot.attState = 1 ∨ s.boot.nonce = [] ∨ (∃ p ∈ sel, selectable srg p.1 p.2 = false) → t.boot = s.boot) ∧
      (s.boot.attState ≠ 1 → s.boot.nonce ≠ [] → (∀ p ∈ sel, selectable srg p.1 p.2 = true) → s.boot.identOk = true →
        t.boot.attState = 1 ∧ ∃ a b, t.boot.attReport = a ++ s.boot.nonce ++ b ∧ a.length = 16)) ∧
    ∃ t, exec .attestationSigned s = .next t ∧ (s.boot.attState ≠ 1 → t = s) ∧
      (s.boot.attState = 1 → t.boot.attState = 2 ∧ t.boot.attReport = s.boot.attReport ++ Config.slhSign s.boot.attReport)

/-- R224, R352, R356, R357: a heartbeat goes out with the state of the device, the oldest emergency goes out and is used up; a bus-off
node sends neither; bus-off events are counted. A request from hub firmware becomes pending in the tile's Serge world.
Assumption 1 of the log: the model's choices here. -/
def Obligations.NodeEvents : Prop :=
  ∀ (s : State),
    (∃ t, exec .heartbeat s = .next t ∧ (s.dict.heartbeat = 0 ∨ s.boot.ready = false ∨ s.dict.canSt = 2 → t = s) ∧
      (s.dict.heartbeat ≠ 0 → s.boot.ready = true → s.dict.canSt ≠ 2 → ∃ bs, bs.length = 8 ∧
        bs.take 1 = leBytes 1 (hStat s % 256) ∧ (bs.drop 1).take 1 = leBytes 1 s.rel.svc.toNat ∧
        t = emit s (.zdp (BitVec.ofNat 11 (7 * 128 + s.dict.nodeUse.toNat)) (s.dict.canSt == 1) bs))) ∧
    (∃ t, exec .emergency s = .next t ∧ (s.dict.emergencies = [] ∨ s.dict.canSt = 2 ∨ s.dict.canStby = true → t = s) ∧
      ∀ code aux fnum ts rest, s.dict.emergencies = (code, aux, fnum, ts) :: rest → s.dict.canSt ≠ 2 → s.dict.canStby = false →
        t.dict.emergencies = rest ∧ t.outbox = s.outbox ++ [.zdp (BitVec.ofNat 11 (128 + s.dict.nodeUse.toNat)) (s.dict.canSt == 1)
          (leBytes 2 code.toNat ++ wBytes fnum ++ leBytes 4 ts.toNat ++ leBytes 2 aux.toNat)] ∧ t.tiles = s.tiles ∧ t.ms = s.ms) ∧
    (∀ st : BitVec 2, ∃ t, exec (.busOff st) s = .next t ∧ t.dict.canSt = st ∧
      smGet 0 t.dict.zdp 3 = (if st = 2 ∧ s.dict.canSt ≠ 2 then sat32 (smGet 0 s.dict.zdp 3) else smGet 0 s.dict.zdp 3) ∧
      t.tiles = s.tiles ∧ t.ms = s.ms ∧ t.outbox = s.outbox) ∧
    ∀ (lti : BitVec 14) (code : BitVec 8), Clocked s lti →
      let i := lti.toNat
      ∃ t, exec (.serviceRequest lti code) s = .next t ∧ (∀ j, j ≠ i → tileOf t j = tileOf s j) ∧ { t with tiles := [] } = { s with tiles := [] } ∧
        bankIn t i = bankIn s i ∧
        ((tileOf s i).run = .idle → tileOf t i = tileOf s i) ∧
        ((tileOf s i).run ≠ .idle → (tileOf t i).exc.ipS = (tileOf s i).exc.ipS ||| 4 ∧
          ((tileOf s i).exc.ipS.getLsbD 2 = false → smGet (0, 0) (tileOf t i).exc.ipInfo 98 = (code.setWidth 64, 0)))

/-- R357: the heartbeat of a node that is on the bus, whole: byte 0 is bits [7:0] of H.STAT, byte 1 the service level, bytes 2 to 5
the low 32 bits of the timestamp, bytes 6 and 7 the low 16 bits of the wrap count; with a period of 0 none is sent. -/
def Obligations.Heartbeat : Prop :=
  ∀ (s : State), (s.dict.heartbeat = 0 → exec .heartbeat s = .next s) ∧
    (s.dict.heartbeat ≠ 0 → s.boot.ready = true → s.dict.canSt ≠ 2 → ∃ bs : List Byte, bs.length = 8 ∧
      exec .heartbeat s = .next (emit s (.zdp (BitVec.ofNat 11 (7 * 128 + s.dict.nodeUse.toNat)) (s.dict.canSt == 1) bs)) ∧
      bs.getD 0 0 = BitVec.ofNat 8 (hStat s) ∧ bs.getD 1 0 = BitVec.ofNat 8 s.rel.svc.toNat ∧
      leNat ((bs.drop 2).take 4) = (timestamp s).toNat % 2 ^ 32 ∧ leNat (bs.drop 6) = s.dict.tsWraps.toNat % 65536)

/-- R303, R306, R307, R310, R360: flits that arrive. A link that is not up takes none; a flit whose CRC fails is counted and not
consumed, and a NAK answers it unless it is a tick; one in order advances the expected sequence number: a put to this package writes
its lines, a message to an open mailbox lands in its slot and counts, a management request is served, a response goes to the
client whose request it answers, a completion ends its remote operation. A payload that ends early goes on with zeros. -/
def Obligations.FlitsArrive : Prop :=
  ∀ (s : State) (link : BitVec 3) (h : BitVec 256) (p : List Byte),
    let k := link.toNat
    let l := linkOf s k
    (∀ c ∈ [Instr.twillFlitReceive link h p, .twillPutReceive link h p, .twillMessageReceive link h p, .managementFlit link h p],
      ∃ t, exec c s = .next t ∧ (l.status ≠ 2 → t = s) ∧
        (l.status = 2 → (flitCrc h (fullPayload p)).toNat ≠ hField h 255 224 → (linkOf t k).crcFails = sat32 l.crcFails ∧
          (linkOf t k).expSeq = l.expSeq ∧ t.tiles = s.tiles ∧ t.ms = s.ms ∧ t.dict = s.dict ∧
          (hField h 3 0 ≠ 4 → SentPlain s t k fun g => hField g 3 0 = 7 ∧ hField g 31 31 = 1) ∧
          (hField h 3 0 = 4 → t.outbox = s.outbox ∧ (linkOf t k).ticksLost = sat32 l.ticksLost)) ∧
        (Unanswered s k h p → (linkOf t k).expSeq = l.expSeq + 1)) ∧
    (Unanswered s k h p → hField h 3 0 = 1 → s.ms.bad = [] → s.ms.errs = [] →
      let pa := hField h 107 64
      let bs := flitLines h (fullPayload p)
      ∃ t, exec (.twillPutReceive link h p) s = .next t ∧ t.tiles = s.tiles ∧
        (refusal s (putAccess (BitVec.ofNat 12 (hField h 147 136))) pa bs.length = none → pa + bs.length ≤ 0x12000000000 →
          readBytes t pa bs.length = bs ∧ (∀ a, a < pa ∨ pa + bs.length ≤ a → readByte t a = readByte s a)) ∧
        ((refusal s (putAccess (BitVec.ofNat 12 (hField h 147 136))) pa bs.length).isSome ∨ 0x12000000000 < pa + bs.length →
          MemoryKept s t)) ∧
    (Unanswered s k h p → hField h 3 0 = 2 →
      let i := hField h 77 64
      let mb := hField h 80 78
      let m := (tileOf s i).mesh
      let lines := flitLines h (fullPayload p)
      (clusterOf s (i / 16)).copying ≠ some (i % 16) → (m.stamp = s.fr.cyc → ∀ a ∈ m.arrived, a.mb ≠ mb) →
      ∃ t, exec (.twillMessageReceive link h p) s = .next t ∧
        (messageStatus s h ≠ 0 → t.tiles = s.tiles ∧ MemoryKept s t) ∧
        (messageStatus s h = 0 → wBit (smGet 0 m.mb mb) 0 = false →
          (tileOf t i).mesh = { m with rdrop := true } ∧ MemoryKept s t) ∧
        (messageStatus s h = 0 → wBit (smGet 0 m.mb mb) 0 = true → slotPlace m mb + lines.length ≤ 0xC0000 →
          readBytes t (storePa i (slotPlace m mb)) lines.length = lines ∧
          (∀ a, a < storePa i (slotPlace m mb) ∨ storePa i (slotPlace m mb) + lines.length ≤ a → readByte t a = readByte s a) ∧
          smGet 0 (tileOf t i).mesh.rc mb = smGet 0 m.rc mb + 1)) ∧
    (Unanswered s k h p → hField h 3 0 = 3 → ∀ r, s.tw.remote.find? (fun r => r.tag == BitVec.ofNat 12 (hField h 133 122) &&
        r.lti == hField h 121 108) = some r → 1 < r.flits →
      ∃ t, exec (.twillFlitReceive link h p) s = .next t ∧ t.tiles = s.tiles ∧
        { r with flits := r.flits - 1, nak := r.nak || decide (hField h 151 148 ≠ 0) } ∈ t.tw.remote) ∧
    (Unanswered s k h p → hField h 3 0 = 6 → s.boot.ready = true → s.fr.validating = none →
      let q := parseRequest (.twill (h.getLsbD 62 && s.tw.members.getLsbD (hField h 49 44))) (some (BitVec.ofNat 6 (hField h 49 44)))
        (flitLines h p)
      (q.cmd = 0x20 → q.idx = 0x1011 → q.sub = 0 → q.data.length = 2 →
        ∃ t, exec (.managementFlit link h p) s = .next t ∧ t.dict.heartbeat.toNat = leNat q.data ∧ t.tiles = s.tiles) ∧
      ∀ r, q.cmd = 0x11 → awayFor s (BitVec.ofNat 6 (hField h 49 44)) q = some r →
        ∃ t, exec (.managementFlit link h p) s = .next t ∧ t.dict.away = s.dict.away.erase r ∧ t.tiles = s.tiles ∧
          (ClientWaits s r.client → Responded (clientPath r.client) (p.take (8 + q.data.length)) t))

/-- R307 to R309, R311: a link's own events. Unacknowledged flits are sent again, at most 16 times before the link retrains; a lane that
fails retrains it; a retrain ends at the widest width without a failed lane, or fails the link; a failed link drops what it
held, whose buffers are free on the links they came by, and a retrain that brings it up starts it afresh; a new link starts at sequence number 0 with fresh credits; what has arrived is acknowledged; the delay is measured.
Assumption 1 of the log: the model's choices here. -/
def Obligations.LinkEvents : Prop :=
  ∀ (s : State) (link : BitVec 3),
    let k := link.toNat
    let l := linkOf s k
    let others := fun (t : State) =>
      (∀ j, j ≠ k → { linkOf t j with owe := [] } = { linkOf s j with owe := [] } ∧
        ((∀ f ∈ l.waiting, f.buf = none) → linkOf t j = linkOf s j)) ∧ t.tiles = s.tiles ∧ (Untraced s → MemoryKept s t)
    (∃ t, exec (.ackTimeoutResend link) s = .next t ∧ others t ∧ (l.status ≠ 2 ∨ l.replay = [] → t = s) ∧
      (l.status = 2 → l.replay ≠ [] → 16 ≤ l.resends → (linkOf t k).status = 1 ∧ (linkOf t k).retrains = sat32 l.retrains) ∧
      (l.status = 2 → l.replay ≠ [] → l.resends < 16 → (linkOf t k).resends = l.resends + 1 ∧ (linkOf t k).replay = l.replay ∧
        t.outbox.length = s.outbox.length + l.replay.length)) ∧
    (∀ lane : BitVec 4, ∃ t, exec (.laneFailure link lane) s = .next t ∧ others t ∧ (l.status = 0 ∨ l.status = 3 → t = s) ∧
      (l.status = 1 ∨ l.status = 2 → (linkOf t k).status = 1 ∧ (linkOf t k).failedLanes.getLsbD lane.toNat = true ∧
        (linkOf t k).retrains = sat32 l.retrains)) ∧
    (∃ t, exec (.retrainComplete link) s = .next t ∧ others t ∧ (l.status ≠ 1 → t = s) ∧
      (l.status = 1 → widest l.failedLanes = 0 → (linkOf t k).status = 3 ∧ (linkOf t k).replay = []) ∧
      (l.status = 1 → widest l.failedLanes ≠ 0 → (linkOf t k).status = 2 ∧ (linkOf t k).lanes.toNat = widest l.failedLanes ∧
        (linkOf t k).degrades = (if widest l.failedLanes < l.lanes.toNat then sat32 l.degrades else l.degrades) ∧
        (l.afresh = true → l.waiting = [] → (linkOf t k).nextSeq = 0 ∧ (linkOf t k).expSeq = 0 ∧
          (linkOf t k).credits = freshCredits ∧ (linkOf t k).replay = [] ∧ (linkOf t k).afresh = false))) ∧
    (∃ t, exec (.linkFailed link) s = .next t ∧ others t ∧ (l.status = 3 → t = s) ∧
      (l.status ≠ 3 → (linkOf t k).status = 3 ∧ (linkOf t k).lanes = 0 ∧ (linkOf t k).replay = [])) ∧
    (∀ ps : BitVec 32, ∃ t, exec (.linkUp link ps) s = .next t ∧ others t ∧ (l.status ≠ 0 ∨ s.boot.ready = false → t = s) ∧
      (l.status = 0 → s.boot.ready = true → (linkOf t k).status = 2 ∧ (linkOf t k).delayPs = ps ∧ (linkOf t k).nextSeq = 0 ∧
        (linkOf t k).expSeq = 0 ∧ (linkOf t k).credits = freshCredits)) ∧
    (∀ ps : BitVec 32, ∃ t, exec (.delayMeasurement link ps) s = .next t ∧ others t ∧
      linkOf t k = (if l.status = 2 then { l with delayPs := ps } else l)) ∧
    (∃ t, exec (.acknowledgementDue link) s = .next t ∧ others t ∧ (l.status ≠ 2 ∨ l.sinceAck = 0 → t = s) ∧
      (l.status = 2 → 0 < l.sinceAck → (linkOf t k).sinceAck = 0 ∧ SentPlain s t k fun h =>
        hField h 3 0 = 7 ∧ hField h 29 18 = (l.expSeq.toNat + 4095) % 4096 ∧ hField h 30 30 = 1 ∧
          (flitCrc h (fullPayload [])).toNat = hField h 255 224))

/-- R311, R312, R314, R41: the system tick. A tick flit that arrives first schedules the release of its frame, lessened by the link's
delay, and goes on over the other links; the master sends its own ahead; at the release a member's tick is made, and the one that
admits a package makes it a member; an elected package is master of system frame 0. With a lead above the period several releases wait,
in the order of their instants, and the master's flits name the frames one after another.
Assumptions 75, 78, 79, 80 and 118 of the log: the model's choices here. -/
def Obligations.SystemTick : Prop :=
  ∀ (s : State),
    (∀ (link : BitVec 3) (h : BitVec 256) (at_ : Nat),
      let k := link.toNat
      let l := linkOf s k
      let n := wOf (hField h 215 152)
      ∃ t, exec (.tickFlitReceive link h at_) s = .next t ∧ t.tiles = s.tiles ∧ t.ms = s.ms ∧
        (l.status ≠ 2 ∨ hField h 3 0 ≠ 4 → t = s) ∧
        (l.status = 2 → hField h 3 0 = 4 → (flitCrc h (fullPayload [])).toNat ≠ hField h 255 224 →
          linkOf t k = { l with crcFails := sat32 l.crcFails, ticksLost := sat32 l.ticksLost } ∧ t.tw.releases = s.tw.releases) ∧
        (l.status = 2 → hField h 3 0 = 4 → (flitCrc h (fullPayload [])).toNat = hField h 255 224 →
          let lead := hField h 95 64
          let r := (at_ + (lead - l.delayPs.toNat) / 1000, n)
          (n ∈ s.tw.seen ∨ lead ≤ l.delayPs.toNat → t.tw.releases = s.tw.releases ∧ t.tw.seen = s.tw.seen) ∧
          (n ∉ s.tw.seen → l.delayPs.toNat < lead → t.tw.seen = (n :: s.tw.seen).take 1024 ∧
            (s.tw.st = 2 → t.tw.releases = insertRelease r s.tw.releases) ∧
            (s.tw.st = 1 → t.tw.releases.getLast? = some r) ∧
            (1 < hField h 61 56 → ∀ j, j < 8 → j ≠ k → (linkOf s j).status = 2 →
              ∃ m ∈ t.outbox, ∃ g, m = .flit (BitVec.ofNat 3 j) g (fullPayload []) ∧ hField g 3 0 = 4 ∧
                hField g 95 64 = lead - l.delayPs.toNat ∧ hField g 61 56 = hField h 61 56 - 1 ∧ hField g 215 152 = n.toNat)))) ∧
    (∃ t, exec .tickFlitSend s = .next t ∧ t.tiles = s.tiles ∧ t.ms = s.ms ∧ (s.tw.st ≠ 3 → t = s) ∧
      (s.tw.st = 3 → ∃ n : Word, (s.tw.sent = none → n = s.tw.sfn + 1) ∧
        (∀ m, s.tw.sent = some m → (s.tw.sfn.toNat < m.toNat ∨ s.tw.sfn = BitVec.allOnes 64 → n = m + 1) ∧
          (m.toNat ≤ s.tw.sfn.toNat → s.tw.sfn ≠ BitVec.allOnes 64 → n = s.tw.sfn + 1)) ∧
        (s.tw.yielding = true → n.toNat % 2 ^ s.tw.e.toNat = 0 → t = s) ∧
        (s.tw.yielding = false ∨ n.toNat % 2 ^ s.tw.e.toNat ≠ 0 →
        t.tw.seen = (n :: s.tw.seen).take 1024 ∧ t.tw.sent = some n ∧ t.tw.sfn = s.tw.sfn ∧
        ∀ k, k < 8 → (linkOf s k).status = 2 → ∃ m ∈ t.outbox, ∃ h, m = .flit (BitVec.ofNat 3 k) h (fullPayload []) ∧
          hField h 3 0 = 4 ∧ hField h 95 64 = 1000 * s.tw.d.toNat % 2 ^ 32 ∧ hField h 215 152 = n.toNat))) ∧
    (∃ t, exec .systemTickRelease s = .next t ∧
      (s.fr.source ≠ 2 ∨ s.boot.ready = false ∨ (s.tw.st ≠ 3 ∧ nextRelease s = none) → t = s) ∧
      (∀ at_ n rest, s.fr.source = 2 → s.boot.ready = true → s.tw.st = 2 → s.tw.releases = (at_, n) :: rest → TickMade s t at_ ∧
        t.tw.releases = rest ∧ t.tw.sfn = n) ∧
      (∀ at_ n, s.fr.source = 2 → s.boot.ready = true → s.tw.st = 1 →
        s.tw.releases.find? (fun r => s.tw.admitAt == some r.2) = some (at_, n) → TickMade s t at_ ∧ t.tw.sfn = n) ∧
      (s.fr.source = 2 → s.boot.ready = true → s.tw.st = 3 → TickMade s t (s.fr.lastTick + periodOf s))) ∧
    (∃ t, exec .electionTimeout s = .next t ∧ t.tiles = s.tiles ∧ (s.tw.st ≠ 1 ∨ s.tw.candidate = false → t = s) ∧
      (s.tw.st = 1 → s.tw.candidate = true → t.tw.st = 3 ∧ t.tw.master = s.tw.id ∧ t.tw.nextSet = idBit s.tw.id.toNat ∧
        t.tw.sfn + 1 = 0)) ∧
    ∃ t, exec .leaveSystem s = .next t ∧ t.tiles = s.tiles ∧ (s.tw.st ≠ 2 ∨ s.fr.holdovers < 3 → t = s) ∧
      (s.tw.st = 2 → 3 ≤ s.fr.holdovers → t.tw.st = 1 ∧ t.tw.members = 0 ∧ t.tw.releases = [] ∧ t.tw.seen = [])

/-- R313 to R315, R360: membership. A beacon tells a seeking package its admission or its master, and a member the coming set; a
stronger master makes a master yield; a master admits an unused identifier whose period is no greater, else refuses it; a status
flit, a leave flit, three silent ticks; a silent system starts a candidacy, which a stronger candidate ends. A request of a client to
another package is kept until it is answered; without an answer it is aborted towards its client.
Assumptions 77, 79, 82 and 87 of the log: the model's choices here. -/
def Obligations.Membership : Prop :=
  ∀ (s : State),
    (∀ (link : BitVec 3) (ttl : BitVec 6) (b : BeaconMsg), ttl.toNat ≤ 1 →
      ∃ t, exec (.beacon link ttl b) s = .next t ∧ t.tiles = s.tiles ∧ t.ms = s.ms ∧
      (s.tw.st = 1 → t.tw.candidate = false ∧ t.tw.master = b.master.setWidth 8 ∧
        (b.nextSet.getLsbD s.tw.id.toNat = true → t.tw.admitAt = some (epochAfter b.e.toNat b.sfn.toNat) ∧
          t.fr.sysPeriod = b.period.toNat ∧ t.tw.announced = b.nextSet) ∧
        (b.nextSet.getLsbD s.tw.id.toNat = false → t.tw.admitAt = none)) ∧
      (s.tw.st = 2 → t.tw.announced = (if s.tw.master = b.master.setWidth 8 then b.nextSet else s.tw.announced) ∧
        t.tw.members = s.tw.members) ∧
      (s.tw.st = 3 → t.tw.yielding = (s.tw.yielding || stronger b.prio.toNat b.master.toNat s.tw.prio.toNat s.tw.id.toNat) ∧
        t.tw.nextSet = s.tw.nextSet)) ∧
    (∀ (id : BitVec 6) (period : BitVec 32),
      let d := id.toNat
      let unused := d ≠ s.tw.id.toNat ∧ s.tw.nextSet.getLsbD d = false ∧ s.tw.members.getLsbD d = false ∧ period.toNat ≤ s.fr.sysPeriod
      ∃ t, exec (.joinFlit id period) s = .next t ∧ t.tiles = s.tiles ∧ (s.tw.st ≠ 3 → t = s) ∧
        (s.tw.st = 3 → unused → t.tw.nextSet = s.tw.nextSet ||| idBit d ∧ t.tw.refused.getLsbD d = false ∧
          t.tw.admissions = s.tw.admissions + 1 ∧ t.tw.members = s.tw.members) ∧
        (s.tw.st = 3 → ¬unused → t.tw.nextSet = s.tw.nextSet ∧ t.tw.refused.getLsbD d = true)) ∧
    (∀ id : BitVec 6, ∃ t u v,
      let d := id.toNat
      let leaves := fun (t : State) => t.tw.nextSet = s.tw.nextSet &&& ~~~(idBit d) ∧ t.tw.departures = s.tw.departures + 1
      let stays := s.tw.st ≠ 3 ∨ d = s.tw.id.toNat ∨ s.tw.nextSet.getLsbD d = false
      exec (.statusFlit id) s = .next t ∧ exec (.leaveFlit id) s = .next u ∧ exec (.departureDeclared id) s = .next v ∧
      (s.tw.st = 3 → smGet 0 t.tw.missed d = 0 ∧ t.tw.nextSet = s.tw.nextSet) ∧ (s.tw.st ≠ 3 → t = s) ∧
      (stays → u = s ∧ v = s) ∧ (¬stays → leaves u) ∧ (¬stays → 3 ≤ smGet 0 s.tw.missed d → leaves v) ∧
      (smGet 0 s.tw.missed d < 3 → v = s) ∧ u.tiles = s.tiles ∧ v.tiles = s.tiles) ∧
    (∀ (link : BitVec 3) (ttl : BitVec 6) (prio : BitVec 8) (id : BitVec 6), ttl.toNat ≤ 1 →
      exec (.candidate link ttl prio id) s =
        .next (if s.tw.st = 1 ∧ stronger prio.toNat id.toNat s.tw.prio.toNat s.tw.id.toNat = true
          then { s with tw := { s.tw with candidate := false } } else s)) ∧
    (∃ t, exec .beaconSilence s = .next t ∧ t.tiles = s.tiles ∧ t.ms = s.ms ∧ (s.tw.st ≠ 1 → t = s) ∧
      (s.tw.st = 1 → t.tw.candidate = true ∧ t.tw.admitAt = none ∧ t.tw.st = 1)) ∧
    ∀ (path : Path) (idx : BitVec 16) (sub tag : BitVec 8), ∃ t, exec (.managementRequestTimeout path idx sub tag) s = .next t ∧
      t.tiles = s.tiles ∧ (s.boot.ready = false → t = s) ∧
      (s.boot.ready = true → (∀ f, path ≠ .can f) → (∀ c d, path ≠ .away c d) → (path = .mailbox → s.host.mbBusy = true) →
        (path = .zdp → s.dict.canTx.length < 32) → Aborted path idx sub tag 0xA t) ∧
      ∀ c d, s.boot.ready = true → path = .away c d →
        (∀ r, s.dict.away.find? (fun r => r.client == c && r.dst == d && r.idx == idx && r.sub == sub && r.tag == tag) = some r →
          t.dict.away = s.dict.away.erase r ∧ (ClientWaits s c → Aborted (clientPath c) idx sub tag 0xA t)) ∧
        ((∀ r ∈ s.dict.away, (r.client, r.dst, r.idx, r.sub, r.tag) ≠ (c, d, idx, sub, tag)) → t = s) ∧
        ((c = .mailbox → s.host.mbBusy = false) → (c = .zdp → s.dict.canSt ≠ 2) → ∃ u, exec (.dictRead path idx sub tag) s = .next u ∧
          u.dict.away = s.dict.away ++ [⟨c, d, idx, sub, tag, none, false⟩] ∧ u.tiles = s.tiles ∧ u.ms = s.ms)

/-- R325 to R329, R394: BAR2 and BAR4. A read of permitted memory completes with its bytes and changes nothing but a tile-store word with a
single-bit error, which is corrected and counted; a refused one completes as
aborted or unsupported, sets its bit of H.ERR and changes nothing else; a permitted write stands in memory and every other byte
reads as before, a refused one is discarded with its bit. Page 160 and above of BAR4 is reserved.
Assumption 83 of the log: the model's choices here. -/
def Obligations.HostWindows : Prop :=
  ∀ (s : State), HostServed s →
    let reads := fun (c : Instr) (pa n : Nat) => heldByCopy s pa = false → heldByCopy s (pa + n - 1) = false →
      ∃ t, exec c s = .next t ∧ HostOnly s t ∧
        (s.host.cxid = 0xFFF → t.outbox = s.outbox ++ [.completion 4 false []] ∧ t.host.err.getLsbD 1 = true) ∧
        (s.host.cxid ≠ 0xFFF → refusal s (hostAcc s false) pa n = none →
          t.outbox = s.outbox ++ [.completion 0 false (readBytes s pa n)] ∧ t.host = s.host ∧
          (s.ms.errs = [] → s.ms.soft = [] → t = emit s (.completion 0 false (readBytes s pa n))) ∧
          ∀ w ∈ s.ms.soft, w < pa + n → pa < w + 8 → (∃ m off, paClass w = .store m off) →
            w ∉ t.ms.soft ∧ s.rel.tsCorrections < t.rel.tsCorrections) ∧
        (s.host.cxid ≠ 0xFFF → ∀ r, refusal s (hostAcc s false) pa n = some r → r ≠ 7 →
          t.outbox = s.outbox ++ [.completion (if r = 2 then 1 else 4) false []] ∧
            t.host.err.getLsbD (if r = 2 then 0 else 1) = true ∧ t.host.advisory = true)
    let writes := fun (c : Instr) (pa : Nat) (data : List Byte) => data ≠ [] → heldByCopy s pa = false →
      heldByCopy s (pa + data.length - 1) = false →
      ∃ t, exec c s = .next t ∧ t.tiles = s.tiles ∧ t.outbox = s.outbox ∧
        (s.host.cxid = 0xFFF → HostOnly s t ∧ t.host.err.getLsbD 4 = true) ∧
        (s.host.cxid ≠ 0xFFF → ∀ r, refusal s (hostAcc s true) pa data.length = some r →
          HostOnly s t ∧ t.host.err.getLsbD (if r = 2 then 3 else 4) = true) ∧
        (s.host.cxid ≠ 0xFFF → refusal s (hostAcc s true) pa data.length = none → s.ms.bad = [] → s.ms.errs = [] →
          PlainMemory pa data.length →
          t.host = s.host ∧ readBytes t pa data.length = data ∧
          ∀ a, a < pa ∨ pa + data.length ≤ a → readByte t a = readByte s a)
    (∀ (off : Word) (len : BitVec 13), len ≠ 0 → reads (.bar2Read off len) (bar2Pa s off) len.toNat) ∧
    (∀ (off : Word) (data : List Byte), PlainMemory (bar2Pa s off) data.length → writes (.bar2Write off data) (bar2Pa s off) data) ∧
    (∀ (off : BitVec 26) (len : BitVec 13), len ≠ 0 → s.host.b4pg.toNat < 160 →
      reads (.bar4Read off len) (bar4Pa s off) len.toNat) ∧
    (∀ (off : BitVec 26) (data : List Byte), PlainMemory (bar4Pa s off) data.length → s.host.b4pg.toNat < 160 →
      writes (.bar4Write off data) (bar4Pa s off) data) ∧
    ∀ (off : BitVec 26) (len : BitVec 13) (data : List Byte), 160 ≤ s.host.b4pg.toNat → s.host.cxid ≠ 0xFFF →
      hostHolds s (.bar4Read off len) = false → hostHolds s (.bar4Write off data) = false →
      ∃ t u, exec (.bar4Read off len) s = .next t ∧ exec (.bar4Write off data) s = .next u ∧ HostOnly s t ∧ HostOnly s u ∧
        t.outbox = s.outbox ++ [.completion 1 false []] ∧ t.host.err.getLsbD 0 = true ∧ u.host.err.getLsbD 3 = true

/-- R318 to R322, R325, R333, R358, R359: the function's registers. Before READY a configuration request is to be retried; a hot reset
leaves tiles, frames and memory as they are; H.CXID takes every context but 0 and 0xFFF; a clear and a cause in one cycle leave
the bit set, as does a cause before the clear in its cycle; whole words are written, others set H.ERR.SIZE; a read gives the word, H.FNUM the frame, a reserved offset 0; MB.GO submits the request area, or sets OVR when busy.
Assumptions 1, 19, 34, 84, 85, 86 and 122 of the log: the model's choices here. -/
def Obligations.HostRegisters : Prop :=
  ∀ (s : State),
    (∀ (reg : PciReg) (write : Bool) (v : Word), ∃ t, exec (.pcieConfigRequest reg write v) s = .next t ∧
      t.tiles = s.tiles ∧ (Untraced s → MemoryKept s t) ∧ (s.host.linkUp = false → t = s) ∧
      (s.host.linkUp = true → s.boot.ready = false → t = emit s (.completion 2 false [])) ∧
      (s.host.linkUp = true → s.boot.ready = true → write = true →
        (reg = .command → t.host.bme = v.getLsbD 2) ∧ (reg = .msixControl → t.host.msixMask = v.getLsbD 14 ∧ t.host.msixEn = v.getLsbD 15) ∧
        (reg = .bar2Size → t.host.bar2Log = (if 28 ≤ wBits v 13 8 + 20 ∧ wBits v 13 8 + 20 ≤ 41 then wBits v 13 8 + 20 else s.host.bar2Log)) ∧
        (reg = .powerState → wBits v 1 0 = 3 → t.host.d3 = true)) ∧
      (s.host.linkUp = true → s.boot.ready = true → write = false → reg = .ids →
        t.outbox = s.outbox ++ [.completion 0 false (wBytes 0x00091F8A)] ∧ t.host = s.host) ∧
      (s.host.linkUp = true → s.boot.ready = true → write = false → reg = .classCode →
        ∃ rev < 256, t.outbox = s.outbox ++ [.completion 0 false (wBytes (wOf (0x12000000 + rev)))]) ∧
      ∀ n : BitVec 2, s.host.linkUp = true → s.boot.ready = true → write = false → reg = .bar n → n ≠ 3 →
        let size := 2 ^ (if n = 0 then 18 else if n = 1 then s.host.bar2Log else 26)
        t.outbox = s.outbox ++ [.completion 0 false
          (wBytes (wOf ((smGet 0 s.host.bars n.toNat).toNat / size * size + (if n = 0 then 4 else 12))))]) ∧
    (∃ t, exec .hotReset s = .next t ∧ t.tiles = s.tiles ∧ t.clusters = s.clusters ∧ MemoryKept s t ∧ t.fr.ft = s.fr.ft ∧
      t.fr.fnum = s.fr.fnum ∧ t.host.cxid = 0xFFF ∧ t.host.irqen = 0 ∧ t.host.bme = false ∧ t.host.msixEn = false ∧
      t.host.bars = [] ∧ t.host.heldReqs = [] ∧ (∀ r ∈ t.host.reqs, r.done ≠ none)) ∧
    (HostServed s →
      (∀ v : Word,
        let c : BitVec 12 := v.setWidth 12
        ∃ t, exec (.hCxidWrite v) s = .next t ∧ t.host.cxid = (if c = 0 ∨ c = 0xFFF then s.host.cxid else c) ∧
          (c = 0 ∨ c = 0xFFF → t.host.err.getLsbD 5 = true) ∧ t.tiles = s.tiles ∧ t.ms = s.ms) ∧
      (∀ v causes : Word, ∃ t, exec (.hIrqstClear v causes) s = .next t ∧ t.tiles = s.tiles ∧
        ∀ k, k < 64 → t.host.irqst.getLsbD k =
          ((s.host.irqst.getLsbD k && (!v.getLsbD k || (hostNow s).nowIrq.getLsbD k)) || (causes.getLsbD k && (decide (16 ≤ k) || (decide (k < 9) && s.host.irqen.getLsbD k))))) ∧
      (∀ (off : BitVec 18) (size : BitVec 4) (v : Word), ∃ t, exec (.hostRegisterWrite off size (some v)) s = .next t ∧
        (off.toNat < 0x58 ∨ (0x1FF0 ≤ off.toNat ∧ off.toNat < 0x2000) → size ≠ 8 ∨ off.toNat % 8 ≠ 0 →
          t.host.err.getLsbD 6 = true ∧ HostOnly s t) ∧
        (∀ row ∈ hostWordRows, off.toNat = row.1 → size = 8 → 
          (let a := if row.1 = 0x028 then 2 ^ s.host.bar2Log else 1
           bar0Word t off.toNat = wOf ((row.2 v).toNat / a * a)) ∧
          t.tiles = s.tiles ∧ t.ms = s.ms) ∧
        (off = 0x038 → size = 8 → t.host.err = s.host.err &&& (~~~(v.setWidth 8) ||| (hostNow s).nowErr) ∧
          (s.host.nowStamp ≠ s.fr.cyc → t.host.err = s.host.err &&& ~~~(v.setWidth 8))) ∧
        (off = 0x1FF8 → size = 8 → t.host.mbDone = (s.host.mbDone && (!v.getLsbD 1 || (hostNow s).nowDone))) ∧
        (0x1000 ≤ off.toNat → off.toNat + size.toNat ≤ 0x1800 → 0 < size.toNat → size.toNat ≤ 8 →
          (s.host.mbBusy = true → t.host.mbOvr = true ∧ t.host.mbReq = s.host.mbReq) ∧
          (s.host.mbBusy = false → ∀ j, j < size.toNat →
            smGet 0 t.host.mbReq (off.toNat - 0x1000 + j) = BitVec.ofNat 8 (v.toNat / 2 ^ (8 * j) % 256)))) ∧
      (∀ off : BitVec 18, off.toNat % 8 = 0 →
        exec (.hostRegisterWrite off 8 none) s = .next (emit s (.completion 0 false (wBytes (bar0Word s off.toNat)))) ∧
        (off = 0x010 → bar0Word s off.toNat = s.fr.fnum) ∧
        (0x58 ≤ off.toNat → off.toNat < 0x1000 → bar0Word s off.toNat = 0)) ∧
      ∃ t, exec .mbGo s = .next t ∧
        (s.host.mbBusy = true → t.host.mbOvr = true ∧ hostKept { t.host with mbOvr := false } = hostKept { s.host with mbOvr := false } ∧
          t.tiles = s.tiles) ∧
        (s.host.mbBusy = false → s.fr.validating = none → ∀ idx sub r,
          leNat (smRead 0 s.host.mbReq 0 8) = 0x10 + 2 ^ 32 * idx + 2 ^ 48 * sub → idx < 2 ^ 16 → sub < 2 ^ 8 →
          objFind idx sub = .ok r → r.typ ≠ 8 → r.srg = false → r.acs ≠ .wo → readState s idx sub = false →
          Responded .mailbox (message 0x11 false false (BitVec.ofNat 16 idx) (BitVec.ofNat 8 sub) 0 (objValue s r sub)) t)) ∧
    ∀ (tag : BitVec 10),
      let gone := fun (t : State) (r : HostReq) => ∀ x ∈ t.host.reqs, x.done = none →
        ∃ y ∈ s.host.reqs, y ≠ r ∧ y.done = none ∧ x = { y with sent := x.sent }
      (∀ (status : BitVec 3) (poisoned : Bool) (data : List Byte), ∃ t, exec (.hostRequestCompletion tag status poisoned data) s = .next t ∧
        t.tiles = s.tiles ∧ (openReq s tag = none → t = s) ∧
        (∀ r, openReq s tag = some r → gone t r ∧ (status ≠ 0 ∨ poisoned = true → t.host.err.getLsbD 7 = true) ∧
          (status = 0 → poisoned = false → t.host.err = s.host.err ∧
            (reqWanted s r = true → { r with done := some (true, data.take r.len) } ∈ t.host.reqs)))) ∧
      ∃ t, exec (.hostCompletionTimeout tag) s = .next t ∧ t.tiles = s.tiles ∧ (openReq s tag = none → t = s) ∧
        (∀ r, openReq s tag = some r → gone t r ∧ t.host.err.getLsbD 7 = true)

/-- R360, R370 to R373, R379 to R388, R404: power and temperature. A microsecond updates estimate, energy and ceilings, each limiter
halving past its hard limit; a millisecond updates measurement and gain; the slot limit steps; a droop clamps its die; a sample
is kept; ceilings fall and rise with the regions' temperatures; THROTTLE_N asks for its rate; a trip holds the package in reset.
Assumptions 94, 95, 96, 97, 98 and 109 of the log: the model's choices here. -/
def Obligations.PowerAndHeat : Prop :=
  ∀ (s : State),
    (∀ a : Activity, ∃ t, exec (.pmuMicrosecond a) s = .next t ∧ (s.boot.ready = false → t = s) ∧
      let pm := matrixPart a (fun r => decide (r < 160)) / 65536
      (s.boot.ready = true → t.pw.p = s.pw.gain.toNat * estimate s a ∧ t.pw.energy = s.pw.energy + wOf ((t.pw.p + 32768) / 65536) ∧
        t.tiles = s.tiles ∧ t.pw.qext = (if s.pw.throttleLow then s.pw.qThrottle.toNat else 64) ∧ t.pw.activity = a ∧
        t.pw.seen = holdsNow s ∧
        t.pw.overRun = (if 65536 * s.dict.cap.toNat < t.pw.p ∧ s.pw.qc = 1 then s.pw.overRun + 1 else 0) ∧
        t.pw.underRun = (if t.pw.p + 65536 * 30 ≤ 65536 * s.dict.cap.toNat then s.pw.underRun + 1 else 0) ∧
        (65536 * 33000 < 10 * t.pw.p → t.pw.qc = max 1 (s.pw.qc / 2)) ∧
        (10 * t.pw.p ≤ 65536 * 33000 → 65536 * s.dict.cap.toNat < t.pw.p → pm = 0 → t.pw.qc = s.pw.qc) ∧
        (10 * t.pw.p ≤ 65536 * 33000 → t.pw.p + 65536 * 30 ≤ 65536 * s.dict.cap.toNat → s.pw.m = 8 →
          (∀ d, d < 8 → (dieOf s d).clamped = false) → t.pw.qc = min 64 (s.pw.qc + 1)) ∧
        (∀ d, d < 8 → 65536 * (11 * s.pw.iLimit.toNat) < 10 * dieCurrent s d (dieShare s a d) →
          (dieOf t d).qcur = max 1 ((dieOf s d).qcur / 2)))) ∧
    (∀ readings : List (Option Nat), ∃ t, exec (.calibrationMillisecond readings) s = .next t ∧ t.tiles = s.tiles ∧ t.ms = s.ms ∧
      t.pw.msSum = 0 ∧ t.pw.msCount = 0 ∧
      (∀ vs : List Nat, readings = vs.map some → vs.length = s.dict.regulators.length → vs ≠ [] → t.pw.meas = vs.foldl (· + ·) 0 ∧
        (s.pw.msSum ≠ 0 → t.pw.gain.toNat = newGain s.pw.gain.toNat t.pw.meas s.pw.msSum s.pw.msCount) ∧ 52429 ≤ t.pw.gain.toNat ∧
        t.pw.gain.toNat ≤ 81920) ∧
      (s.dict.regulators = [] → t.pw.meas = s.pw.meas ∧ t.pw.gain = s.pw.gain)) ∧
    (∃ t, exec .memorySlotLimitStep s = .next t ∧ t.tiles = s.tiles ∧
      t.pw.m = (if 200 ≤ s.pw.overRun ∧ 1 < s.pw.m then s.pw.m - 1 else if 100 ≤ s.pw.underRun ∧ s.pw.m < 8 then s.pw.m + 1 else s.pw.m)) ∧
    (∀ die : BitVec 3,
      let x := dieOf s die.toNat
      ∃ t u, exec (.droopTrip die) s = .next t ∧ exec (.droopClear die) s = .next u ∧
        (dieOf t die.toNat).clamped = true ∧ (dieOf t die.toNat).trips = x.trips + 1 ∧ (dieOf u die.toNat).clamped = false ∧
        (dieOf u die.toNat).trips = x.trips ∧ (∀ d, d ≠ die.toNat → dieOf t d = dieOf s d ∧ dieOf u d = dieOf s d) ∧
        (∀ r, r / 20 = die.toNat → 16 ∈ ceilings t r) ∧ t.pw.seen = allHolds s ∧
        { t with dies := [], pw := { t.pw with seen := [] } } = { s with dies := [], pw := { s.pw with seen := [] } } ∧
        { u with dies := [], pw := { u.pw with seen := [] } } = { s with dies := [], pw := { s.pw with seen := [] } }) ∧
    (∀ (sensor : BitVec 8) (v : BitVec 16),
      let n := sensor.toNat
      (178 ≤ n → exec (.thermalSample sensor v) s = .fault .noSuchUnit ∧ exec (.thermalTrip sensor v) s = .fault .noSuchUnit) ∧
      (n < 178 → ∃ t, exec (.thermalSample sensor v) s = .next t ∧ smGet 100 t.pw.sensors n = v ∧
        (∀ j, j ≠ n → smGet 100 t.pw.sensors j = smGet 100 s.pw.sensors j) ∧
        (t.pw.hottest.toInt = max s.pw.hottest.toInt v.toInt) ∧
        (160 ≤ n → n < 176 → smGet false t.pw.stackLimit (n - 160) =
          (if 380 ≤ v.toInt then true else if v.toInt ≤ 368 then false else smGet false s.pw.stackLimit (n - 160))) ∧
        t.tiles = s.tiles ∧ (Untraced s → { t with pw := s.pw } = s)) ∧
      (n < 178 → v.toInt < tripLevel n ∨ s.pw.thermtrip = true → exec (.thermalTrip sensor v) s = .next s) ∧
      (n < 178 → tripLevel n ≤ v.toInt → s.pw.thermtrip = false → ∃ t, exec (.thermalTrip sensor v) s = .next t ∧
        t.pw.thermtrip = true ∧ t.boot.inReset = true ∧ t.boot.ready = false ∧ (5 : BitVec 3) ∈ t.boot.asserted ∧ t.tiles = [] ∧
        ∃ e ∈ t.rel.persist, e.code = 0x51 ∧ e.sev = 5)) ∧
    (∃ t, exec .thermalCeilingUpdate s = .next t ∧ t.tiles = s.tiles ∧ t.ms = s.ms ∧ ∀ r, r < 160 →
      let c := (smGet 100 s.pw.sensors r).toInt
      let q := (regionOf s r).qth
      let thr : Int := 4 * s.pw.tthr.toNat
      (420 ≤ c → (regionOf t r).qth = q ∧ r ∈ t.pw.thermQ1) ∧ (c < 420 → thr ≤ c → (regionOf t r).qth = max 1 (q - 8)) ∧
      (c < 420 → c < thr → thr - 12 < c → (regionOf t r).qth = q) ∧
      (c < 420 → c ≤ thr - 12 → (regionOf t r).qth = min 64 (q + 4))) ∧
    exec .throttleNFall s = .next { s with pw := { s.pw with throttleLow := true } } ∧
    exec .throttleNRise s = .next { s with pw := { s.pw with throttleLow := false } }

/-- R411 to R415, R421, R423, R428, R447, R450: reset, power-good and the boundary-scan port. An asserted source holds the package in reset with
what is in flash and fuses, an image slot that was being written without an image; the release of the last runs the sequence, to READY, or to recovery without a bootable image; a
granule that is cleared reads 0; a power-good that falls stops its dies and wedges the function.
Assumptions 20, 88, 89, 90, 93, 109 and 124 of the log: the model's choices here. -/
def Obligations.ResetsAndPins : Prop :=
  ∀ (s : State),
    (∀ src : BitVec 3, ∃ t, exec (.resetAssert src) s = .next t ∧
      (src = 0 ∨ 5 < src.toNat ∨ (src = 4 ∧ s.dict.firing = false) → t = s) ∧
      (1 ≤ src.toNat → src.toNat ≤ 5 → (src = 4 → s.dict.firing = true) → src ∈ t.boot.asserted ∧ t.boot.inReset = true ∧
        t.boot.ready = false ∧ t.tiles = [] ∧
        (Untraced s → t.ms.mem = s.ms.mem.filter fun e => decide (e.1 < 0x12000000000)) ∧ t.ms.owner = [] ∧ t.fr.fnum = 0 ∧ t.fr.ft = none ∧
        (s.boot.upStoring = none → t.boot.slot0 = s.boot.slot0 ∧ t.boot.slot1 = s.boot.slot1) ∧
        imageSlot t.boot s.boot.active = imageSlot s.boot s.boot.active ∧
        (s.boot.upStoring ≠ none → imageSlot t.boot (!s.boot.active) = none) ∧ t.boot.svn = s.boot.svn ∧ t.rel.persist = s.boot.flash.persist ∧ t.rel.sparing = s.rel.sparing ∧
        t.dict.nodeStored = s.boot.flash.nodeStored ∧ t.ms.trainRecs = s.boot.flash.trainRecs ∧ t.boot.flash = s.boot.flash ∧
        t.boot.flashWrites = [] ∧ t.pending = s.pending)) ∧
    (∀ (src : BitVec 3) (br : BringUp), ∃ t, exec (.resetRelease src br) s = .next t ∧ (src ∉ s.boot.asserted → t = s) ∧
      (src ≠ 5 → s.boot.asserted = [src] → br.recov = false → br.cut = false →
        let u := programmedFlash br { s with
          pw := { s.pw with thermtrip := s.pw.thermtrip }, host := { s.host with linkUp := true }
          boot := { s.boot with asserted := [], inReset := false } }
        ((bootRom u.boot).1 = none → t.boot.recovery = true ∧ t.boot.spiOpen = true ∧ t.boot.ready = false) ∧
        (∀ k, (bootRom u.boot).1 = some k → t.boot.ready = true ∧ t.boot.inReset = false ∧ t.boot.upSlot = k ∧
          some t.boot.running = imageSlot u.boot k ∧ t.dict.cause = u.boot.worst.setWidth 8 ∧ t.rel.svc = serviceLevel t ∧
          t.boot.identOk = !br.identMismatch)) ∧
      (src ≠ 5 → s.boot.asserted = [src] → br.recov = true → t.boot.recovery = true ∧ t.boot.spiOpen = true) ∧
      (∀ other, s.boot.asserted = [src, other] → src ≠ 5 → src ≠ other → t.boot.asserted = [other] ∧ t.boot.ready = s.boot.ready)) ∧
    (∀ g : BitVec 20, (589824 ≤ g.toNat → exec (.granuleCleared g) s = .fault .noSuchUnit) ∧
      (g.toNat < 589824 → ∃ t, exec (.granuleCleared g) s = .next t ∧ t.tiles = s.tiles ∧
        (s.boot.ready = false ∨ granuleFenced s (g.toNat * 0x200000) = true ∨ granuleCleared s g.toNat = true → t = s) ∧
        (s.boot.ready = true → granuleFenced s (g.toNat * 0x200000) = false → granuleCleared s g.toNat = false →
          smWf 0 s.ms.mem = true → smWf [] s.ms.errs = true → granuleCleared t g.toNat = true ∧
          (∀ a, a / 0x200000 = g.toNat → memKey s a / 0x200000 ∈ localGranules s g.toNat) ∧
          ∀ a, readByte t a = (if memKey s a / 0x200000 ∈ localGranules s g.toNat ∧ smGet false s.ms.cleared (memKey s a / 0x200000) = false
            then 0 else readByte s a)))) ∧
    (∀ g : BitVec 4, (8 < g.toNat → exec (.pgoodTimeout g) s = .fault .noSuchUnit ∧ exec (.pgoodFall g) s = .fault .noSuchUnit) ∧
      (g.toNat ≤ 8 → ∃ t u, exec (.pgoodTimeout g) s = .next t ∧ exec (.pgoodFall g) s = .next u ∧
        (s.boot.ready = true ∨ s.boot.recovery = true → t = s) ∧ (s.boot.ready = false → s.boot.recovery = false → g.toNat ∈ t.boot.pgFail) ∧
        (s.boot.ready = false → u = s) ∧
        (s.boot.ready = true → g.toNat < 8 → (dieOf s g.toNat).pwren = true →
          (dieOf u g.toNat).clocks = false ∧ (dieOf u g.toNat).pwren = false ∧ u.fr.wedged = true) ∧
        (s.boot.ready = true → g.toNat = 8 → s.boot.pwrenMem = true →
          u.boot.pwrenMem = false ∧ u.fr.wedged = true ∧ ∀ d, d < 8 → (dieOf u d).clocks = false))) ∧
    (let held := s.boot.asserted.contains 3
     let loads := fun (c : Instr) (ir : BitVec 3) (n : Nat) => ∃ t, exec c s = .next t ∧ t.boot.tapIr = ir ∧
       t.boot.tapTdo.length = (if ir.toNat ≤ 2 ∨ held then n else 1) ∧ t.outbox = s.outbox ++ [.tdo t.boot.tapTdo] ∧
       t.tiles = s.tiles ∧ t.ms = s.ms ∧ t.dict = s.dict
     loads .tapBypass 0 1 ∧ loads .tapIdcode 1 32 ∧ loads .tapExtest 3 41 ∧ loads .tapClamp 4 1 ∧ loads .tapHighz 5 1 ∧
       (∀ x, loads (.samplePreload x) 2 x.length) ∧
       exec .tapReset s = .next { s with boot := { s.boot with tapIr := 1, tapTdo := [] } })

/-- A step takes the command at the front of the queue and is that command's effect with the queue's rest; with no command waiting a
cycle of the tile clock passes (assumption 2): the cycle counts (`SYS.cyc`, `SYS.fcyc`) advance, memory and the queue stay. -/
def Obligations.StepRunsFront : Prop :=
  (∀ (c : Instr) (rest : List Instr) (s : State), step { s with pending := c :: rest } = exec c { s with pending := rest }) ∧
    ∀ s : State, s.pending = [] → ∃ t, step s = .next t ∧ t.fr.cyc = s.fr.cyc + 1 ∧ t.fr.fcyc = s.fr.fcyc + 1 ∧ t.ms.mem = s.ms.mem ∧ (s.ms.soft = [] → t.ms = s.ms) ∧
      t.clusters = s.clusters ∧ t.pending = [] ∧ (smWf Tile.zero s.tiles = true → ∀ i, bankIn t i = bankIn s i ∧ (tileOf t i).run = (tileOf s i).run)

/-- R413, R414, R322, R388: the block right after a full reset: ready, no frame table, no context for host requests, every ceiling at
full rate, service level 3, nothing waiting; the invariants below hold.
Assumptions 5 and 6 of the log: the model's choices here. -/
def Obligations.ResetState : Prop :=
  let s := State.reset
  s.boot.ready = true ∧ s.fr.ft = none ∧ s.host.cxid = 0xFFF ∧ s.pending = [] ∧ s.fr.ticked = false ∧ s.pw.qc = 64 ∧ s.rel.svc = 3 ∧
    s.dict.cap = 3000 ∧ s.tw.st = 0 ∧ s.fr.source = 0 ∧ s.fr.wedged = false ∧ (∀ i, (tileOf s i).run = .idle) ∧
    (∀ g, ownerOf s g = 0xFFF) ∧ Memory.wf s.ms.mem = true

/-- Every step keeps memory in its canonical form.
Assumption 46 of the log: the model's choices here. -/
def Obligations.MemoryStaysCanonical : Prop :=
  ∀ s t : State, Memory.wf s.ms.mem = true → step s = .next t → Memory.wf t.ms.mem = true

/-- R325: a step takes exactly the front of the queue, whatever the command, and no step gives H.CXID the value 0. -/
def Obligations.QueueAndHostContext : Prop :=
  ∀ s t : State, step s = .next t → t.pending = s.pending.drop 1 ∧ (s.host.cxid ≠ 0 → t.host.cxid ≠ 0)

/-- R60, R422, R429: only a full reset clears the wedged state; fuses are never lowered. -/
def Obligations.WedgeAndFusesStay : Prop :=
  ∀ (c : Instr) (s t : State), exec c s = .next t →
    (startsReset c = false → s.fr.wedged = true → t.fr.wedged = true) ∧ s.boot.svn.toNat ≤ t.boot.svn.toNat ∧
      s.boot.revoked &&& t.boot.revoked = s.boot.revoked
end

