-- ==== Sys2Proof/Laws/Maps.lean ====
section
/-! SUPPORT. What the operations of sparse maps do: a read after a write, the reads a write leaves alone, and that each
operation keeps the canonical form. -/

namespace Sys2Proof.Machine

open Sys2Proof

section maps

variable {α : Type} [DecidableEq α] (d : α)

omit [DecidableEq α] in
@[simp] theorem smGet_nil (k : Nat) : smGet d ([] : SMap α) k = d := rfl

omit [DecidableEq α] in
/-- A read below every listed key gives the default. -/
theorem smGet_of_forall_lt (m : SMap α) (k : Nat) (h : ∀ e ∈ m, k < e.1) : smGet d m k = d := by
  cases m with
  | nil => rfl
  | cons e m =>
    have := h e (by simp)
    obtain ⟨i, v⟩ := e
    simp only [smGet]
    rw [if_neg (by simp at this; omega), if_pos (by simpa using this)]

omit [DecidableEq α] in
/-- Entries up to a key do not matter to a read above it. -/
theorem smGet_filter_above (m : SMap α) (k j : Nat) (h : k < j) :
    smGet d (m.filter fun e => decide (k < e.1)) j = smGet d m j := by
  induction m with
  | nil => rfl
  | cons e m ih =>
    obtain ⟨i, v⟩ := e
    by_cases hi : k < i
    · rw [List.filter_cons_of_pos (by simpa using hi)]
      simp only [smGet, ih]
    · rw [List.filter_cons_of_neg (by simpa using hi), ih]
      simp only [smGet]
      rw [if_neg (by omega), if_neg (by omega)]

@[simp] theorem smGet_smSet_self (m : SMap α) (k : Nat) (v : α) : smGet d (smSet d m k v) k = v := by
  induction m with
  | nil => by_cases hv : v = d <;> simp [smSet, smGet, hv]
  | cons e m ih =>
    obtain ⟨i, w⟩ := e
    simp only [smSet]
    by_cases h1 : k < i
    · by_cases hv : v = d
      · rw [if_pos h1, if_pos hv]
        simp only [smGet]
        rw [if_neg (by omega), if_pos h1, hv]
      · rw [if_pos h1, if_neg hv]
        simp [smGet]
    · rw [if_neg h1]
      by_cases h2 : k = i
      · rw [if_pos h2]
        by_cases hv : v = d
        · rw [if_pos hv, smGet_of_forall_lt, hv]
          intro e he
          simpa using (List.mem_filter.mp he).2
        · rw [if_neg hv]
          simp [smGet]
      · rw [if_neg h2]
        simp only [smGet]
        rw [if_neg (by omega), if_neg (by omega), ih]

theorem smGet_smSet_ne (m : SMap α) (k j : Nat) (v : α) (h : j ≠ k) : smGet d (smSet d m k v) j = smGet d m j := by
  induction m with
  | nil =>
    by_cases hv : v = d
    · simp [smSet, hv]
    · simp only [smSet, if_neg hv, smGet, if_neg (Ne.symm h)]
      split <;> rfl
  | cons e m ih =>
    obtain ⟨i, w⟩ := e
    simp only [smSet]
    by_cases h1 : k < i
    · by_cases hv : v = d
      · rw [if_pos h1, if_pos hv]
      · rw [if_pos h1, if_neg hv]
        simp only [smGet, if_neg (Ne.symm h)]
        by_cases hj : j < k
        · rw [if_pos hj, if_neg (by omega), if_pos (by omega)]
        · rw [if_neg hj]
    · rw [if_neg h1]
      by_cases h2 : k = i
      · rw [if_pos h2]
        subst h2
        by_cases hv : v = d
        · rw [if_pos hv]
          simp only [smGet, if_neg (Ne.symm h)]
          by_cases hj : j < k
          · rw [if_pos hj, smGet_of_forall_lt]
            intro e he
            have := (List.mem_filter.mp he).2
            simp only [decide_eq_true_eq] at this
            omega
          · rw [if_neg hj, smGet_filter_above d m k j (by omega)]
        · rw [if_neg hv]
          simp only [smGet, if_neg (Ne.symm h)]
      · rw [if_neg h2]
        simp only [smGet, ih]

/-- A read after a write, in one equation. -/
theorem smGet_smSet (m : SMap α) (k j : Nat) (v : α) :
    smGet d (smSet d m k v) j = if j = k then v else smGet d m j := by
  by_cases h : j = k
  · rw [if_pos h, h, smGet_smSet_self]
  · rw [if_neg h, smGet_smSet_ne d m k j v h]

/-- A run of writes leaves every key outside it. -/
theorem smGet_smWrite_outside (m : SMap α) (k : Nat) (vs : List α) (j : Nat) (h : j < k ∨ k + vs.length ≤ j) :
    smGet d (smWrite d m k vs) j = smGet d m j := by
  induction vs generalizing m k with
  | nil => rfl
  | cons v vs ih =>
    simp only [List.length_cons] at h
    rw [smWrite, ih _ _ (by omega), smGet_smSet_ne _ _ _ _ _ (by omega)]

/-- A run of writes is read back. -/
theorem smGet_smWrite_inside (m : SMap α) (k : Nat) (vs : List α) (n : Nat) (h : n < vs.length) :
    smGet d (smWrite d m k vs) (k + n) = vs[n] := by
  induction vs generalizing m k n with
  | nil => simp at h
  | cons v vs ih =>
    cases n with
    | zero =>
      rw [smWrite, smGet_smWrite_outside _ _ _ _ _ (by omega), Nat.add_zero, smGet_smSet_self]
      rfl
    | succ n =>
      rw [smWrite, show k + (n + 1) = (k + 1) + n by omega, ih _ _ _ (by simpa using h)]
      rfl

/-! ## The canonical form -/

theorem smWfFrom_mono {lo lo' : Nat} {m : SMap α} (h : smWfFrom d lo m = true) (hl : lo' ≤ lo) : smWfFrom d lo' m = true := by
  cases m with
  | nil => rfl
  | cons e m =>
    obtain ⟨i, v⟩ := e
    simp only [smWfFrom, Bool.and_eq_true, decide_eq_true_eq] at h ⊢
    exact ⟨⟨by omega, h.1.2⟩, h.2⟩

theorem smWfFrom_filter {lo : Nat} {m : SMap α} (p : Nat × α → Bool) (h : smWfFrom d lo m = true) :
    smWfFrom d lo (m.filter p) = true := by
  induction m generalizing lo with
  | nil => rfl
  | cons e m ih =>
    obtain ⟨i, v⟩ := e
    simp only [smWfFrom, Bool.and_eq_true, decide_eq_true_eq] at h
    by_cases hp : p (i, v) = true
    · rw [List.filter_cons_of_pos hp]
      simp only [smWfFrom, Bool.and_eq_true, decide_eq_true_eq]
      exact ⟨h.1, ih h.2⟩
    · rw [List.filter_cons_of_neg hp]
      exact ih (smWfFrom_mono d h.2 (by omega))

theorem smWfFrom_filter_above {lo k : Nat} {m : SMap α} (h : smWfFrom d lo m = true) :
    smWfFrom d (k + 1) (m.filter fun e => decide (k < e.1)) = true := by
  induction m generalizing lo with
  | nil => rfl
  | cons e m ih =>
    obtain ⟨i, v⟩ := e
    simp only [smWfFrom, Bool.and_eq_true, decide_eq_true_eq] at h
    by_cases hk : k < i
    · rw [List.filter_cons_of_pos (by simpa using hk)]
      simp only [smWfFrom, Bool.and_eq_true, decide_eq_true_eq]
      exact ⟨⟨by omega, h.1.2⟩, smWfFrom_filter d _ h.2⟩
    · rw [List.filter_cons_of_neg (by simpa using hk)]
      exact ih h.2

theorem smWfFrom_smSet {lo : Nat} {m : SMap α} (k : Nat) (v : α) (hk : lo ≤ k) (h : smWfFrom d lo m = true) :
    smWfFrom d lo (smSet d m k v) = true := by
  induction m generalizing lo with
  | nil => by_cases hv : v = d <;> simp [smSet, smWfFrom, hv, hk]
  | cons e m ih =>
    obtain ⟨i, w⟩ := e
    have h0 := h
    simp only [smWfFrom, Bool.and_eq_true, decide_eq_true_eq] at h
    simp only [smSet]
    by_cases h1 : k < i
    · by_cases hv : v = d
      · rw [if_pos h1, if_pos hv]
        exact h0
      · rw [if_pos h1, if_neg hv]
        simp only [smWfFrom, Bool.and_eq_true, decide_eq_true_eq]
        exact ⟨⟨hk, hv⟩, ⟨by omega, h.1.2⟩, h.2⟩
    · rw [if_neg h1]
      by_cases h2 : k = i
      · rw [if_pos h2]
        by_cases hv : v = d
        · rw [if_pos hv]
          exact smWfFrom_mono d (smWfFrom_filter_above d h.2) (by omega)
        · rw [if_neg hv]
          simp only [smWfFrom, Bool.and_eq_true, decide_eq_true_eq]
          exact ⟨⟨hk, hv⟩, h2 ▸ h.2⟩
      · rw [if_neg h2]
        simp only [smWfFrom, Bool.and_eq_true, decide_eq_true_eq]
        exact ⟨h.1, ih (by omega) h.2⟩

/-- A write keeps the canonical form. -/
theorem smWf_smSet {m : SMap α} (k : Nat) (v : α) (h : smWf d m = true) : smWf d (smSet d m k v) = true :=
  smWfFrom_smSet d k v (Nat.zero_le k) h

/-- A run of writes keeps the canonical form. -/
theorem smWf_smWrite {m : SMap α} (k : Nat) (vs : List α) (h : smWf d m = true) : smWf d (smWrite d m k vs) = true := by
  induction vs generalizing m k with
  | nil => exact h
  | cons v vs ih => exact ih (k + 1) (smWf_smSet d k v h)

/-- Dropping entries keeps the canonical form. -/
theorem smWf_filter {m : SMap α} (p : Nat × α → Bool) (h : smWf d m = true) : smWf d (m.filter p) = true :=
  smWfFrom_filter d p h

theorem smWf_smDrop {m : SMap α} (k n : Nat) (h : smWf d m = true) : smWf d (smDrop m k n) = true :=
  smWf_filter d _ h

/-- Filling a range keeps the canonical form. -/
theorem smWf_smFill {m : SMap α} (k n : Nat) (v : α) (h : smWf d m = true) : smWf d (smFill d m k n v) = true := by
  unfold smFill
  induction List.range n generalizing m with
  | nil => exact h
  | cons i l ih => exact ih (smWf_smSet d (k + i) v h)

/-- Changing every value keeps the canonical form. -/
theorem smWf_smMap {m : SMap α} (f : α → α) (h : smWf d m = true) : smWf d (smMap d f m) = true := by
  unfold smWf smMap at *
  generalize 0 = lo at *
  induction m generalizing lo with
  | nil => rfl
  | cons e m ih =>
    obtain ⟨i, v⟩ := e
    simp only [smWfFrom, Bool.and_eq_true, decide_eq_true_eq] at h
    simp only [List.map_cons]
    by_cases hf : f v = d
    · rw [List.filter_cons_of_neg (by simpa using hf)]
      exact smWfFrom_mono d (ih _ h.2) (by omega)
    · rw [List.filter_cons_of_pos (by simpa using hf)]
      simp only [smWfFrom, Bool.and_eq_true, decide_eq_true_eq]
      exact ⟨⟨h.1.1, hf⟩, ih _ h.2⟩

end maps

end Sys2Proof.Machine
end

