-- ==== Sys2Proof/Laws/State.lean ====
section
/-! SUPPORT. One lemma per field per update of the state, and what a unit reads as after a unit was written. -/

namespace Sys2Proof.Machine

open Sys2Proof

@[simp] theorem setTile_pending (s : State) (i : Nat) (t : Tile) : (setTile s i t).pending = s.pending := rfl
@[simp] theorem setTile_freeCtr (s : State) (i : Nat) (t : Tile) : (setTile s i t).freeCtr = s.freeCtr := rfl
@[simp] theorem setTile_clusters (s : State) (i : Nat) (t : Tile) : (setTile s i t).clusters = s.clusters := rfl
@[simp] theorem setTile_regions (s : State) (i : Nat) (t : Tile) : (setTile s i t).regions = s.regions := rfl
@[simp] theorem setTile_dies (s : State) (i : Nat) (t : Tile) : (setTile s i t).dies = s.dies := rfl
@[simp] theorem setTile_fr (s : State) (i : Nat) (t : Tile) : (setTile s i t).fr = s.fr := rfl
@[simp] theorem setTile_ms (s : State) (i : Nat) (t : Tile) : (setTile s i t).ms = s.ms := rfl
@[simp] theorem setTile_tw (s : State) (i : Nat) (t : Tile) : (setTile s i t).tw = s.tw := rfl
@[simp] theorem setTile_host (s : State) (i : Nat) (t : Tile) : (setTile s i t).host = s.host := rfl
@[simp] theorem setTile_dict (s : State) (i : Nat) (t : Tile) : (setTile s i t).dict = s.dict := rfl
@[simp] theorem setTile_pw (s : State) (i : Nat) (t : Tile) : (setTile s i t).pw = s.pw := rfl
@[simp] theorem setTile_rel (s : State) (i : Nat) (t : Tile) : (setTile s i t).rel = s.rel := rfl
@[simp] theorem setTile_boot (s : State) (i : Nat) (t : Tile) : (setTile s i t).boot = s.boot := rfl
@[simp] theorem setTile_outbox (s : State) (i : Nat) (t : Tile) : (setTile s i t).outbox = s.outbox := rfl

@[simp] theorem modTile_pending (s : State) (i : Nat) (f : Tile → Tile) : (modTile s i f).pending = s.pending := rfl
@[simp] theorem modTile_freeCtr (s : State) (i : Nat) (f : Tile → Tile) : (modTile s i f).freeCtr = s.freeCtr := rfl
@[simp] theorem modTile_clusters (s : State) (i : Nat) (f : Tile → Tile) : (modTile s i f).clusters = s.clusters := rfl
@[simp] theorem modTile_regions (s : State) (i : Nat) (f : Tile → Tile) : (modTile s i f).regions = s.regions := rfl
@[simp] theorem modTile_dies (s : State) (i : Nat) (f : Tile → Tile) : (modTile s i f).dies = s.dies := rfl
@[simp] theorem modTile_fr (s : State) (i : Nat) (f : Tile → Tile) : (modTile s i f).fr = s.fr := rfl
@[simp] theorem modTile_ms (s : State) (i : Nat) (f : Tile → Tile) : (modTile s i f).ms = s.ms := rfl
@[simp] theorem modTile_tw (s : State) (i : Nat) (f : Tile → Tile) : (modTile s i f).tw = s.tw := rfl
@[simp] theorem modTile_host (s : State) (i : Nat) (f : Tile → Tile) : (modTile s i f).host = s.host := rfl
@[simp] theorem modTile_dict (s : State) (i : Nat) (f : Tile → Tile) : (modTile s i f).dict = s.dict := rfl
@[simp] theorem modTile_pw (s : State) (i : Nat) (f : Tile → Tile) : (modTile s i f).pw = s.pw := rfl
@[simp] theorem modTile_rel (s : State) (i : Nat) (f : Tile → Tile) : (modTile s i f).rel = s.rel := rfl
@[simp] theorem modTile_boot (s : State) (i : Nat) (f : Tile → Tile) : (modTile s i f).boot = s.boot := rfl
@[simp] theorem modTile_outbox (s : State) (i : Nat) (f : Tile → Tile) : (modTile s i f).outbox = s.outbox := rfl

@[simp] theorem setCluster_pending (s : State) (k : Nat) (c : Cluster) : (setCluster s k c).pending = s.pending := rfl
@[simp] theorem setCluster_freeCtr (s : State) (k : Nat) (c : Cluster) : (setCluster s k c).freeCtr = s.freeCtr := rfl
@[simp] theorem setCluster_tiles (s : State) (k : Nat) (c : Cluster) : (setCluster s k c).tiles = s.tiles := rfl
@[simp] theorem setCluster_regions (s : State) (k : Nat) (c : Cluster) : (setCluster s k c).regions = s.regions := rfl
@[simp] theorem setCluster_dies (s : State) (k : Nat) (c : Cluster) : (setCluster s k c).dies = s.dies := rfl
@[simp] theorem setCluster_fr (s : State) (k : Nat) (c : Cluster) : (setCluster s k c).fr = s.fr := rfl
@[simp] theorem setCluster_ms (s : State) (k : Nat) (c : Cluster) : (setCluster s k c).ms = s.ms := rfl
@[simp] theorem setCluster_tw (s : State) (k : Nat) (c : Cluster) : (setCluster s k c).tw = s.tw := rfl
@[simp] theorem setCluster_host (s : State) (k : Nat) (c : Cluster) : (setCluster s k c).host = s.host := rfl
@[simp] theorem setCluster_dict (s : State) (k : Nat) (c : Cluster) : (setCluster s k c).dict = s.dict := rfl
@[simp] theorem setCluster_pw (s : State) (k : Nat) (c : Cluster) : (setCluster s k c).pw = s.pw := rfl
@[simp] theorem setCluster_rel (s : State) (k : Nat) (c : Cluster) : (setCluster s k c).rel = s.rel := rfl
@[simp] theorem setCluster_boot (s : State) (k : Nat) (c : Cluster) : (setCluster s k c).boot = s.boot := rfl
@[simp] theorem setCluster_outbox (s : State) (k : Nat) (c : Cluster) : (setCluster s k c).outbox = s.outbox := rfl

@[simp] theorem setRegion_pending (s : State) (r : Nat) (x : Region) : (setRegion s r x).pending = s.pending := rfl
@[simp] theorem setRegion_freeCtr (s : State) (r : Nat) (x : Region) : (setRegion s r x).freeCtr = s.freeCtr := rfl
@[simp] theorem setRegion_tiles (s : State) (r : Nat) (x : Region) : (setRegion s r x).tiles = s.tiles := rfl
@[simp] theorem setRegion_clusters (s : State) (r : Nat) (x : Region) : (setRegion s r x).clusters = s.clusters := rfl
@[simp] theorem setRegion_dies (s : State) (r : Nat) (x : Region) : (setRegion s r x).dies = s.dies := rfl
@[simp] theorem setRegion_fr (s : State) (r : Nat) (x : Region) : (setRegion s r x).fr = s.fr := rfl
@[simp] theorem setRegion_ms (s : State) (r : Nat) (x : Region) : (setRegion s r x).ms = s.ms := rfl
@[simp] theorem setRegion_tw (s : State) (r : Nat) (x : Region) : (setRegion s r x).tw = s.tw := rfl
@[simp] theorem setRegion_host (s : State) (r : Nat) (x : Region) : (setRegion s r x).host = s.host := rfl
@[simp] theorem setRegion_dict (s : State) (r : Nat) (x : Region) : (setRegion s r x).dict = s.dict := rfl
@[simp] theorem setRegion_pw (s : State) (r : Nat) (x : Region) : (setRegion s r x).pw = s.pw := rfl
@[simp] theorem setRegion_rel (s : State) (r : Nat) (x : Region) : (setRegion s r x).rel = s.rel := rfl
@[simp] theorem setRegion_boot (s : State) (r : Nat) (x : Region) : (setRegion s r x).boot = s.boot := rfl
@[simp] theorem setRegion_outbox (s : State) (r : Nat) (x : Region) : (setRegion s r x).outbox = s.outbox := rfl

@[simp] theorem setDie_pending (s : State) (d : Nat) (x : Die) : (setDie s d x).pending = s.pending := rfl
@[simp] theorem setDie_freeCtr (s : State) (d : Nat) (x : Die) : (setDie s d x).freeCtr = s.freeCtr := rfl
@[simp] theorem setDie_tiles (s : State) (d : Nat) (x : Die) : (setDie s d x).tiles = s.tiles := rfl
@[simp] theorem setDie_clusters (s : State) (d : Nat) (x : Die) : (setDie s d x).clusters = s.clusters := rfl
@[simp] theorem setDie_regions (s : State) (d : Nat) (x : Die) : (setDie s d x).regions = s.regions := rfl
@[simp] theorem setDie_fr (s : State) (d : Nat) (x : Die) : (setDie s d x).fr = s.fr := rfl
@[simp] theorem setDie_ms (s : State) (d : Nat) (x : Die) : (setDie s d x).ms = s.ms := rfl
@[simp] theorem setDie_tw (s : State) (d : Nat) (x : Die) : (setDie s d x).tw = s.tw := rfl
@[simp] theorem setDie_host (s : State) (d : Nat) (x : Die) : (setDie s d x).host = s.host := rfl
@[simp] theorem setDie_dict (s : State) (d : Nat) (x : Die) : (setDie s d x).dict = s.dict := rfl
@[simp] theorem setDie_pw (s : State) (d : Nat) (x : Die) : (setDie s d x).pw = s.pw := rfl
@[simp] theorem setDie_rel (s : State) (d : Nat) (x : Die) : (setDie s d x).rel = s.rel := rfl
@[simp] theorem setDie_boot (s : State) (d : Nat) (x : Die) : (setDie s d x).boot = s.boot := rfl
@[simp] theorem setDie_outbox (s : State) (d : Nat) (x : Die) : (setDie s d x).outbox = s.outbox := rfl

@[simp] theorem setChan_pending (s : State) (c : Nat) (x : Chan) : (setChan s c x).pending = s.pending := rfl
@[simp] theorem setChan_freeCtr (s : State) (c : Nat) (x : Chan) : (setChan s c x).freeCtr = s.freeCtr := rfl
@[simp] theorem setChan_tiles (s : State) (c : Nat) (x : Chan) : (setChan s c x).tiles = s.tiles := rfl
@[simp] theorem setChan_clusters (s : State) (c : Nat) (x : Chan) : (setChan s c x).clusters = s.clusters := rfl
@[simp] theorem setChan_regions (s : State) (c : Nat) (x : Chan) : (setChan s c x).regions = s.regions := rfl
@[simp] theorem setChan_dies (s : State) (c : Nat) (x : Chan) : (setChan s c x).dies = s.dies := rfl
@[simp] theorem setChan_fr (s : State) (c : Nat) (x : Chan) : (setChan s c x).fr = s.fr := rfl
@[simp] theorem setChan_tw (s : State) (c : Nat) (x : Chan) : (setChan s c x).tw = s.tw := rfl
@[simp] theorem setChan_host (s : State) (c : Nat) (x : Chan) : (setChan s c x).host = s.host := rfl
@[simp] theorem setChan_dict (s : State) (c : Nat) (x : Chan) : (setChan s c x).dict = s.dict := rfl
@[simp] theorem setChan_pw (s : State) (c : Nat) (x : Chan) : (setChan s c x).pw = s.pw := rfl
@[simp] theorem setChan_rel (s : State) (c : Nat) (x : Chan) : (setChan s c x).rel = s.rel := rfl
@[simp] theorem setChan_boot (s : State) (c : Nat) (x : Chan) : (setChan s c x).boot = s.boot := rfl
@[simp] theorem setChan_outbox (s : State) (c : Nat) (x : Chan) : (setChan s c x).outbox = s.outbox := rfl

@[simp] theorem setLink_pending (s : State) (l : Nat) (x : Link) : (setLink s l x).pending = s.pending := rfl
@[simp] theorem setLink_freeCtr (s : State) (l : Nat) (x : Link) : (setLink s l x).freeCtr = s.freeCtr := rfl
@[simp] theorem setLink_tiles (s : State) (l : Nat) (x : Link) : (setLink s l x).tiles = s.tiles := rfl
@[simp] theorem setLink_clusters (s : State) (l : Nat) (x : Link) : (setLink s l x).clusters = s.clusters := rfl
@[simp] theorem setLink_regions (s : State) (l : Nat) (x : Link) : (setLink s l x).regions = s.regions := rfl
@[simp] theorem setLink_dies (s : State) (l : Nat) (x : Link) : (setLink s l x).dies = s.dies := rfl
@[simp] theorem setLink_fr (s : State) (l : Nat) (x : Link) : (setLink s l x).fr = s.fr := rfl
@[simp] theorem setLink_ms (s : State) (l : Nat) (x : Link) : (setLink s l x).ms = s.ms := rfl
@[simp] theorem setLink_host (s : State) (l : Nat) (x : Link) : (setLink s l x).host = s.host := rfl
@[simp] theorem setLink_dict (s : State) (l : Nat) (x : Link) : (setLink s l x).dict = s.dict := rfl
@[simp] theorem setLink_pw (s : State) (l : Nat) (x : Link) : (setLink s l x).pw = s.pw := rfl
@[simp] theorem setLink_rel (s : State) (l : Nat) (x : Link) : (setLink s l x).rel = s.rel := rfl
@[simp] theorem setLink_boot (s : State) (l : Nat) (x : Link) : (setLink s l x).boot = s.boot := rfl
@[simp] theorem setLink_outbox (s : State) (l : Nat) (x : Link) : (setLink s l x).outbox = s.outbox := rfl

@[simp] theorem setDmaCh_pending (s : State) (r c : Nat) (x : DmaCh) : (setDmaCh s r c x).pending = s.pending := rfl
@[simp] theorem setDmaCh_freeCtr (s : State) (r c : Nat) (x : DmaCh) : (setDmaCh s r c x).freeCtr = s.freeCtr := rfl
@[simp] theorem setDmaCh_tiles (s : State) (r c : Nat) (x : DmaCh) : (setDmaCh s r c x).tiles = s.tiles := rfl
@[simp] theorem setDmaCh_clusters (s : State) (r c : Nat) (x : DmaCh) : (setDmaCh s r c x).clusters = s.clusters := rfl
@[simp] theorem setDmaCh_dies (s : State) (r c : Nat) (x : DmaCh) : (setDmaCh s r c x).dies = s.dies := rfl
@[simp] theorem setDmaCh_fr (s : State) (r c : Nat) (x : DmaCh) : (setDmaCh s r c x).fr = s.fr := rfl
@[simp] theorem setDmaCh_ms (s : State) (r c : Nat) (x : DmaCh) : (setDmaCh s r c x).ms = s.ms := rfl
@[simp] theorem setDmaCh_tw (s : State) (r c : Nat) (x : DmaCh) : (setDmaCh s r c x).tw = s.tw := rfl
@[simp] theorem setDmaCh_host (s : State) (r c : Nat) (x : DmaCh) : (setDmaCh s r c x).host = s.host := rfl
@[simp] theorem setDmaCh_dict (s : State) (r c : Nat) (x : DmaCh) : (setDmaCh s r c x).dict = s.dict := rfl
@[simp] theorem setDmaCh_pw (s : State) (r c : Nat) (x : DmaCh) : (setDmaCh s r c x).pw = s.pw := rfl
@[simp] theorem setDmaCh_rel (s : State) (r c : Nat) (x : DmaCh) : (setDmaCh s r c x).rel = s.rel := rfl
@[simp] theorem setDmaCh_boot (s : State) (r c : Nat) (x : DmaCh) : (setDmaCh s r c x).boot = s.boot := rfl
@[simp] theorem setDmaCh_outbox (s : State) (r c : Nat) (x : DmaCh) : (setDmaCh s r c x).outbox = s.outbox := rfl

@[simp] theorem emit_pending (s : State) (m : OutMsg) : (emit s m).pending = s.pending := rfl
@[simp] theorem emit_freeCtr (s : State) (m : OutMsg) : (emit s m).freeCtr = s.freeCtr := rfl
@[simp] theorem emit_tiles (s : State) (m : OutMsg) : (emit s m).tiles = s.tiles := rfl
@[simp] theorem emit_clusters (s : State) (m : OutMsg) : (emit s m).clusters = s.clusters := rfl
@[simp] theorem emit_regions (s : State) (m : OutMsg) : (emit s m).regions = s.regions := rfl
@[simp] theorem emit_dies (s : State) (m : OutMsg) : (emit s m).dies = s.dies := rfl
@[simp] theorem emit_fr (s : State) (m : OutMsg) : (emit s m).fr = s.fr := rfl
@[simp] theorem emit_ms (s : State) (m : OutMsg) : (emit s m).ms = s.ms := rfl
@[simp] theorem emit_tw (s : State) (m : OutMsg) : (emit s m).tw = s.tw := rfl
@[simp] theorem emit_host (s : State) (m : OutMsg) : (emit s m).host = s.host := rfl
@[simp] theorem emit_dict (s : State) (m : OutMsg) : (emit s m).dict = s.dict := rfl
@[simp] theorem emit_pw (s : State) (m : OutMsg) : (emit s m).pw = s.pw := rfl
@[simp] theorem emit_rel (s : State) (m : OutMsg) : (emit s m).rel = s.rel := rfl
@[simp] theorem emit_boot (s : State) (m : OutMsg) : (emit s m).boot = s.boot := rfl

@[simp] theorem setChan_ms_mem (s : State) (c : Nat) (x : Chan) : (setChan s c x).ms.mem = s.ms.mem := rfl
@[simp] theorem setChan_ms_bad (s : State) (c : Nat) (x : Chan) : (setChan s c x).ms.bad = s.ms.bad := rfl
@[simp] theorem setChan_ms_owner (s : State) (c : Nat) (x : Chan) : (setChan s c x).ms.owner = s.ms.owner := rfl
@[simp] theorem setChan_ms_gen (s : State) (c : Nat) (x : Chan) : (setChan s c x).ms.gen = s.ms.gen := rfl
@[simp] theorem setChan_ms_roots (s : State) (c : Nat) (x : Chan) : (setChan s c x).ms.roots = s.ms.roots := rfl
@[simp] theorem setChan_ms_cleared (s : State) (c : Nat) (x : Chan) : (setChan s c x).ms.cleared = s.ms.cleared := rfl
@[simp] theorem setChan_ms_g (s : State) (c : Nat) (x : Chan) : (setChan s c x).ms.g = s.ms.g := rfl

/-- What unit j reads as after unit i is written. -/
theorem tileOf_setTile (s : State) (i j : Nat) (x : Tile) : tileOf (setTile s i x) j = if j = i then x else tileOf s j := by
  simp only [tileOf, setTile, smGet_smSet]

@[simp] theorem tileOf_setTile_self (s : State) (i : Nat) (x : Tile) : tileOf (setTile s i x) i = x := by
  rw [tileOf_setTile, if_pos rfl]

/-- What unit j reads as after unit i is written. -/
theorem clusterOf_setCluster (s : State) (i j : Nat) (x : Cluster) : clusterOf (setCluster s i x) j = if j = i then x else clusterOf s j := by
  simp only [clusterOf, setCluster, smGet_smSet]

@[simp] theorem clusterOf_setCluster_self (s : State) (i : Nat) (x : Cluster) : clusterOf (setCluster s i x) i = x := by
  rw [clusterOf_setCluster, if_pos rfl]

/-- What unit j reads as after unit i is written. -/
theorem regionOf_setRegion (s : State) (i j : Nat) (x : Region) : regionOf (setRegion s i x) j = if j = i then x else regionOf s j := by
  simp only [regionOf, setRegion, smGet_smSet]

@[simp] theorem regionOf_setRegion_self (s : State) (i : Nat) (x : Region) : regionOf (setRegion s i x) i = x := by
  rw [regionOf_setRegion, if_pos rfl]

/-- What unit j reads as after unit i is written. -/
theorem dieOf_setDie (s : State) (i j : Nat) (x : Die) : dieOf (setDie s i x) j = if j = i then x else dieOf s j := by
  simp only [dieOf, setDie, smGet_smSet]

@[simp] theorem dieOf_setDie_self (s : State) (i : Nat) (x : Die) : dieOf (setDie s i x) i = x := by
  rw [dieOf_setDie, if_pos rfl]

/-- What unit j reads as after unit i is written. -/
theorem chanOf_setChan (s : State) (i j : Nat) (x : Chan) : chanOf (setChan s i x) j = if j = i then x else chanOf s j := by
  simp only [chanOf, setChan, smGet_smSet]

@[simp] theorem chanOf_setChan_self (s : State) (i : Nat) (x : Chan) : chanOf (setChan s i x) i = x := by
  rw [chanOf_setChan, if_pos rfl]

/-- What unit j reads as after unit i is written. -/
theorem linkOf_setLink (s : State) (i j : Nat) (x : Link) : linkOf (setLink s i x) j = if j = i then x else linkOf s j := by
  simp only [linkOf, setLink, smGet_smSet]

@[simp] theorem linkOf_setLink_self (s : State) (i : Nat) (x : Link) : linkOf (setLink s i x) i = x := by
  rw [linkOf_setLink, if_pos rfl]

/-- What tile j reads as after tile i is changed. -/
theorem tileOf_modTile (s : State) (i j : Nat) (f : Tile → Tile) :
    tileOf (modTile s i f) j = if j = i then f (tileOf s i) else tileOf s j := by
  rw [modTile, tileOf_setTile]

@[simp] theorem tileOf_modTile_self (s : State) (i : Nat) (f : Tile → Tile) : tileOf (modTile s i f) i = f (tileOf s i) := by
  rw [tileOf_modTile, if_pos rfl]

@[simp] theorem tileOf_setCluster (s : State) (i j : Nat) (x : Cluster) : tileOf (setCluster s i x) j = tileOf s j := rfl
@[simp] theorem tileOf_setRegion (s : State) (i j : Nat) (x : Region) : tileOf (setRegion s i x) j = tileOf s j := rfl
@[simp] theorem tileOf_setDie (s : State) (i j : Nat) (x : Die) : tileOf (setDie s i x) j = tileOf s j := rfl
@[simp] theorem tileOf_setChan (s : State) (i j : Nat) (x : Chan) : tileOf (setChan s i x) j = tileOf s j := rfl
@[simp] theorem tileOf_setLink (s : State) (i j : Nat) (x : Link) : tileOf (setLink s i x) j = tileOf s j := rfl
@[simp] theorem clusterOf_setTile (s : State) (i j : Nat) (x : Tile) : clusterOf (setTile s i x) j = clusterOf s j := rfl
@[simp] theorem clusterOf_setRegion (s : State) (i j : Nat) (x : Region) : clusterOf (setRegion s i x) j = clusterOf s j := rfl
@[simp] theorem clusterOf_setDie (s : State) (i j : Nat) (x : Die) : clusterOf (setDie s i x) j = clusterOf s j := rfl
@[simp] theorem clusterOf_setChan (s : State) (i j : Nat) (x : Chan) : clusterOf (setChan s i x) j = clusterOf s j := rfl
@[simp] theorem clusterOf_setLink (s : State) (i j : Nat) (x : Link) : clusterOf (setLink s i x) j = clusterOf s j := rfl
@[simp] theorem regionOf_setTile (s : State) (i j : Nat) (x : Tile) : regionOf (setTile s i x) j = regionOf s j := rfl
@[simp] theorem regionOf_setCluster (s : State) (i j : Nat) (x : Cluster) : regionOf (setCluster s i x) j = regionOf s j := rfl
@[simp] theorem regionOf_setDie (s : State) (i j : Nat) (x : Die) : regionOf (setDie s i x) j = regionOf s j := rfl
@[simp] theorem regionOf_setChan (s : State) (i j : Nat) (x : Chan) : regionOf (setChan s i x) j = regionOf s j := rfl
@[simp] theorem regionOf_setLink (s : State) (i j : Nat) (x : Link) : regionOf (setLink s i x) j = regionOf s j := rfl
@[simp] theorem dieOf_setTile (s : State) (i j : Nat) (x : Tile) : dieOf (setTile s i x) j = dieOf s j := rfl
@[simp] theorem dieOf_setCluster (s : State) (i j : Nat) (x : Cluster) : dieOf (setCluster s i x) j = dieOf s j := rfl
@[simp] theorem dieOf_setRegion (s : State) (i j : Nat) (x : Region) : dieOf (setRegion s i x) j = dieOf s j := rfl
@[simp] theorem dieOf_setChan (s : State) (i j : Nat) (x : Chan) : dieOf (setChan s i x) j = dieOf s j := rfl
@[simp] theorem dieOf_setLink (s : State) (i j : Nat) (x : Link) : dieOf (setLink s i x) j = dieOf s j := rfl
@[simp] theorem chanOf_setTile (s : State) (i j : Nat) (x : Tile) : chanOf (setTile s i x) j = chanOf s j := rfl
@[simp] theorem chanOf_setCluster (s : State) (i j : Nat) (x : Cluster) : chanOf (setCluster s i x) j = chanOf s j := rfl
@[simp] theorem chanOf_setRegion (s : State) (i j : Nat) (x : Region) : chanOf (setRegion s i x) j = chanOf s j := rfl
@[simp] theorem chanOf_setDie (s : State) (i j : Nat) (x : Die) : chanOf (setDie s i x) j = chanOf s j := rfl
@[simp] theorem chanOf_setLink (s : State) (i j : Nat) (x : Link) : chanOf (setLink s i x) j = chanOf s j := rfl
@[simp] theorem linkOf_setTile (s : State) (i j : Nat) (x : Tile) : linkOf (setTile s i x) j = linkOf s j := rfl
@[simp] theorem linkOf_setCluster (s : State) (i j : Nat) (x : Cluster) : linkOf (setCluster s i x) j = linkOf s j := rfl
@[simp] theorem linkOf_setRegion (s : State) (i j : Nat) (x : Region) : linkOf (setRegion s i x) j = linkOf s j := rfl
@[simp] theorem linkOf_setDie (s : State) (i j : Nat) (x : Die) : linkOf (setDie s i x) j = linkOf s j := rfl
@[simp] theorem linkOf_setChan (s : State) (i j : Nat) (x : Chan) : linkOf (setChan s i x) j = linkOf s j := rfl
@[simp] theorem clusterOf_modTile (s : State) (i j : Nat) (f : Tile → Tile) : clusterOf (modTile s i f) j = clusterOf s j := rfl
@[simp] theorem regionOf_modTile (s : State) (i j : Nat) (f : Tile → Tile) : regionOf (modTile s i f) j = regionOf s j := rfl
@[simp] theorem dieOf_modTile (s : State) (i j : Nat) (f : Tile → Tile) : dieOf (modTile s i f) j = dieOf s j := rfl
@[simp] theorem chanOf_modTile (s : State) (i j : Nat) (f : Tile → Tile) : chanOf (modTile s i f) j = chanOf s j := rfl
@[simp] theorem linkOf_modTile (s : State) (i j : Nat) (f : Tile → Tile) : linkOf (modTile s i f) j = linkOf s j := rfl

/-- The current bank of a tile after a change of it. -/
@[simp] theorem bankOf_modBank (t : Tile) (f : Bank → Bank) : bankOf (modBank t f) = f (bankOf t) := by
  unfold bankOf modBank setBank bankOf
  cases t.cur <;> rfl

end Sys2Proof.Machine
end

