-- ==== Sys2Proof/Laws/Signals.lean ====
section
/-! SUPPORT. What a signal, a flag or a counter change, and the end of an operation can do: `SignalsOnly` holds of each. -/

namespace Sys2Proof.Machine

open Sys2Proof

theorem OutsideTile.refl (i : Nat) (s : State) : OutsideTile i s s := ⟨fun _ _ => rfl, fun _ _ => rfl, rfl⟩

theorem OutsideTile.trans {i : Nat} {a b c : State} (h : OutsideTile i a b) (h' : OutsideTile i b c) : OutsideTile i a c :=
  ⟨fun j hj => (h'.tiles j hj).trans (h.tiles j hj), fun k hk => (h'.clusters k hk).trans (h.clusters k hk),
    h'.cluster.trans h.cluster⟩

/-- Changing tile i alone. -/
theorem OutsideTile.setTile (s : State) (i : Nat) (t : Tile) : OutsideTile i s (setTile s i t) := by
  refine ⟨fun j hj => ?_, fun _ _ => rfl, rfl⟩
  rw [tileOf_setTile, if_neg hj]

/-- Changing what lies beyond tiles and clusters. -/
theorem OutsideTile.of_eq {i : Nat} {s s' : State} (ht : s'.tiles = s.tiles) (hc : s'.clusters = s.clusters) :
    OutsideTile i s s' := by
  refine ⟨fun j _ => ?_, fun k _ => ?_, ?_⟩
  · rw [tileOf, ht, tileOf]
  · rw [clusterOf, hc, clusterOf]
  · rw [clusterOf, hc, clusterOf]

theorem SignalsOnly.refl (i : Nat) (s : State) : SignalsOnly i s s := ⟨.refl i s, rfl, rfl⟩

theorem SignalsOnly.trans {i : Nat} {a b c : State} (h : SignalsOnly i a b) (h' : SignalsOnly i b c) : SignalsOnly i a c :=
  ⟨h.outside.trans h'.outside, h'.tile.trans h.tile, h'.beyond.trans h.beyond⟩

theorem signalsOnly_modOwn (s : State) (i : Nat) (f : Tile → Tile) (h : ∀ t, signalPart (f t) = signalPart t) :
    SignalsOnly i s (modTile s i f) := by
  refine ⟨.setTile s i _, ?_, rfl⟩
  rw [tileOf_modTile, if_pos rfl, h]

theorem signalsOnly_setOwn (s : State) (i : Nat) (t : Tile) (h : signalPart t = signalPart (tileOf s i)) :
    SignalsOnly i s (setTile s i t) := by
  refine ⟨.setTile s i _, ?_, rfl⟩
  rw [tileOf_setTile, if_pos rfl, h]

theorem signalPart_notedPart (t : Tile) : signalPart (notedPart t) = signalPart t := rfl

theorem signalsOnly_modNoted (s : State) (i j : Nat) (f : Tile → Tile) (h : ∀ t, notedPart (f t) = notedPart t) :
    SignalsOnly i s (modTile s j f) := by
  refine ⟨⟨fun k _ => ?_, fun _ _ => rfl, rfl⟩, ?_, rfl⟩
  · rw [tileOf_modTile]
    by_cases hk : k = j
    · rw [if_pos hk, h, hk]
    · rw [if_neg hk]
  · rw [tileOf_modTile]
    by_cases hk : i = j
    · rw [if_pos hk, ← signalPart_notedPart, h, signalPart_notedPart, hk]
    · rw [if_neg hk]

theorem signalsOnly_setCluster (s : State) (i : Nat) (c : Cluster) (h : clusterPart c = clusterPart (clusterOf s (i / 16))) :
    SignalsOnly i s (setCluster s (i / 16) c) := by
  refine ⟨⟨fun _ _ => rfl, fun k hk => ?_, ?_⟩, rfl, rfl⟩
  · rw [clusterOf_setCluster, if_neg hk]
  · rw [clusterOf_setCluster, if_pos rfl, h]

theorem signalsOnly_foldl {β : Type} (i : Nat) (f : State → β → State) (h : ∀ s b, SignalsOnly i s (f s b)) (l : List β)
    (s : State) : SignalsOnly i s (l.foldl f s) := by
  induction l generalizing s with
  | nil => exact .refl i s
  | cons b l ih => exact (h s b).trans (ih _)

theorem signalsOnly_noteLost (i : Nat) (s : State) (l : List (Nat × BitVec 32)) : SignalsOnly i s (noteLost s l) :=
  signalsOnly_foldl i _ (fun s c => by apply signalsOnly_modNoted; intro t; rfl) l s

theorem signalsOnly_noteSat (i : Nat) (s : State) (b : Bump) : SignalsOnly i s (noteSat s b) :=
  signalsOnly_foldl i _ (fun s w => by apply signalsOnly_modNoted; intro t; rfl) b.who s

theorem signalsOnly_changeFlags (s : State) (i : Nat) (mask : BitVec 32) (set : Bool) :
    SignalsOnly i s (changeFlags s i mask set) := by
  have h1 : ∀ t l, signalPart t = signalPart (tileOf s i) → SignalsOnly i s (noteLost (setTile s i t) l) :=
    fun t l h => (signalsOnly_setOwn s i t h).trans (signalsOnly_noteLost i _ l)
  simp only [changeFlags]
  split
  · apply h1
    rfl
  · refine (SignalsOnly.trans ?_ (signalsOnly_setCluster _ i _ ?_)).trans (signalsOnly_noteLost i _ _)
    · apply h1
      rfl
    · rfl

theorem signalsOnly_putCounter (s : State) (i n : Nat) (v : BitVec 16) (o : CycleOps) :
    SignalsOnly i s (putCounter s i n v o) := by
  unfold putCounter
  split
  · apply signalsOnly_modOwn
    intro t
    rfl
  · apply signalsOnly_setCluster
    rfl

theorem signalsOnly_putBump (s : State) (i : Nat) (o : CycleOps) (b : Bump) : SignalsOnly i s (putBump s i o b) :=
  (signalsOnly_putCounter s i b.n _ _).trans (signalsOnly_noteSat i _ b)

theorem signalsOnly_setCounter (s : State) (i n : Nat) (v : BitVec 16) : SignalsOnly i s (setCounter s i n v) := by
  unfold setCounter
  dsimp only
  split
  · exact signalsOnly_putBump s i _ _
  · exact signalsOnly_putCounter s i n v _

theorem signalsOnly_bumpCounter (s : State) (i n : Nat) (inc : Bool) : SignalsOnly i s (bumpCounter s i n inc) :=
  signalsOnly_putBump s i _ _

theorem signalsOnly_clearSat (s : State) (i : Nat) (mask : BitVec 32) : SignalsOnly i s (clearSat s i mask) := by
  unfold clearSat
  dsimp only
  refine SignalsOnly.trans (signalsOnly_setCluster s i _ ?_) (signalsOnly_modOwn _ i _ ?_)
  · rfl
  · intro t
    rfl

theorem signalsOnly_clearLost (s : State) (i : Nat) (mask : BitVec 32) : SignalsOnly i s (clearLost s i mask) := by
  unfold clearLost
  dsimp only
  apply signalsOnly_modOwn
  intro t
  rfl

theorem signalsOnly_beginCycle (s : State) (i : Nat) (again : Bool) : SignalsOnly i s (beginCycle s i again) := by
  unfold beginCycle
  dsimp only
  refine SignalsOnly.trans (signalsOnly_setCluster s i _ ?_) (signalsOnly_modOwn _ i _ ?_)
  · rfl
  · intro t
    rfl

theorem signalsOnly_withEffect (s : State) (i : Nat) (act : State → State) (h : ∀ s, SignalsOnly i s (act s)) :
    SignalsOnly i s (withEffect s i act) := by
  have h1 : SignalsOnly i s (setTile s i { tileOf s i with effects := (tileOf s i).effects + 1 }) := by
    apply signalsOnly_setOwn
    rfl
  unfold withEffect
  dsimp only
  split
  · exact h1
  · exact h1.trans (h _)

theorem signalsOnly_changeFor (s : State) (i : Nat) (sg : BitVec 8) : SignalsOnly i s (changeFor s i sg) := by
  unfold changeFor
  dsimp only
  split
  · exact .refl i s
  · split
    · exact signalsOnly_bumpCounter s i _ _
    · exact signalsOnly_changeFlags s i _ _

theorem signalsOnly_changeTarget (s : State) (i : Nat) (sg : BitVec 8) : SignalsOnly i s (changeTarget s i sg) := by
  unfold changeTarget
  split
  · exact signalsOnly_withEffect s i _ fun s => signalsOnly_changeFor s i sg
  · exact signalsOnly_changeFor s i sg

theorem signalsOnly_opDone (s : State) (i wid : Nat) : SignalsOnly i s (opDone s i wid) := by
  unfold opDone
  dsimp only
  split
  · exact .refl i s
  · split
    · refine SignalsOnly.trans ?_ (signalsOnly_changeTarget _ i _)
      apply signalsOnly_setOwn
      rfl
    · apply signalsOnly_setOwn
      rfl

theorem signalsOnly_opLost (s : State) (i wid : Nat) : SignalsOnly i s (opLost s i wid) := by
  apply signalsOnly_modOwn
  intro t
  rfl

theorem signalsOnly_opAdd (s : State) (i wid : Nat) : SignalsOnly i s (opAdd s i wid) := by
  apply signalsOnly_modOwn
  intro t
  rfl

/-- A field of tile i that no signal changes. -/
theorem SignalsOnly.field {i : Nat} {s s' : State} (h : SignalsOnly i s s') {β : Type} (g : Tile → β)
    (hg : ∀ t, g (signalPart t) = g t) : g (tileOf s' i) = g (tileOf s i) := by
  rw [← hg (tileOf s' i), h.tile, hg]

/-- A component of the state beyond tiles and clusters. -/
theorem SignalsOnly.keeps {i : Nat} {s s' : State} (h : SignalsOnly i s s') {β : Type} (g : State → β)
    (hg : ∀ s, g (beyondTiles s) = g s) : g s' = g s := by
  rw [← hg s', h.beyond, hg]

theorem SignalsOnly.bank {i : Nat} {s s' : State} (h : SignalsOnly i s s') : bankOf (tileOf s' i) = bankOf (tileOf s i) :=
  h.field bankOf fun _ => rfl

theorem SignalsOnly.vx {i : Nat} {s s' : State} (h : SignalsOnly i s s') : (tileOf s' i).vx = (tileOf s i).vx :=
  h.field Tile.vx fun _ => rfl

theorem SignalsOnly.mx {i : Nat} {s s' : State} (h : SignalsOnly i s s') : (tileOf s' i).mx = (tileOf s i).mx :=
  h.field Tile.mx fun _ => rfl

theorem SignalsOnly.cv {i : Nat} {s s' : State} (h : SignalsOnly i s s') : (tileOf s' i).cv = (tileOf s i).cv :=
  h.field Tile.cv fun _ => rfl

theorem SignalsOnly.mesh {i : Nat} {s s' : State} (h : SignalsOnly i s s') : (tileOf s' i).mesh = (tileOf s i).mesh :=
  h.field Tile.mesh fun _ => rfl

theorem SignalsOnly.exc {i : Nat} {s s' : State} (h : SignalsOnly i s s') : (tileOf s' i).exc = (tileOf s i).exc :=
  h.field Tile.exc fun _ => rfl

theorem SignalsOnly.ms {i : Nat} {s s' : State} (h : SignalsOnly i s s') : s'.ms = s.ms := h.keeps State.ms fun _ => rfl
theorem SignalsOnly.fr {i : Nat} {s s' : State} (h : SignalsOnly i s s') : s'.fr = s.fr := h.keeps State.fr fun _ => rfl
theorem SignalsOnly.host {i : Nat} {s s' : State} (h : SignalsOnly i s s') : s'.host = s.host :=
  h.keeps State.host fun _ => rfl

end Sys2Proof.Machine
end

