-- ==== Sys2Proof/Laws/Issue.lean ====
section
/-! SUPPORT. What the issue of a word of one move does: what precedes its move, what follows it, and what both leave alone. -/

namespace Sys2Proof.Machine

open Sys2Proof

theorem onTile_clocked {s : State} {lti : BitVec 14} (h : Clocked s lti) (f : Nat → State → State) :
    onTile lti s f = .next (f lti.toNat s) := by
  unfold onTile
  rw [if_pos h.1, if_pos h.2]

theorem Ready.clocked {s : State} {lti : BitVec 14} (h : Ready s lti) : Clocked s lti := ⟨h.1, h.2.1⟩

theorem atBoundary_ready {s : State} {lti : BitVec 14} (h : Ready s lti) (word : State → State) :
    atBoundary s lti.toNat word = word s := by
  obtain ⟨_, _, hr, ha, hq, hz⟩ := h
  simp [atBoundary, hr, ha, hq, hz]

/-! ## Before the move -/

/-- A bank without results in flight, those that have landed, and flags. -/
def landBank (b : Bank) : Bank :=
  { b with al0r := 0, al0p := none, al1r := 0, al1p := none, mullo := 0, mulhi := 0, mulp := [], flags := 0, flagsNext := none }

/-- A tile without what the beginning of a word changes. -/
def landPart (t : Tile) : Tile := modBank { signalPart t with nextWid := 0, landed := 0, resume := 0, held := 0 } landBank

/-- Nothing but what the beginning of a word of tile i changes differs. -/
structure LandOnly (i : Nat) (s s' : State) : Prop where
  outside : OutsideTile i s s'
  tile : landPart (tileOf s' i) = landPart (tileOf s i)
  beyond : beyondTiles s' = beyondTiles s

theorem LandOnly.trans {i : Nat} {a b c : State} (h : LandOnly i a b) (h' : LandOnly i b c) : LandOnly i a c :=
  ⟨h.outside.trans h'.outside, h'.tile.trans h.tile, h'.beyond.trans h.beyond⟩

theorem SignalsOnly.landOnly {i : Nat} {s s' : State} (h : SignalsOnly i s s') : LandOnly i s s' := by
  refine ⟨h.outside, ?_, h.beyond⟩
  have hp : ∀ t, landPart t = landPart (signalPart t) := fun _ => rfl
  rw [hp, h.tile, ← hp]

theorem landPart_modBank (t : Tile) (f : Bank → Bank) (h : ∀ b, landBank (f b) = landBank b) :
    landPart (modBank t f) = landPart t := by
  unfold landPart modBank setBank bankOf
  cases hc : t.cur <;> simp only [signalPart, h, hc]

theorem landPart_landed (t : Tile) (c : Word) : landPart { t with landed := c, resume := 0 } = landPart t := rfl

theorem landOnly_modTile (s : State) (i : Nat) (f : Tile → Tile) (h : ∀ t, landPart (f t) = landPart t) :
    LandOnly i s (modTile s i f) := by
  refine ⟨.setTile s i _, ?_, rfl⟩
  rw [tileOf_modTile, if_pos rfl, h]

theorem landOnly_landProduct (i : Nat) (s : State) (p : Product) : LandOnly i s (landProduct i s p) := by
  refine LandOnly.trans ?_ (signalsOnly_opDone _ i p.wid).landOnly
  apply landOnly_modTile
  intro t
  apply landPart_modBank
  intro b
  rfl

theorem landOnly_foldl {β : Type} (i : Nat) (f : State → β → State) (h : ∀ s b, LandOnly i s (f s b)) (l : List β)
    (s : State) : LandOnly i s (l.foldl f s) := by
  induction l generalizing s with
  | nil => exact (SignalsOnly.refl i s).landOnly
  | cons b l ih => exact (h s b).trans (ih _)

theorem landOnly_landAll (s : State) (i : Nat) : LandOnly i s (landAll s i) := by
  unfold landAll
  dsimp only
  refine LandOnly.trans (landOnly_foldl i (landProduct i) (landOnly_landProduct i)
    ((bankOf (tileOf s i)).mulp.filter fun p => decide (p.rem ≤ cyclesPassed s i)) s) ?_
  apply landOnly_modTile
  intro t
  rw [landPart_landed]
  apply landPart_modBank
  intro b
  rfl

theorem landOnly_signalMuls (s : State) (i : Nat) : LandOnly i s (signalMuls s i) := by
  unfold signalMuls
  dsimp only
  refine LandOnly.trans (landOnly_modTile s i _ fun t => ?_)
    (landOnly_foldl i _ (fun s (p : Product) => (signalsOnly_opDone s i p.wid).landOnly) _ _)
  exact landPart_modBank t _ fun b => rfl

theorem landOnly_wordBegun (s : State) (i : Nat) : LandOnly i s (wordBegun s i) :=
  (((landOnly_signalMuls s i).trans (signalsOnly_beginCycle _ i false).landOnly).trans (landOnly_landAll _ i)).trans
    (landOnly_modTile _ i _ fun _ => rfl)

theorem landOnly_wordOpen (s : State) (i : Nat) (sg : BitVec 8) : LandOnly i s (wordOpen s i sg) := by
  refine (landOnly_wordBegun s i).trans ⟨.setTile _ i _, ?_, rfl⟩
  unfold wordOpen
  rw [tileOf_setTile, if_pos rfl]
  rfl

theorem LandOnly.field {i : Nat} {s s' : State} (h : LandOnly i s s') {β : Type} (g : Tile → β)
    (hg : ∀ t, g (landPart t) = g t) : g (tileOf s' i) = g (tileOf s i) := by
  rw [← hg (tileOf s' i), h.tile, hg]

theorem LandOnly.keeps {i : Nat} {s s' : State} (h : LandOnly i s s') {β : Type} (g : State → β)
    (hg : ∀ s, g (beyondTiles s) = g s) : g s' = g s := by
  rw [← hg s', h.beyond, hg]

/-- A part of a tile that lies outside its banks and that the beginning of a word leaves alone. -/
theorem LandOnly.part {i : Nat} {s s' : State} (h : LandOnly i s s') {β : Type} (g : Tile → β)
    (hg : ∀ t, g (signalPart { t with nextWid := 0, landed := 0, resume := 0, held := 0 }) = g t) (hb : ∀ t b, g (setBank t b) = g t) :
    g (tileOf s' i) = g (tileOf s i) := by
  refine h.field g fun t => ?_
  unfold landPart modBank
  rw [hb]
  exact hg t

/-- A part of the current bank that the beginning of a word leaves alone. -/
theorem LandOnly.bank {i : Nat} {s s' : State} (h : LandOnly i s s') {β : Type} (g : Bank → β)
    (hg : ∀ b, g (landBank b) = g b) : g (bankOf (tileOf s' i)) = g (bankOf (tileOf s i)) := by
  refine h.field (fun t => g (bankOf t)) fun t => ?_
  unfold landPart modBank setBank bankOf
  cases hc : t.cur <;> simp [signalPart, hc, hg]

/-! ## The frame of a word -/

theorem wordPart_landPart (t : Tile) : wordPart (landPart t) = wordPart t := by
  unfold wordPart landPart modBank setBank bankOf
  cases hc : t.cur <;> simp [signalPart, hc, wordBank, landBank]

theorem LandOnly.wordFrame {i : Nat} {s s' : State} (h : LandOnly i s s') : WordFrame i id s s' := by
  refine ⟨h.outside, ?_, ?_⟩
  · rw [id, id, ← wordPart_landPart, h.tile, wordPart_landPart]
  · have hp : ∀ s, beyondWord s = beyondWord (beyondTiles s) := fun _ => rfl
    rw [hp, h.beyond, ← hp]

theorem WordFrame.refl (i : Nat) (rest : Tile → Tile) (s : State) : WordFrame i rest s s := ⟨.refl i s, rfl, rfl⟩

theorem WordFrame.trans {i : Nat} {rest : Tile → Tile} {a b c : State} (h : WordFrame i rest a b) (h' : WordFrame i rest b c) :
    WordFrame i rest a c :=
  ⟨h.outside.trans h'.outside, h'.tile.trans h.tile, h'.beyond.trans h.beyond⟩

/-- A frame that leaves out less holds of one that leaves out more. -/
theorem WordFrame.mono {i : Nat} {s s' : State} (h : WordFrame i id s s') (rest : Tile → Tile) : WordFrame i rest s s' :=
  ⟨h.outside, congrArg rest h.tile, h.beyond⟩

theorem wordPart_modBank (t : Tile) (f : Bank → Bank) (h : ∀ b, wordBank (f b) = wordBank b) :
    wordPart (modBank t f) = wordPart t := by
  unfold wordPart modBank setBank bankOf
  cases hc : t.cur <;> simp only [signalPart, h, hc]

theorem wordFrame_modTile (s : State) (i : Nat) (rest : Tile → Tile) (f : Tile → Tile)
    (h : ∀ t, rest (wordPart (f t)) = rest (wordPart t)) : WordFrame i rest s (modTile s i f) := by
  refine ⟨.setTile s i _, ?_, rfl⟩
  rw [tileOf_modTile, if_pos rfl, h]

/-! ## After the move -/

theorem wordFrame_passRetry (s : State) (i : Nat) (p : Retry → Bool) : WordFrame i id s (passRetry s i p) := by
  unfold passRetry
  dsimp only
  split
  · exact .refl i id s
  · have h : WordFrame i id s (modTile s i fun t => { t with retry := t.retry.filter fun r => !p r }) := by
      apply wordFrame_modTile
      intro t
      rfl
    exact h.trans ⟨.of_eq rfl rfl, rfl, rfl⟩

theorem releaseBuffer_loopBuf (old new : List LoopLevel) (next : Nat) (k : CacheSt) :
    { releaseBuffer old new next k with loopBuf := [] } = { k with loopBuf := [] } := by
  unfold releaseBuffer
  split
  · rfl
  · split <;> rfl

theorem wordFrame_advance (s : State) (i pc : Nat) (c : Ctl) (hc : c.lib = none) : WordFrame i id s (advance s i pc c) := by
  unfold advance
  dsimp only
  rw [hc]
  apply wordFrame_modTile
  intro t
  simp only [id, wordPart, signalPart, modBank, setBank, bankOf]
  cases hc : t.cur <;> simp [releaseBuffer_loopBuf, wordBank]

/-- The coming flags of a word. -/
def withFlags (s : State) (i : Nat) (c : Ctl) : State :=
  match c.flags with
  | some (_, f) => modBk s i fun b => { b with flagsNext := some f }
  | none => s

theorem wordFrame_withFlags (s : State) (i : Nat) (c : Ctl) : WordFrame i id s (withFlags s i c) := by
  unfold withFlags
  split
  · apply wordFrame_modTile
    intro t
    exact wordPart_modBank t _ fun _ => rfl
  · exact .refl i id s

/-- What follows the moves of a word: flags, retries, the next word's address, the signal. -/
def wordEnd (s : State) (i pc wid : Nat) (c : Ctl) : State :=
  closeWord (advance (passRetry (withFlags s i c) i (scalarRetry (tileOf (withFlags s i c) i))) i pc c) i wid

theorem wordFrame_wordEnd (s : State) (i pc wid : Nat) (c : Ctl) (hc : c.lib = none) :
    WordFrame i id s (wordEnd s i pc wid c) :=
  (((wordFrame_withFlags s i c).trans (wordFrame_passRetry _ i _)).trans (wordFrame_advance _ i pc c hc)).trans
    (signalsOnly_opDone _ i wid).landOnly.wordFrame

theorem WordFrame.keeps {i : Nat} {rest : Tile → Tile} {s s' : State} (h : WordFrame i rest s s') {β : Type} (g : State → β)
    (hg : ∀ s, g (beyondWord s) = g s) : g s' = g s := by
  rw [← hg s', h.beyond, hg]

/-- A part of a tile outside its banks that the end of a word leaves alone. -/
theorem WordFrame.part {i : Nat} {s s' : State} (h : WordFrame i id s s') {β : Type} (g : Tile → β)
    (hg : ∀ t, g (wordPart t) = g t) : g (tileOf s' i) = g (tileOf s i) := by
  rw [← hg (tileOf s' i), show wordPart (tileOf s' i) = wordPart (tileOf s i) from h.tile, hg]

/-- A part of the current bank that the end of a word leaves alone. -/
theorem WordFrame.bank {i : Nat} {s s' : State} (h : WordFrame i id s s') {β : Type} (g : Bank → β)
    (hg : ∀ b, g (wordBank b) = g b) : g (bankOf (tileOf s' i)) = g (bankOf (tileOf s i)) := by
  refine h.part (fun t => g (bankOf t)) fun t => ?_
  unfold wordPart modBank setBank bankOf
  cases hc : t.cur <;> simp [signalPart, hc, hg]

/-! ## The word -/

/-- The one move of the word of a trigger row. -/
def moveOf (dst : Nat) (x : Word) : Moved := { slot := 0, dst := dst, x := x, src := none }

theorem executing_oneMove (s : State) (i dst : Nat) (x : Word) (sg : BitVec 8) :
    executing s i (oneMove dst x sg) = [moveOf dst x] := rfl

/-- The move of the word, made in the state in which it is open. -/
def wordMove (s : State) (i dst : Nat) (x : Word) (sg : BitVec 8) : State × Ctl :=
  let wid := (tileOf (wordBegun s i) i).nextWid
  let r := trigger i (tileOf (wordBegun s i) i).pc wid
    (applyWrites (wordOpen s i sg) i wid (oneMove dst x sg) [moveOf dst x], Ctl.none) (moveOf dst x)
  (applyCcfg r.1 i wid [moveOf dst x], r.2)

theorem clashExc_one (m : Moved) : clashExc [m] = none := by
  have h : clashing [m] m = false := by simp [clashing]
  have h' : [m].find? (clashing [m]) = none := by simp [h]
  simp [clashExc, h']

/-- A word of one move that meets no exception and is not held: begin, move, end. -/
theorem issueOne_acts {s : State} {lti : BitVec 14} (h : Ready s lti) {dst : Nat} {x : Word} {sg : BitVec 8}
    (hm : Movable (tileOf s lti.toNat) dst x) (ha : alignExc (moveOf dst x) = none)
    (he : (wordMove s lti.toNat dst x sg).2.exs = []) (hh : (wordMove s lti.toNat dst x sg).2.hold = false) :
    issueOne s lti.toNat dst x sg =
      finishWord false (wordEnd (wordMove s lti.toNat dst x sg).1 lti.toNat (tileOf (wordBegun s lti.toNat) lti.toNat).pc
        (tileOf (wordBegun s lti.toNat) lti.toNat).nextWid (wordMove s lti.toNat dst x sg).2) lti.toNat
        (wordMove s lti.toNat dst x sg).2 := by
  obtain ⟨hp, hd, hl, hc, hb⟩ := hm
  have hland := landOnly_wordBegun s lti.toNat
  have hloop : (tileOf (wordBegun s lti.toNat) lti.toNat).loopen = (tileOf s lti.toNat).loopen :=
    hland.part Tile.loopen (fun _ => rfl) fun t b => by unfold setBank; cases t.cur <;> rfl
  have hcal : (tileOf (wordBegun s lti.toNat) lti.toNat).calen = (tileOf s lti.toNat).calen :=
    hland.part Tile.calen (fun _ => rfl) fun t b => by unfold setBank; cases t.cur <;> rfl
  have hsup : (tileOf (wordBegun s lti.toNat) lti.toNat).sup = (tileOf s lti.toNat).sup :=
    hland.part Tile.sup (fun _ => rfl) fun t b => by unfold setBank; cases t.cur <;> rfl
  have hw : serge (tileOf (wordBegun s lti.toNat) lti.toNat) = serge (tileOf s lti.toNat) :=
    hland.part serge (fun _ => rfl) fun t b => by unfold setBank; cases t.cur <;> rfl
  have hd' : portDisabled (tileOf (wordBegun s lti.toNat) lti.toNat) dst = false := by
    have h1 : ∀ p, portDisabled (tileOf (wordBegun s lti.toNat) lti.toNat) p = portDisabled (tileOf s lti.toNat) p := by
      intro p; simp only [portDisabled, hloop, hcal]
    rw [h1, hd]
  have hl' : levelOk (tileOf (wordBegun s lti.toNat) lti.toNat) (portLevel dst true) = true := by
    have h1 : ∀ l, levelOk (tileOf (wordBegun s lti.toNat) lti.toNat) l = levelOk (tileOf s lti.toNat) l := by
      intro l; simp only [levelOk, hsup, hw]
    rw [h1, hl]
  have hu : unlistedCall (tileOf (wordBegun s lti.toNat) lti.toNat) (moveOf dst x) = false := by
    by_cases h8 : dst = 0x0F8
    · simp [unlistedCall, moveOf, hc h8]
    · simp [unlistedCall, moveOf, h8]
  have hemu : emuOf (tileOf (wordBegun s lti.toNat) lti.toNat) [moveOf dst x] = 0 := by
    have h1 : reservedSlot (moveOf dst x) = false := by simp [reservedSlot, moveOf, hp]
    have h2 : disabledSlot (tileOf (wordBegun s lti.toNat) lti.toNat) (moveOf dst x) = false := by
      simp [disabledSlot, moveOf, hd']
    simp [emuOf, slotMask, h1, h2, hu, b2n]
  have hearly : ([moveOf dst x].filterMap (privSlot (tileOf (wordBegun s lti.toNat) lti.toNat)) ++
      (clashExc [moveOf dst x]).toList ++ [moveOf dst x].filterMap (mailboxExc (wordBegun s lti.toNat) lti.toNat)) = [] := by
    have h1 : privSlot (tileOf (wordBegun s lti.toNat) lti.toNat) (moveOf dst x) = none := by
      simp [privSlot, moveOf, hl']
    have h2 : mailboxExc (wordBegun s lti.toNat) lti.toNat (moveOf dst x) = none := by
      simp [mailboxExc, moveOf, hb]
    rw [clashExc_one]
    simp [h1, h2]
  unfold issueOne
  rw [atBoundary_ready h]
  change issueMoves (beginCycle (signalMuls s lti.toNat) lti.toNat false) (beginCycle (signalMuls s lti.toNat) lti.toNat false) lti.toNat
    (oneMove dst x sg) none = _
  have hal : [moveOf dst x].filterMap alignExc = [] := by simp [ha]
  have hrun : runWord (wordBegun s lti.toNat) lti.toNat (oneMove dst x sg) =
      .done (advance (passRetry (withFlags (wordMove s lti.toNat dst x sg).1 lti.toNat (wordMove s lti.toNat dst x sg).2)
        lti.toNat (scalarRetry (tileOf (withFlags (wordMove s lti.toNat dst x sg).1 lti.toNat (wordMove s lti.toNat dst x sg).2)
          lti.toNat))) lti.toNat (tileOf (wordBegun s lti.toNat) lti.toNat).pc (wordMove s lti.toNat dst x sg).2)
        (wordMove s lti.toNat dst x sg).2 (tileOf (wordBegun s lti.toNat) lti.toNat).nextWid := by
    unfold runWord
    simp only [executing_oneMove, hemu, hal, hearly, List.nil_append, List.isEmpty_nil, ne_eq, not_true_eq_false,
      decide_false, Bool.and_false, Bool.false_eq_true, if_false]
    have he' : firstExc (wordMove s lti.toNat dst x sg).2.exs = none := by rw [he]; rfl
    change (match firstExc (wordMove s lti.toNat dst x sg).2.exs with
      | some p => WordEnd.exc _ p
      | none => if (wordMove s lti.toNat dst x sg).2.hold = true then WordEnd.held else _) = _
    rw [he', hh]
    rfl
  unfold issueMoves
  simp only [show modTile (landAll (beginCycle (signalMuls s lti.toNat) lti.toNat false) lti.toNat) lti.toNat (fun t => { t with held := 0 }) =
    wordBegun s lti.toNat from rfl, hrun]
  rfl

/-- The program counter a word is issued at. -/
theorem wordBegun_pc (s : State) (i : Nat) : (tileOf (wordBegun s i) i).pc = (tileOf s i).pc :=
  (landOnly_wordBegun s i).part Tile.pc (fun _ => rfl) fun t b => by unfold setBank; cases t.cur <;> rfl

theorem finishWord_plain (s : State) (i : Nat) (c : Ctl) (ht : c.trap = none) (hr : c.ret = false) (hf : c.fend = false) :
    finishWord false s i c = s := by
  simp [finishWord, ht, hr, hf]

/-- The move of a trigger. -/
theorem wordMove_trigger (s : State) (i dst : Nat) (x : Word) (sg : BitVec 8) (h : (trigUnit dst).isSome = true) :
    wordMove s i dst x sg =
      trigger i (tileOf s i).pc (tileOf (wordBegun s i) i).nextWid (wordOpen s i sg, Ctl.none) (moveOf dst x) := by
  have h' : (dst == 0x3CC) = false := by
    rw [beq_eq_false_iff_ne]
    rintro rfl
    exact absurd h (by decide)
  simp [wordMove, applyWrites, applyCcfg, moveOf, Option.isNone_iff_eq_none, Option.isSome_iff_ne_none.mp h, oneMove,
    wordBegun_pc, h']

/-- The move of a port that starts no unit and is not SYS.flags. -/
theorem wordMove_plain (s : State) (i dst : Nat) (x : Word) (sg : BitVec 8) (h : trigUnit dst = none) (hf : dst ≠ 0x3C0) :
    wordMove s i dst x sg = (writePort (wordOpen s i sg) i dst x (tileOf (wordBegun s i) i).nextWid, Ctl.none) := by
  by_cases hc : dst = 0x3CC
  · subst hc
    simp [wordMove, applyWrites, applyCcfg, moveOf, h, oneMove, trigger]
  · cases hw : isW1c dst <;>
      simp [wordMove, applyWrites, applyCcfg, moveOf, h, oneMove, trigger, hf, hc, hw]

/-- A word whose move asks nothing of the control processor but flags or a jump. -/
theorem issueOne_plain {s : State} {lti : BitVec 14} (h : Ready s lti) {dst : Nat} {x : Word} {sg : BitVec 8}
    (hm : Movable (tileOf s lti.toNat) dst x) (ha : alignExc (moveOf dst x) = none) {r : State} {c : Ctl}
    (hw : wordMove s lti.toNat dst x sg = (r, c))
    (he : c.exs = []) (hh : c.hold = false) (ht : c.trap = none) (hr : c.ret = false) (hf : c.fend = false) :
    issueOne s lti.toNat dst x sg =
      wordEnd r lti.toNat (tileOf s lti.toNat).pc (tileOf (wordBegun s lti.toNat) lti.toNat).nextWid c := by
  have h1 := issueOne_acts h (dst := dst) (x := x) (sg := sg) hm ha (by rw [hw]; exact he) (by rw [hw]; exact hh)
  rw [h1, finishWord_plain _ _ _ (by rw [hw]; exact ht) (by rw [hw]; exact hr) (by rw [hw]; exact hf), hw, wordBegun_pc]

/-- The current bank of the state in which a word is open. -/
theorem bankOf_wordOpen (s : State) (i : Nat) (sg : BitVec 8) :
    bankOf (tileOf (wordOpen s i sg) i) = bankOf (tileOf (wordBegun s i) i) := by
  unfold wordOpen
  rw [tileOf_setTile, if_pos rfl]
  rfl

/-! ## The current bank through a word -/

/-- A product written into its ports. -/
def withProduct (b : Bank) (p : Product) : Bank :=
  { b with mullo := p.val.extractLsb' 0 64, mulhi := p.val.extractLsb' 64 64 }

theorem bankOf_foldl_landProduct (i : Nat) (l : List Product) (s : State) :
    bankOf (tileOf (l.foldl (landProduct i) s) i) = l.foldl withProduct (bankOf (tileOf s i)) := by
  induction l generalizing s with
  | nil => rfl
  | cons p l ih =>
    rw [List.foldl_cons, ih, List.foldl_cons]
    congr 1
    unfold landProduct
    rw [(signalsOnly_opDone _ i p.wid).bank, tileOf_modTile_self, bankOf_modBank]
    rfl

theorem foldl_withProduct (l : List Product) (b : Bank) :
    l.foldl withProduct b =
      { b with
        mullo := (match l.getLast? with | some p => p.val.extractLsb' 0 64 | none => b.mullo)
        mulhi := (match l.getLast? with | some p => p.val.extractLsb' 64 64 | none => b.mulhi) } := by
  induction l generalizing b with
  | nil => rfl
  | cons p l ih =>
    rw [List.foldl_cons, ih]
    cases l with
    | nil => rfl
    | cons q l =>
      rw [List.getLast?_cons_cons, List.getLast?_eq_some_getLast (List.cons_ne_nil q l)]
      rfl

/-- A signal leaves the results in flight as near as they were. -/
theorem SignalsOnly.cyclesPassed {i : Nat} {s s' : State} (h : SignalsOnly i s s') : cyclesPassed s' i = cyclesPassed s i := by
  have h1 := h.field Tile.landed fun _ => rfl
  have h2 := h.field Tile.resume fun _ => rfl
  simp only [Machine.cyclesPassed, h.fr, h1, h2]

/-- A product that has signalled, when its cycles are over after d. -/
def signalled (d : Nat) (p : Product) : Product := if (decide (p.rem ≤ d) && p.wid != 0) = true then { p with wid := 0 } else p

theorem signalled_rem (d : Nat) (p : Product) : (signalled d p).rem = p.rem := by unfold signalled; split <;> rfl
theorem signalled_val (d : Nat) (p : Product) : (signalled d p).val = p.val := by unfold signalled; split <;> rfl

theorem signalled_later {d : Nat} {p : Product} (h : d < p.rem) : signalled d p = p := by
  unfold signalled
  rw [if_neg]
  simp
  omega

/-- The state in which the products of a tile that become readable have been marked, before their signals. -/
theorem signalMuls_parts (s : State) (i : Nat) :
    bankOf (tileOf (signalMuls s i) i) =
      { bankOf (tileOf s i) with mulp := (bankOf (tileOf s i)).mulp.map (signalled (cyclesPassed s i)) } ∧
    cyclesPassed (signalMuls s i) i = cyclesPassed s i := by
  unfold signalMuls
  dsimp only
  have h := signalsOnly_foldl i _ (fun s (p : Product) => signalsOnly_opDone s i p.wid)
    ((bankOf (tileOf s i)).mulp.filter fun p => decide (p.rem ≤ cyclesPassed s i) && p.wid != 0)
    (modTile s i fun t => modBank t fun b =>
      { b with mulp := b.mulp.map fun p => if (decide (p.rem ≤ cyclesPassed s i) && p.wid != 0) = true then { p with wid := 0 } else p })
  constructor
  · rw [h.bank, tileOf_modTile_self, bankOf_modBank]
    rfl
  · rw [h.cyclesPassed]
    simp only [cyclesPassed, tileOf_modTile_self]
    have hl : ∀ (t : Tile) g, (modBank t g).landed = t.landed ∧ (modBank t g).resume = t.resume := by
      intro t g
      unfold modBank setBank
      cases t.cur <;> exact ⟨rfl, rfl⟩
    rw [(hl _ _).1, (hl _ _).2]
    rfl

/-- The bank in which the moves of a word are made: earlier results have landed. -/
theorem bankOf_wordBegun (s : State) (i : Nat) :
    let b := bankOf (tileOf s i)
    let d := cyclesPassed s i
    let l := b.mulp.filter fun p => decide (p.rem ≤ d)
    bankOf (tileOf (wordBegun s i) i) =
      { b with
        al0r := (landOne d b.al0p b.al0r).1
        al0p := (landOne d b.al0p b.al0r).2
        al1r := (landOne d b.al1p b.al1r).1
        al1p := (landOne d b.al1p b.al1r).2
        flags := flagsNow b
        flagsNext := none
        mullo := (match l.getLast? with | some p => p.val.extractLsb' 0 64 | none => b.mullo)
        mulhi := (match l.getLast? with | some p => p.val.extractLsb' 64 64 | none => b.mulhi)
        mulp := (b.mulp.filter fun p => decide (d < p.rem)).map fun p => { p with rem := p.rem - d } } := by
  intro b d l
  have hl : ∀ (t : Tile) c r, bankOf { t with landed := c, resume := r } = bankOf t := fun _ _ _ => rfl
  have hh : ∀ t : Tile, bankOf { t with held := 0 } = bankOf t := fun _ => rfl
  have hs := signalMuls_parts s i
  have hb := signalsOnly_beginCycle (signalMuls s i) i false
  have h : bankOf (tileOf (wordBegun s i) i) =
      landAlu d { ((b.mulp.map (signalled d)).filter fun p => decide (p.rem ≤ d)).foldl withProduct
        { b with mulp := b.mulp.map (signalled d) } with
        mulp := (b.mulp.map (signalled d)).filter fun p => decide (d < p.rem) } := by
    unfold wordBegun landAll
    dsimp only
    rw [tileOf_modTile_self, hh, tileOf_modTile_self, hl, bankOf_modBank, bankOf_foldl_landProduct, hb.bank, hb.cyclesPassed, hs.1, hs.2]
  have h1 : (b.mulp.map (signalled d)).filter (fun p => decide (p.rem ≤ d)) = l.map (signalled d) := by
    rw [List.filter_map]
    congr 1
    exact List.filter_congr fun p _ => by simp [Function.comp, signalled_rem]
  have h2 : (b.mulp.map (signalled d)).filter (fun p => decide (d < p.rem)) = b.mulp.filter fun p => decide (d < p.rem) := by
    rw [List.filter_map, List.filter_congr (q := fun p => decide (d < p.rem)) fun p _ => by simp [Function.comp, signalled_rem]]
    conv => rhs; rw [← List.map_id (b.mulp.filter fun p => decide (d < p.rem))]
    refine List.map_congr_left fun p hp => ?_
    exact signalled_later (by simpa using (List.mem_filter.mp hp).2)
  rw [h, foldl_withProduct, h1, h2, List.getLast?_map]
  simp only [landAlu, flagsNow]
  cases l.getLast? <;> cases b.flagsNext <;> simp [signalled_val]

/-- The loop levels and the next address after a word. -/
def flowOf (loops : List LoopLevel) (pc : Nat) (c : Ctl) : List LoopLevel × Nat :=
  match c.jump with
  | some a => (loops, a)
  | none => ((backEdge pc 4 loops).1,
      match (backEdge pc 4 loops).2 with
      | some a => a
      | none => match c.skip with
        | some a => a
        | none => (wOf pc + 16).toNat)

theorem bankOf_withFlags (s : State) (i : Nat) (c : Ctl) :
    bankOf (tileOf (withFlags s i c) i) =
      { bankOf (tileOf s i) with
        flagsNext := match c.flags with | some (_, f) => some f | none => (bankOf (tileOf s i)).flagsNext } := by
  unfold withFlags
  split
  · rw [modBk, tileOf_modTile_self, bankOf_modBank]
  · rfl

theorem bankOf_passRetry (s : State) (i : Nat) (p : Retry → Bool) :
    bankOf (tileOf (passRetry s i p) i) = bankOf (tileOf s i) := by
  unfold passRetry
  dsimp only
  split
  · rfl
  · show bankOf (tileOf (modTile s i fun t => { t with retry := t.retry.filter fun r => !p r }) i) = _
    rw [tileOf_modTile_self]
    rfl

/-- The current bank after the end of a word that calls no routine. -/
theorem bankOf_wordEnd (s : State) (i pc wid : Nat) (c : Ctl) (hc : c.lib = none) :
    bankOf (tileOf (wordEnd s i pc wid c) i) =
      { bankOf (tileOf s i) with
        flagsNext := match c.flags with | some (_, f) => some f | none => (bankOf (tileOf s i)).flagsNext
        loops := (flowOf (bankOf (tileOf s i)).loops pc c).1
        waited := none } := by
  unfold wordEnd closeWord
  rw [(signalsOnly_opDone _ i wid).bank]
  unfold advance
  dsimp only
  rw [hc]
  dsimp only
  rw [tileOf_modTile_self]
  have h : ∀ (t : Tile) p l m h c, bankOf { t with pc := p, line0 := l, missedAt := m, held := h, cache := c } = bankOf t :=
    fun _ _ _ _ _ _ => rfl
  rw [h, bankOf_modBank, bankOf_passRetry, bankOf_withFlags]
  unfold flowOf
  cases c.jump <;> rfl

/-- The address of the next word after the end of a word that calls no routine. -/
theorem pc_wordEnd (s : State) (i pc wid : Nat) (c : Ctl) (hc : c.lib = none) :
    (tileOf (wordEnd s i pc wid c) i).pc = (flowOf (bankOf (tileOf s i)).loops pc c).2 := by
  unfold wordEnd closeWord
  rw [(signalsOnly_opDone _ i wid).field Tile.pc fun _ => rfl]
  unfold advance
  dsimp only
  rw [hc]
  dsimp only
  rw [tileOf_modTile_self]
  dsimp only
  rw [bankOf_passRetry, bankOf_withFlags]
  unfold flowOf
  cases c.jump <;> rfl

/-- A word of one move that asks nothing of the control processor but flags, a jump or a skip: it issues, its frame is that of
its move, and its bank and next address follow from those the move leaves. -/
theorem issue_word {s : State} {lti : BitVec 14} (h : Ready s lti) {dst : Nat} {x : Word} {sg : BitVec 8}
    (hm : Movable (tileOf s lti.toNat) dst x) (ha : alignExc (moveOf dst x) = none) {r : State} {c : Ctl}
    (hw : wordMove s lti.toNat dst x sg = (r, c))
    (he : c.exs = []) (hh : c.hold = false) (ht : c.trap = none) (hr : c.ret = false) (hf : c.fend = false)
    (hl : c.lib = none) (rest : Tile → Tile) (hfr : WordFrame lti.toNat rest (wordOpen s lti.toNat sg) r) :
    ∃ t, onTile lti s (fun i s => issueOne s i dst x sg) = .next t ∧ WordFrame lti.toNat rest s t ∧
      bankIn t lti.toNat = { bankIn r lti.toNat with
        flagsNext := match c.flags with | some (_, f) => some f | none => (bankIn r lti.toNat).flagsNext
        loops := (flowOf (bankIn r lti.toNat).loops (tileOf s lti.toNat).pc c).1
        waited := none } ∧
      (tileOf t lti.toNat).pc = (flowOf (bankIn r lti.toNat).loops (tileOf s lti.toNat).pc c).2 := by
  have hi := issueOne_plain h hm ha hw he hh ht hr hf
  refine ⟨_, onTile_clocked h.clocked _, ?_, ?_, ?_⟩
  · rw [hi]
    exact (((landOnly_wordOpen s _ sg).wordFrame.mono rest).trans hfr).trans ((wordFrame_wordEnd _ _ _ _ _ hl).mono rest)
  · rw [hi]
    exact bankOf_wordEnd _ _ _ _ _ hl
  · rw [hi]
    exact pc_wordEnd _ _ _ _ _ hl

end Sys2Proof.Machine
end

