-- ==== Sys2Proof/Laws/Memory.lean ====
section
/-! SUPPORT. What the operations over memory do: each keeps the canonical form, leaves every other part of the machine as it is, and
a byte of a tile store or of Calico RAM reads as the last write left it. -/

namespace Sys2Proof.Machine

open Sys2Proof

/-- A write of memory has kept its canonical form and the parts of the machine that say what an address names. -/
structure MemoryWritten (s t : State) : Prop where
  wf : Memory.wf s.ms.mem = true → Memory.wf t.ms.mem = true
  frames : t.fr = s.fr
  tiles : t.tiles = s.tiles
  clusters : t.clusters = s.clusters
  dies : t.dies = s.dies
  owner : t.ms.owner = s.ms.owner

theorem MemoryWritten.refl (s : State) : MemoryWritten s s := ⟨id, rfl, rfl, rfl, rfl, rfl⟩

theorem MemoryWritten.trans {a b c : State} (h : MemoryWritten a b) (h' : MemoryWritten b c) : MemoryWritten a c :=
  ⟨h'.wf ∘ h.wf, h'.frames.trans h.frames, h'.tiles.trans h.tiles, h'.clusters.trans h.clusters, h'.dies.trans h.dies,
    h'.owner.trans h.owner⟩

theorem memoryWritten_putByte (s : State) (pa : Nat) (b : Byte) : MemoryWritten s (putByte s pa b) := by
  unfold putByte
  split <;> first | exact ⟨smWf_smSet 0 _ b, rfl, rfl, rfl, rfl, rfl⟩ | exact .refl s

theorem memoryWritten_putBytes (s : State) (pa : Nat) (bs : List Byte) : MemoryWritten s (putBytes s pa bs) := by
  induction bs generalizing s pa with
  | nil => exact .refl s
  | cons b bs ih => exact (memoryWritten_putByte s pa b).trans (ih _ _)

/-- An operation that leaves memory, frames, units and ownership as they are. -/
theorem MemoryWritten.of_eq {s t : State} (h : t.ms.mem = s.ms.mem) (hf : t.fr = s.fr) (ht : t.tiles = s.tiles)
    (hc : t.clusters = s.clusters) (hd : t.dies = s.dies) (ho : t.ms.owner = s.ms.owner) : MemoryWritten s t :=
  ⟨fun w => h ▸ w, hf, ht, hc, hd, ho⟩

theorem memoryWritten_logTo (q : Nat) (e : LogEntry) (s : State) : MemoryWritten s (logTo q e s) := by
  unfold logTo
  dsimp only
  split <;> exact .of_eq rfl rfl rfl rfl rfl rfl

theorem memoryWritten_logErr (code sev src idx d1 : Nat) (d2 : Word) (s : State) :
    MemoryWritten s (logErr code sev src idx d1 d2 s) := memoryWritten_logTo _ _ s

theorem memoryWritten_logOnce (code sev src idx d1 : Nat) (d2 : Word) (s : State) :
    MemoryWritten s (logOnce code sev src idx d1 d2 s) := by
  unfold logOnce
  dsimp only
  split
  · exact .refl s
  · refine MemoryWritten.trans ?_ (memoryWritten_logErr ..)
    exact .of_eq rfl rfl rfl rfl rfl rfl

theorem memoryWritten_setChan (s : State) (c : Nat) (x : Chan) : MemoryWritten s (setChan s c x) :=
  .of_eq rfl rfl rfl rfl rfl rfl

theorem memoryWritten_setErr (s : State) (k : Nat) (e : List (BitVec 32)) : MemoryWritten s (setErr s k e) :=
  .of_eq rfl rfl rfl rfl rfl rfl

theorem memoryWritten_noteCorrected (s : State) (c j pa : Nat) : MemoryWritten s (noteCorrected s c j pa) := by
  unfold noteCorrected
  refine MemoryWritten.trans ?_ (memoryWritten_logOnce ..)
  exact .of_eq rfl rfl rfl rfl rfl rfl

theorem memoryWritten_noteRead (s : State) (pa : Nat) : MemoryWritten s (noteRead s pa) := by
  unfold noteRead
  split
  · exact memoryWritten_noteCorrected ..
  · exact .refl s

theorem memoryWritten_snapReads (s : State) (k c pa : Nat) : MemoryWritten s (snapReads s k c pa) := by
  unfold snapReads
  dsimp only
  split
  · exact .refl s
  · exact memoryWritten_setChan ..

theorem memoryWritten_joinMerge (s : State) (c k pa : Nat) (cx : BitVec 12) (bs : List Byte) :
    MemoryWritten s (joinMerge s c k pa cx bs) := memoryWritten_setChan ..

theorem memoryWritten_rewriteLine (s : State) (k pa : Nat) : MemoryWritten s (rewriteLine s k pa) := by
  unfold rewriteLine
  split
  · exact .refl s
  · exact ((memoryWritten_noteRead s pa).trans (memoryWritten_setErr _ k [])).trans (memoryWritten_putBytes _ _ _)

/-- The parts of a machine that a write keeps do not depend on which of two writes is made. -/
theorem MemoryWritten.ite {c : Prop} [Decidable c] {s t u : State} (h : MemoryWritten s t) (h' : MemoryWritten s u) :
    MemoryWritten s (if c then t else u) := by
  split
  · exact h
  · exact h'

theorem memoryWritten_writeLine (s : State) (cx : BitVec 12) (pa : Nat) (bs : List Byte) :
    MemoryWritten s (writeLine s cx pa bs) := by
  unfold writeLine
  dsimp only
  refine (memoryWritten_snapReads s (badKey s pa) (chanIdx s.fr.ilv pa) pa).trans ?_
  generalize snapReads s (badKey s pa) (chanIdx s.fr.ilv pa) pa = s1
  split
  · refine MemoryWritten.trans (MemoryWritten.trans (.ite (memoryWritten_setChan ..) (.refl s1))
      (.ite (memoryWritten_setErr ..) (.refl _))) (memoryWritten_putBytes _ _ _)
  · split
    · split
      · exact memoryWritten_joinMerge ..
      · have h1 : MemoryWritten s1 (countUncorrectable s1 (chanIdx s.fr.ilv pa)) := .of_eq rfl rfl rfl rfl rfl rfl
        have h2 := h1.trans (memoryWritten_logErr 0x21 3 2 (chanIdx s.fr.ilv pa) cx.toNat (wOf pa) _)
        refine MemoryWritten.trans (h2.trans ?_) (memoryWritten_logErr ..)
        exact .of_eq rfl rfl rfl rfl rfl rfl
    · split
      · exact (memoryWritten_joinMerge ..).trans (memoryWritten_putBytes _ _ _)
      · exact MemoryWritten.trans (.ite (.refl s1) (memoryWritten_rewriteLine ..)) (memoryWritten_putBytes _ _ _)

theorem memoryWritten_correctWord (s : State) (w : Nat) : MemoryWritten s (correctWord s w) := by
  unfold correctWord
  split
  · refine MemoryWritten.trans ?_ (memoryWritten_logOnce ..)
    exact .of_eq rfl rfl rfl rfl rfl rfl
  · exact .refl s

theorem memoryWritten_correctWords (s : State) (pa n : Nat) : MemoryWritten s (correctWords s pa n) := by
  unfold correctWords
  generalize s.ms.soft.filter _ = l
  induction l generalizing s with
  | nil => exact .refl s
  | cons w l ih => exact (memoryWritten_correctWord s w).trans (ih _)

theorem memoryWritten_writeStore (s : State) (pa : Nat) (bs : List Byte) : MemoryWritten s (writeStore s pa bs) := by
  unfold writeStore
  refine MemoryWritten.trans (MemoryWritten.trans (b := wholeWords s pa bs.length) ?_ (memoryWritten_correctWords _ pa _))
    (memoryWritten_putBytes _ _ _)
  exact .of_eq rfl rfl rfl rfl rfl rfl

theorem memoryWritten_hostTouch (s : State) (cx : BitVec 12) (x : Nat) : MemoryWritten s (hostTouch cx x s) := by
  unfold hostTouch
  dsimp only
  split <;> first | exact .refl s | exact .of_eq rfl rfl rfl rfl rfl rfl

theorem memoryWritten_hostTouches (s : State) (cx : BitVec 12) (x n : Nat) : MemoryWritten s (hostTouches cx x n s) := by
  have h : ∀ (l : List Nat) (s : State),
      MemoryWritten s (l.foldl (fun s j => hostTouch cx (x / 64 * 64 + 64 * j) s) s) := by
    intro l
    induction l with
    | nil => exact .refl
    | cons j l ih => exact fun s => (memoryWritten_hostTouch s cx _).trans (ih _)
  exact h _ s

theorem memoryWritten_hostFailOpen (s : State) (addr : Nat) : MemoryWritten s (hostFailOpen addr s) := by
  unfold hostFailOpen takeFree hostFail
  refine MemoryWritten.trans ?_ (memoryWritten_logErr ..)
  exact .of_eq rfl rfl rfl rfl rfl rfl

theorem memoryWritten_hostWriteOut (s : State) (cx : BitVec 12) (x : Nat) (bs : List Byte) :
    MemoryWritten s (hostWriteOut cx x bs s) := by
  unfold hostWriteOut
  dsimp only
  split
  · exact (memoryWritten_hostTouches s cx x _).trans (.of_eq rfl rfl rfl rfl rfl rfl)
  · exact (memoryWritten_hostTouches s cx x _).trans (memoryWritten_hostFailOpen _ _)

/-- A granted write of a whole access. -/
theorem memoryWritten_performWrite (cx : BitVec 12) (n : Nat) (s : State) (pa : Nat) (bs : List Byte) :
    MemoryWritten s (performWrite cx n s pa bs) := by
  induction n generalizing s pa bs with
  | zero => exact .refl s
  | succ n ih =>
    simp only [performWrite]
    split
    · exact .refl s
    · split
      · exact (memoryWritten_writeLine ..).trans (ih _ _ _)
      · exact memoryWritten_hostWriteOut ..
      · exact (memoryWritten_writeStore ..).trans (ih _ _ _)

theorem memoryWritten_checkedWrite {s t : State} {a : Acc} {pa : Nat} {bs : List Byte} (h : checkedWrite s a pa bs = .ok t) :
    MemoryWritten s t := by
  unfold checkedWrite at h
  split at h
  · cases h
  · cases h
    exact memoryWritten_performWrite ..

theorem MemoryWritten.setRel {s t : State} (h : MemoryWritten s t) (r : Reliab) : MemoryWritten s { t with rel := r } :=
  h.trans (.of_eq rfl rfl rfl rfl rfl rfl)

/-- A write that is dropped when it is refused. -/
theorem memoryWritten_tryWrite (s : State) (a : Acc) (pa : Nat) (bs : List Byte) :
    MemoryWritten s (match checkedWrite s a pa bs with | .ok t => t | .error _ => s) := by
  split
  · next h => exact memoryWritten_checkedWrite h
  · exact .refl s

/-- A trace record that leaves. -/
theorem memoryWritten_traceWrite (src idx : Nat) (s : State) : MemoryWritten s (traceWrite src idx s) := by
  unfold traceWrite
  dsimp only [takeFree]
  refine MemoryWritten.trans (b := { s with freeCtr := s.freeCtr + 1 + 1 + 1 }) (.of_eq rfl rfl rfl rfl rfl rfl) ?_
  exact (memoryWritten_tryWrite _ _ _ _).setRel _

/-- A trace record. -/
theorem memoryWritten_trace (src idx : Nat) (s : State) : MemoryWritten s (trace src idx s) := by
  unfold trace
  dsimp only
  refine .ite (.refl s) (.ite ((MemoryWritten.refl s).setRel _) ?_)
  exact ((MemoryWritten.refl s).setRel _).trans (memoryWritten_traceWrite ..)

theorem memoryWritten_raiseIrq (v : Nat) (s : State) : MemoryWritten s (raiseIrq v s) := by
  unfold raiseIrq msixSend
  dsimp only
  refine .ite (.refl s) (.ite (.of_eq rfl rfl rfl rfl rfl rfl) (.ite (.of_eq rfl rfl rfl rfl rfl rfl) (.ite (.of_eq rfl rfl rfl rfl rfl rfl) ?_)))
  refine MemoryWritten.trans ?_ (memoryWritten_trace ..)
  exact .of_eq rfl rfl rfl rfl rfl rfl

/-- A granule that is cleared. -/
theorem Memory.wf_filter {m : List Host.Cell} (p : Host.Cell → Bool) (h : Memory.wf m = true) : Memory.wf (m.filter p) = true :=
  smWf_filter 0 p h

theorem memory_reset_wf : Memory.wf State.reset.ms.mem = true := rfl

/-- A byte of a tile store reads as it was written, and a write leaves every other one alone. -/
theorem readByte_putByte_store {s : State} {pa m off : Nat} (h : paClass pa = .store m off) (b : Byte) :
    readByte (putByte s pa b) pa = b := by
  simp only [readByte, putByte, h]
  exact smGet_smSet_self 0 s.ms.mem pa b

theorem readByte_putByte_other {s : State} {pa a m off m' off' : Nat} (h : paClass pa = .store m off)
    (h' : paClass a = .store m' off') (hne : a ≠ pa) (b : Byte) : readByte (putByte s pa b) a = readByte s a := by
  simp only [readByte, putByte, h, h']
  exact smGet_smSet_ne 0 s.ms.mem pa a b hne

/-- Without memory, the errors of its lines, pending merges or interleave changed, every byte reads as before. -/
theorem MemoryKept.of_eq {s t : State} (hm : t.ms.mem = s.ms.mem) (he : t.ms.errs = s.ms.errs) (hb : t.ms.bad = s.ms.bad)
    (hc : t.ms.chans = s.ms.chans) (hf : t.fr.ilv = s.fr.ilv) : MemoryKept s t := by
  intro a
  unfold readByte readErr lineErr badKey memKey chanOf
  rw [hm, he, hb, hc, hf]

end Sys2Proof.Machine
end

