-- ==== Sys2Proof/WellFormed.lean ====
section
/-! DEFINITION. Which commands a sender can form: the units they name exist (R11, R12, R20, R23) and their lengths are those
of the transfers that carry them. A command that names a unit the part does not have faults. -/

namespace Sys2Proof

/-- R12: a logical tile index. -/
def tileOk (lti : BitVec 14) : Bool := decide (lti.toNat < 10240)

/-- R20: a region. -/
def regionOk (r : BitVec 8) : Bool := decide (r.toNat < 160)

/-- R305: the payload of a flit is 256 bytes. -/
def payloadOk (p : List Byte) : Bool := decide (p.length = 256)

/-- R245: a request stays in one line and carries data when it writes. -/
def reqOk (r : MemReq) : Bool :=
  decide (0 < r.len ∧ r.pa % 64 + r.len ≤ 64 ∧ r.data.length = if r.write then r.len else 0)

/-- R317: a host read of 1 to 4,096 bytes. -/
def hostReadOk (n : BitVec 13) : Bool := decide (0 < n.toNat ∧ n.toNat ≤ 4096)

/-- R317: a host write of 1 to 256 bytes. -/
def hostWriteOk (bs : List Byte) : Bool := decide (0 < bs.length ∧ bs.length ≤ 256)

/-- R11, R394: a word of a tile store. -/
def faultOk : ParityFault → Bool
  | .storeBit off => decide (off.toNat < 786432)
  | .storeWord off => decide (off.toNat < 786432)
  | _ => true

/-- Whether a command is well-formed. -/
def wellFormed (i : Instr) : Bool :=
  match i with
  | .frameInEdge _ => true
  | .wedge lti => tileOk lti
  | .issueWord lti => tileOk lti
  | .registerWrite lti _ _ _ => tileOk lti
  | .alAdd lti _ _ _ => tileOk lti
  | .alAdc lti _ _ _ => tileOk lti
  | .alSub lti _ _ _ => tileOk lti
  | .alSbc lti _ _ _ => tileOk lti
  | .alAnd lti _ _ _ => tileOk lti
  | .alOr lti _ _ _ => tileOk lti
  | .alXor lti _ _ _ => tileOk lti
  | .alAndn lti _ _ _ => tileOk lti
  | .alShl lti _ _ _ => tileOk lti
  | .alShr lti _ _ _ => tileOk lti
  | .alSar lti _ _ _ => tileOk lti
  | .alCmp lti _ _ _ => tileOk lti
  | .alMin lti _ _ _ => tileOk lti
  | .alMax lti _ _ _ => tileOk lti
  | .alMinu lti _ _ _ => tileOk lti
  | .alMaxu lti _ _ _ => tileOk lti
  | .alResult lti _ => tileOk lti
  | .mulMul lti _ _ => tileOk lti
  | .mulMulu lti _ _ => tileOk lti
  | .mulMulsu lti _ _ => tileOk lti
  | .mulProduct lti => tileOk lti
  | .divDiv lti _ _ => tileOk lti
  | .divDivu lti _ _ => tileOk lti
  | .divComplete lti => tileOk lti
  | .lsuLd lti _ _ _ => tileOk lti
  | .lsuSt lti _ _ => tileOk lti
  | .lsuPf lti _ _ => tileOk lti
  | .lsuFence lti _ _ => tileOk lti
  | .loadResult lti _ => tileOk lti
  | .storeHandoff lti => tileOk lti
  | .storePerformed lti => tileOk lti
  | .cacheLineFill lti _ => tileOk lti
  | .tlbWalkComplete lti _ => tileOk lti
  | .asyncDataAbort lti => tileOk lti
  | .deterministicOverload lti => tileOk lti
  | .brJ lti _ _ => tileOk lti
  | .brJr lti _ _ => tileOk lti
  | .brCall lti _ _ => tileOk lti
  | .brCallr lti _ _ => tileOk lti
  | .brConditional lti _ _ _ => tileOk lti
  | .cbCompareBranch lti _ _ _ => tileOk lti
  | .loopStart lti _ _ => tileOk lti
  | .loopBrk lti _ _ => tileOk lti
  | .libCall lti _ _ => tileOk lti
  | .wsFset lti _ _ => tileOk lti
  | .wsFclr lti _ _ => tileOk lti
  | .wsCounterWrite lti _ _ _ => tileOk lti
  | .sysFend lti _ _ => tileOk lti
  | .frameEndDrained lti => tileOk lti
  | .sysPhint lti _ _ => tileOk lti
  | .sysCinv lti _ _ => tileOk lti
  | .cacheInvalidateComplete lti => tileOk lti
  | .sysIcpatch lti _ _ => tileOk lti
  | .sysIcflush lti _ _ => tileOk lti
  | .icflushComplete lti => tileOk lti
  | .sysXret lti _ _ => tileOk lti
  | .sysNi lti _ _ => tileOk lti
  | .niWindowExpire lti => tileOk lti
  | .sysTrap lti _ _ => tileOk lti
  | .sysTlbs lti _ _ => tileOk lti
  | .sysHostirq lti _ _ => tileOk lti
  | .hostirqSent lti => tileOk lti
  | .xtbWrite lti _ _ _ => tileOk lti
  | .handlerTableLatched lti _ => tileOk lti
  | .sysCcfgWrite lti _ _ => tileOk lti
  | .interruptEntry lti => tileOk lti
  | .vxVlWrite lti _ _ => tileOk lti
  | .vxAdd lti _ _ => tileOk lti
  | .vxSub lti _ _ => tileOk lti
  | .vxMul lti _ _ => tileOk lti
  | .vxFma lti _ _ => tileOk lti
  | .vxFms lti _ _ => tileOk lti
  | .vxFnma lti _ _ => tileOk lti
  | .vxMin lti _ _ => tileOk lti
  | .vxMax lti _ _ => tileOk lti
  | .vxAbs lti _ _ => tileOk lti
  | .vxNeg lti _ _ => tileOk lti
  | .vxRcpe lti _ _ => tileOk lti
  | .vxRsqe lti _ _ => tileOk lti
  | .vxAnd lti _ _ => tileOk lti
  | .vxOr lti _ _ => tileOk lti
  | .vxXor lti _ _ => tileOk lti
  | .vxShl lti _ _ => tileOk lti
  | .vxShr lti _ _ => tileOk lti
  | .vxSar lti _ _ => tileOk lti
  | .vxMov lti _ _ => tileOk lti
  | .vxCmp lti _ _ => tileOk lti
  | .vxMand lti _ _ => tileOk lti
  | .vxMor lti _ _ => tileOk lti
  | .vxMxor lti _ _ => tileOk lti
  | .vxMandn lti _ _ => tileOk lti
  | .vxMpop lti _ _ => tileOk lti
  | .vxMfirst lti _ _ => tileOk lti
  | .vxRsum lti _ _ => tileOk lti
  | .vxRmax lti _ _ => tileOk lti
  | .vxRmin lti _ _ => tileOk lti
  | .vxPerm lti _ _ => tileOk lti
  | .vxIlv lti _ _ => tileOk lti
  | .vxDlve lti _ _ => tileOk lti
  | .vxDlvo lti _ _ => tileOk lti
  | .vxRot lti _ _ => tileOk lti
  | .vxBfly lti _ _ => tileOk lti
  | .vxPack lti _ _ => tileOk lti
  | .vxUnpack lti _ _ => tileOk lti
  | .vxLd lti _ _ => tileOk lti
  | .vxSt lti _ _ => tileOk lti
  | .vxGth lti _ _ => tileOk lti
  | .vxSct lti _ _ => tileOk lti
  | .vxExt lti _ _ => tileOk lti
  | .vxIns lti _ _ => tileOk lti
  | .vxOpStart lti => tileOk lti
  | .vxOpComplete lti => tileOk lti
  | .vectorDataAbort lti => tileOk lti
  | .mxMma lti _ _ => tileOk lti
  | .mxDrain lti _ _ => tileOk lti
  | .mxLut lti _ _ => tileOk lti
  | .mxSave lti _ _ => tileOk lti
  | .mxRestore lti _ _ => tileOk lti
  | .mxOpStart lti _ => tileOk lti
  | .mxMmaComplete lti => tileOk lti
  | .mxDrainComplete lti => tileOk lti
  | .mxLutComplete lti => tileOk lti
  | .mxSaveComplete lti => tileOk lti
  | .mxRestoreComplete lti => tileOk lti
  | .mxOverflowReplay lti => tileOk lti
  | .cvCvt lti _ _ => tileOk lti
  | .cvNode lti _ _ => tileOk lti
  | .cvMwu lti _ _ => tileOk lti
  | .cvHpush lti _ _ => tileOk lti
  | .cvSlot lti _ _ => tileOk lti
  | .cvOpStart lti => tileOk lti
  | .cvOpComplete lti => tileOk lti
  | .meshSend lti _ _ => tileOk lti
  | .meshPut lti _ _ => tileOk lti
  | .meshMailboxWrite lti _ _ _ => tileOk lti
  | .messageDelivery lti => tileOk lti
  | .remoteOpCompletion lti _ _ => tileOk lti
  | .remoteOpTimeout lti _ => tileOk lti
  | .lsuDma lti _ _ => tileOk lti
  | .dmaDescriptorRead lti => tileOk lti
  | .dmaAccept region _ => regionOk region
  | .dmaStart region _ => regionOk region
  | .dmaUnitPerformed region _ => regionOk region
  | .dmaTransferComplete region _ => regionOk region
  | .dmaUnitFail region _ => regionOk region
  | .dmaExpiry region _ => regionOk region
  | .hotPageLogAppend _ => true
  | .residueFault lti _ => tileOk lti
  | .parityFaultRetire lti fault => tileOk lti && faultOk fault
  | .spareRemap cluster => decide (cluster.toNat < 640)
  | .deviceFault _ => true
  | .memRequestAccept reqs => reqs.all reqOk
  | .burstSlot _ _ => true
  | .partialWriteMerge _ _ => true
  | .lcReadAgeLimit _ => true
  | .writeAgeLimit _ => true
  | .memRefresh _ _ => true
  | .patrolScrub _ _ _ => true
  | .marginingCommand _ _ => true
  | .marginingComplete margins => decide (margins.length = 19 ∨ margins.length = 64 * 19)
  | .repairCommand _ _ => true
  | .contextRootRecords _ _ => true
  | .ownershipRecords _ _ => true
  | .shootdownRequest _ _ => true
  | .dieRouteWrite _ _ _ => true
  | .twillFlitReceive _ _ payload => payloadOk payload
  | .twillPutReceive _ _ payload => payloadOk payload
  | .twillMessageReceive _ _ payload => payloadOk payload
  | .tickFlitReceive _ _ _ => true
  | .beacon _ _ _ => true
  | .joinFlit _ _ => true
  | .statusFlit _ => true
  | .leaveFlit _ => true
  | .candidate _ _ _ _ => true
  | .managementFlit _ _ payload => payloadOk payload
  | .departureDeclared _ => true
  | .ackTimeoutResend _ => true
  | .delayMeasurement _ _ => true
  | .laneFailure _ _ => true
  | .retrainComplete _ => true
  | .linkFailed _ => true
  | .linkRetrainCommand _ _ _ => true
  | .pcieConfigRequest _ _ _ => true
  | .bar2Read _ len => hostReadOk len
  | .bar2Write _ data => hostWriteOk data
  | .bar4Read _ len => hostReadOk len
  | .bar4Write _ data => hostWriteOk data
  | .hCxidWrite _ => true
  | .hIrqstClear _ _ => true
  | .hostRequestCompletion _ _ _ _ => true
  | .hostCompletionTimeout _ => true
  | .dictRead _ _ _ _ => true
  | .dictWrite _ _ _ _ _ => true
  | .domainWriteOpen _ _ _ _ _ => true
  | .domainWriteSegment _ _ _ _ _ _ _ => true
  | .domainReadSegment _ _ _ _ _ => true
  | .dictAbort _ _ _ _ => true
  | .domainTransferTimeout _ _ => true
  | .frameTableBaseWrite _ _ => true
  | .resetArm _ _ => true
  | .resetFire _ _ => true
  | .selfTestCommand _ _ => true
  | .selfTestComplete _ => true
  | .firmwareImageCommit _ _ => true
  | .firmwareStoreComplete _ => true
  | .attestationNonce _ _ => true
  | .attestationSelection _ _ => true
  | .svnRaise _ _ => true
  | .persistentFaultClear _ _ => true
  | .traceRingWrite _ _ _ => true
  | .pmuMicrosecond _ => true
  | .calibrationMillisecond _ => true
  | .droopTrip _ => true
  | .droopClear _ => true
  | .thermalSample sensor _ => decide (sensor.toNat < 178)
  | .thermalTrip sensor _ => decide (sensor.toNat < 178)
  | .resetAssert source => decide (0 < source.toNat ∧ source.toNat ≤ 5)
  | .resetRelease source _ => decide (0 < source.toNat ∧ source.toNat ≤ 5)
  | .granuleCleared granule => decide (granule.toNat < 589824)
  | .pgoodTimeout group => decide (group.toNat ≤ 8)
  | .pgoodFall group => decide (group.toNat ≤ 8)
  | .samplePreload _ => true
  | .linkUp _ _ => true
  | .acknowledgementDue _ => true
  | .managementRequestTimeout _ _ _ _ => true
  | .serviceRequest lti _ => tileOk lti
  | .hostRegisterWrite _ size _ => decide (0 < size.toNat ∧ size.toNat ≤ 8)
  | .flashWriteComplete _ => true
  | .busOff _ => true
  | .tickTimerExpiry => true
  | .substituteTick => true
  | .holdoverTick => true
  | .tickGap => true
  | .frameOutFall => true
  | .spreadPeakChange => true
  | .repairComplete => true
  | .systemTickRelease => true
  | .leaveSystem => true
  | .beaconSilence => true
  | .electionTimeout => true
  | .hotReset => true
  | .mbGo => true
  | .frameTableValidationDone => true
  | .resetArmExpiry => true
  | .attestationSigned => true
  | .heartbeat => true
  | .emergency => true
  | .memorySlotLimitStep => true
  | .thermalCeilingUpdate => true
  | .throttleNFall => true
  | .throttleNRise => true
  | .tapReset => true
  | .tapBypass => true
  | .tapIdcode => true
  | .tapExtest => true
  | .tapClamp => true
  | .tapHighz => true
  | .frameOutRise => true
  | .tickFlitSend => true
  | .errorLogAppend => true
  | .timestampWrap => true

end Sys2Proof
end

