-- ==== Sys2Proof/Tests/Slice0.lean ====
section
/-! SUPPORT. Tests on fixed values: ill-formed commands that the well-formedness check refuses, states and operands that meet the
hypotheses of the statements, clause by clause, and single steps against numbers worked out from the spec. -/

namespace Sys2Proof.Tests

open Sys2Proof Sys2Proof.Machine

set_option Elab.async false

/-! ## Small states -/

/-- A valid handler entry for every vector. -/
def latches : SMap Word := (List.range 64).map fun v => (v, wOf (0x7000 + 16 * v + 1))

def exc1 : Exc := { Exc.zero with latchM := latches, latchS := latches, latchedS := true }

/-- 64 KiB pages of context 5 and of the Serge context, all rights, and a data page. -/
def tlb5 : TlbEntry := ⟨5, 1, 0, 0x20000, true, true, true, false, false⟩
def tlb0 : TlbEntry := ⟨0, 1, 0, 0x400000, true, true, true, false, false⟩
def data5 : TlbEntry := ⟨5, 2, 0, 0x30000, true, false, true, false, false⟩

/-- A running supervisor program of the Muslin world. -/
def run1 : Tile :=
  { Tile.zero with
    run := .running, sup := true, loopen := true, calen := true, pc := 0x1000, nextWid := 10, nextSeq := 5, exc := exc1
    dtlb := [tlb5, tlb0, data5], itlb := [tlb5] }

def table1 : FrameTable :=
  { ver := 1, cxid := 5, ilv := 0, period := 1000000, nin := 0, inputs := []
    entries := [(0, { FtEntry.zero with en := true, wl := 1, entry := 0x10000 })] }

/-- Logical index 0 is the tile; frame 3 runs under a table of context 5 that owns eight granules. -/
def at0 (t : Tile) : State :=
  { State.reset with
    tiles := [(0, t)]
    fr := { State.reset.fr with cyc := 7, fcyc := 20, ticked := true, fnum := 3, ft := some table1 }
    ms := { State.reset.ms with
      owner := (List.range 8).map fun g => (g, if g = 2 then 0 else 5) } }

def one : State := at0 run1
def withBank (b : Bank) : State := at0 { run1 with prim := b }
def withExc (e : Exc) : State := at0 { run1 with exc := e }
def level (last count : Nat) : LoopLevel := ⟨last - 0x100, last, BitVec.ofNat 32 count, true⟩

def stateOf (c : Host.Outcome State Fault Refusal) : State := match c with | .next t => t | _ => State.reset

/-- A path of the package's own clients. -/
def ownPath : Path → Bool
  | .can _ => false
  | .away _ _ => false
  | _ => true

theorem answers_iff {s : State} {p : Path} : Answers s p ↔
    s.boot.ready = true ∧ s.fr.validating = none ∧ (p = .mailbox → s.host.mbBusy = false) ∧
      (p = .zdp → s.dict.canSt ≠ 2 ∧ s.dict.canTx.length < 32) ∧ ownPath p = true := by
  cases p <;> simp [Answers, ownPath]

/-! ## Hypotheses of the statements are met: tiles -/

def bankA : Bank := { Bank.zero with al0p := some (77, 1), mulp := [⟨99, 1, 3⟩], div := some ⟨true, 100, 4⟩, divd := 7 }
def bankL : Bank := { Bank.zero with loops := [level 0x1000 2, level 0x2000 1], loopEnd := 2 }
def bank4 : Bank := { Bank.zero with loops := [level 9 1, level 8 1, level 7 1, level 6 1], loopEnd := 1 }
def pend (v : Nat) (serge : Bool) : Exc :=
  if serge then { exc1 with ipS := 4, ieS := 4, ipInfo := [(v + 64, 255, 9)] } else { exc1 with ipM := 4, ieM := 4, ipInfo := [(v, 255, 9)] }
def faults3 : List AsyncFault := [⟨8, 3, 0x55, 2⟩, ⟨12, 4, 0x66, 1⟩, ⟨13, 0, 0x77, 4⟩]
/-- The first and the last logical index: enough for AluOperations, GeneralRegisters and the jumps. -/
theorem test_witness_ready :
    (Ready one 0) ∧
    (Ready { one with tiles := [(10239, run1)] } 10239) ∧
    (Clocked one 10239) := by and_intros <;> first | decide +kernel | ((try unfold Ready); (try unfold Clocked); decide +kernel)
theorem test_witness_multiplications :
    (Ready one 0 ∧ (bankIn one 0).mulp = []) ∧
    (Clocked (withBank bankA) 0 ∧ aluPending false (bankIn (withBank bankA) 0) = some (77, 1) ∧ aluPending true (bankIn (withBank bankA) 0) = none) ∧
    ((bankIn (withBank bankA) 0).mulp = ⟨99, 1, 3⟩ :: [] ∧ 1 ≤ cyclesPassed (withBank bankA) 0) ∧
    (let s := at0 { run1 with prim := { Bank.zero with mulp := [⟨99, 2, 3⟩] }, landed := 6 }
     Clocked s 0 ∧ (bankIn s 0).mulp = ⟨99, 2, 3⟩ :: [] ∧ cyclesPassed s 0 < 2) := by and_intros <;> first | decide +kernel | ((try unfold Ready); (try unfold Clocked); decide +kernel)
theorem test_witness_divisions :
    (Clocked (withBank bankA) 0 ∧ (bankIn (withBank bankA) 0).div = some ⟨true, 100, 4⟩) ∧
    (Clocked one 0 ∧ (bankIn one 0).div = none) := by and_intros <;> first | decide +kernel | ((try unfold Clocked); decide +kernel)
theorem test_witness_ports :
    (Ready one 0 ∧ ∀ row ∈ wholePorts, levelOk (tileOf one 0) row.2.2 = true) ∧
    (Ready one 0 ∧ ∀ row ∈ clearPorts, levelOk (tileOf one 0) row.2.2.2 = true) ∧
    (let u := { run1 with world := .serge }
     Ready (at0 u) 0 ∧ ∀ row ∈ readOnlyPorts, levelOk (tileOf (at0 u) 0) row.2 = true ∧ Movable (tileOf (at0 u) 0) row.1 7) ∧
    (((0x3F : BitVec 8).getLsbD 7) = false) := by and_intros <;> first | decide +kernel | ((try unfold Ready); (try unfold Movable); decide +kernel)
theorem test_witness_branches :
    (Ready one 0 ∧ (0xFFFFFFFFFFFFFFF0 : Word).toNat % 16 = 0) ∧
    (Ready (withBank bankL) 0 ∧ (9 : BitVec 4).toNat < 10 ∧ (5 : BitVec 3).toNat < 6) ∧
    (∀ l ∈ (bankIn one 0).loops, l.last ≠ (tileOf one 0).pc) := by and_intros <;> first | decide +kernel | ((try unfold Ready); decide +kernel)
theorem test_witness_loops :
    (let s := withBank { Bank.zero with loopEnd := 1, loops := [level 9 1, level 8 1, level 7 1] }
     Ready s 0 ∧ (tileOf s 0).loopen = true ∧ NoLevelEnds s 0 ∧ (bankIn s 0).loopEnd ≠ 0 ∧ (bankIn s 0).loops.length < 4 ∧
       ((tileOf s 0).pc : Int) ≠ ((wOf (tileOf s 0).pc + (bankIn s 0).loopEnd * 16).toNat : Int)) ∧
    (Ready (withBank bank4) 0 ∧ NoLevelEnds (withBank bank4) 0 ∧ (4 : Word).toNat ≤ (bankIn (withBank bank4) 0).loops.length ∧
       ((2 ^ 32 : Nat) : Int) % 2 ^ 32 = 0) ∧
    (Ready (withBank bank4) 0 ∧ NoLevelEnds (withBank bank4) 0 ∧ 1 ≤ (4 : Word).toNat ∧ (4 : Word).toNat ≤ 4 ∧ 4 ≤ (bankIn (withBank bank4) 0).loops.length) ∧
    (Ready (withBank bankL) 0 ∧ (bankIn (withBank bankL) 0).loops = level 0x1000 2 :: [level 0x2000 1] ∧
       (level 0x1000 2).last = (tileOf (withBank bankL) 0).pc ∧ 1 < (level 0x1000 2).count.toNat) ∧
    (let s := withBank { Bank.zero with loops := [level 0x1000 1, level 0x2000 9] }
     Ready s 0 ∧ (level 0x1000 1).count.toNat ≤ 1 ∧ ∀ o ∈ [level 0x2000 9], o.last ≠ (tileOf s 0).pc) := by and_intros <;> first | decide +kernel | ((try unfold Ready); (try unfold NoLevelEnds); decide +kernel)
theorem test_witness_libraryCall : Ready one 0 ∧ (tileOf one 0).calen = true ∧ catalogued 0 = true ∧ (bankIn one 0).inlib = false ∧ (bankIn one 0).loops.length < 4 ∧ NoLevelEnds one 0 := by first | decide +kernel | ((try unfold Ready); (try unfold NoLevelEnds); decide +kernel)
theorem test_witness_signals :
    (Ready one 0 ∧ (tileOf one 0).skip = 0 ∧ (0x7F : BitVec 8).getLsbD 7 = false ∧ (sameOf (wordBegun one 0) 0 31).bumps = [] ∧ (sameOf (wordBegun one 0) 0 0).bumps = []) ∧
    (Ready one 0 ∧ (23 : BitVec 5).toNat < 24 ∧ (bankIn one 0).mulp = [] ∧ ∀ w ∈ (tileOf one 0).words, w.1 ≠ (tileOf one 0).nextWid) := by and_intros <;> first | decide +kernel | ((try unfold Ready); decide +kernel)
theorem test_witness_faultsTaken :
    (Ready one 0 ∧ (1 : Word).toNat % 16 ≠ 0 ∧ Enterable (tileOf one 0) (tileOf one 0).world 4) ∧
    (Ready one 0 ∧ (tileOf one 0).loopen = true ∧ (bankIn one 0).loopEnd = 0 ∧ Enterable (tileOf one 0) .muslin 7) ∧
    (Ready (withBank bank4) 0 ∧ (bankIn (withBank bank4) 0).loopEnd ≠ 0 ∧ (1 : Word).toNat % 2 ^ 32 ≠ 0 ∧ 4 ≤ (bankIn (withBank bank4) 0).loops.length ∧
       Enterable (tileOf (withBank bank4) 0) .muslin 7) ∧
    (Ready (withBank bankL) 0 ∧ (bankIn (withBank bankL) 0).loops.length < (3 : Word).toNat ∧ Enterable (tileOf (withBank bankL) 0) .muslin 7 ∧ 4 < (5 : Word).toNat) ∧
    (let s := withBank { Bank.zero with inlib := true }
     Ready s 0 ∧ (tileOf s 0).calen = true ∧ catalogued 0 = true ∧ (bankIn s 0).inlib = true ∧ Enterable (tileOf s 0) .muslin 1) ∧
    (Ready (withBank bank4) 0 ∧ catalogued 0 = true ∧ (bankIn (withBank bank4) 0).inlib = false ∧ 4 ≤ (bankIn (withBank bank4) 0).loops.length) ∧
    (let u := { run1 with sup := false }
     Ready (at0 u) 0 ∧ isPort 0x3CF = true ∧ portDisabled u 0x3CF = false ∧ levelOk u (portLevel 0x3CF true) = false ∧ inR 0x3CF 0x810 0x817 = false ∧
       Enterable u .muslin 2) ∧
    (Ready one 0 ∧ isPort 0x03F = true ∧ isPort 0xFFF = false ∧ Enterable (tileOf one 0) .muslin 3) ∧
    (let u := { run1 with loopen := false, calen := false }
     Ready (at0 u) 0 ∧ u.loopen = false ∧ u.calen = false ∧ Enterable u .muslin 3) ∧
    ((tileOf (withExc Exc.zero) 0).exc.fatal = false ∧ wBit (latched (tileOf (withExc Exc.zero) 0) .muslin 63) 0 = false) ∧
    ((tileOf (withExc { exc1 with fatal := true }) 0).exc.fatal = true) := by and_intros <;> first | decide +kernel | ((try unfold Ready); (try unfold Enterable); decide +kernel)
theorem test_witness_softwareTrap : Ready one 0 ∧ NoLevelEnds one 0 ∧ (0x1F : Word).getLsbD 4 = true ∧ Enterable (tileOf one 0) .serge (48 + 15) ∧ Enterable (tileOf one 0) .muslin 48 := by first | decide +kernel | ((try unfold Ready); (try unfold Enterable); (try unfold NoLevelEnds); decide +kernel)
theorem test_witness_interrupts :
    (let u := { run1 with exc := pend 34 false }
     Clocked (at0 u) 0 ∧ qualInt u = some (.muslin, 34) ∧ Enterable u .muslin 34 ∧ (smGet (0, 0) u.exc.ipInfo 34).1.toNat < 256) ∧
    (let u := { run1 with exc := pend 34 true }
     Clocked (at0 u) 0 ∧ qualInt u = some (.serge, 34) ∧ Enterable u .serge 34 ∧ (smGet (0, 0) u.exc.ipInfo 98).1.toNat < 256) ∧
    (let u := { run1 with asyncs := faults3 }
     Clocked (at0 u) 0 ∧ u.run = .running ∧ (∀ a ∈ faults3, oldestAsync (u.asyncs.filter fun f => f.vec.toNat == a.vec.toNat) = some a) ∧
       Enterable u .muslin 8 ∧ Enterable u .muslin 12 ∧ Enterable u .muslin 13) := by and_intros <;> first | decide +kernel | ((try unfold Clocked); (try unfold Enterable); decide +kernel)
theorem test_witness_returnResumes :
    (let u := { run1 with cur := .muslin, exc := { exc1 with msh := true, recM := ⟨0x3000, 0x05, 0x10, 0⟩ } }
     let r := recordOf u .muslin
     Ready (at0 u) 0 ∧ u.sup = true ∧ u.cur ≠ .primary ∧ wBit r.st 7 = false ∧ wBit r.st 6 = false ∧ wBits r.st 1 0 = wBits r.st 3 2 ∧
       u.exc.ipM &&& u.exc.ieM = 0 ∧ u.exc.ipS &&& u.exc.ieS = 0) ∧
    (let u := { run1 with cur := .muslin, exc := { exc1 with msh := true, recM := ⟨0x3000, 0x0C, 0x10, 0⟩ } }
     let r := recordOf u .muslin
     Ready (at0 u) 0 ∧ u.sup = true ∧ u.cur ≠ .primary ∧ wBit r.st 7 = false ∧ wBit r.st 6 = false ∧ wBits r.st 1 0 = 0 ∧ wBits r.st 5 4 = 0 ∧
       u.exc.ipM &&& u.exc.ieM = 0 ∧ u.exc.ipS &&& u.exc.ieS = 0) ∧
    (let u := { run1 with cur := .serge, world := .serge, exc := { exc1 with ssh := true, recS := ⟨0x3000, 0x10F, 0x10, 0⟩ } }
     let r := recordOf u .serge
     Ready (at0 u) 0 ∧ u.sup = true ∧ u.cur ≠ .primary ∧ wBit r.st 7 = false ∧ wBit r.st 6 = false ∧ wBits r.st 1 0 = wBits r.st 3 2 ∧
       u.exc.ipM &&& u.exc.ieM = 0 ∧ u.exc.ipS &&& u.exc.ieS = 0) := by and_intros <;> first | decide +kernel | ((try unfold Ready); decide +kernel)

/-! ## Memory, caches and system triggers -/

def user : Who := ⟨false, true, false, .primary, false⟩
def load8 : Load :=
  { k := 0, va := 0x10000, size := 8, sx := true, who := user, tr := .phys 0x20000 0 8 false false false, fwd := none, overload := false, overAt := 0, noted := false
    wid := 3, seq := 2 }
def store4 : SbEntry :=
  { kind := .store, who := user, va := 0x10000, data := [1, 2, 3, 4], x := 0, pa := 0, tr := .phys 0x20010 0 4 false false false
    overload := false, overAt := 0, skip := false, patch := false, wid := 4, seq := 3 }
def lsu (va size : Nat) : Bank := { Bank.zero with lsuo := wOf va, lsusz := BitVec.ofNat 3 size }
def withCache (c : CacheSt) : State := at0 { run1 with cache := c }

/-- A page table of context 5 at 0x200000 that maps the page of address 0 to 0x20000. -/
def paged (t : Tile) : State :=
  let entry := fun (s : State) (e : Nat × Nat) => putBytes s e.1 (leBytes 8 e.2)
  [(0x200000, 0x201001), (0x201000, 0x202001), (0x202000, 0x203001), (0x203000, 0x2001F)].foldl entry
    { at0 t with ms := { (at0 t).ms with roots := [(5, 0x200001)] } }
theorem test_witness_loadsStores :
    (let s := withBank (lsu 0x10008 3)
     let va := accessVa (bankIn s 0) 0
     Ready s 0 ∧ (lsuLook (wordOpen s 0 0) 0 false va 8).toOption.map Prod.fst = some (.phys 0x20008 0x20010 8 true true false) ∧
       forward (tileOf s 0).sb (serge (tileOf s 0)) va 8 (.phys 0x20008 0x20010 8 true true false) ≠ .hold) ∧
    (let s := at0 { run1 with prim := lsu 0x10000 2, sb := [store4] }
     let va := accessVa (bankIn s 0) 0
     Ready s 0 ∧ (lsuLook (wordOpen s 0 0) 0 false va 4).toOption.isSome ∧ forward (tileOf s 0).sb (serge (tileOf s 0)) va 4 store4.tr = .data [1, 2, 3, 4]) ∧
    (let s := at0 { run1 with prim := lsu 0x20000 3, sb := List.replicate 7 store4 }
     Ready s 0 ∧ (lsuLook (wordOpen s 0 0) 0 true (accessVa (bankIn s 0) 0) 8).toOption.isSome ∧ (tileOf s 0).sb.length < 8) ∧
    (let s := at0 { run1 with prim := lsu 0x20000 3, sb := List.replicate 8 store4 }
     Ready s 0 ∧ (lsuLook (wordOpen s 0 0) 0 true (accessVa (bankIn s 0) 0) 8).toOption.isSome ∧ 8 ≤ (tileOf s 0).sb.length) ∧
    (let s := withBank (lsu 0xFFFFFFFFFFFFF 1)
     Ready s 0 ∧ 2 ^ 52 < accessVa (bankIn s 0) 0 + accessSize (bankIn s 0) ∧ Enterable (tileOf s 0) .muslin 8) ∧
    (Ready one 0 ∧ (tileOf one 0).handed = [] ∧ ∀ e ∈ (tileOf one 0).sb, e.kind ≠ .store) ∧
    (Ready (at0 { run1 with handed := [store4], det := true }) 0 ∧ (tileOf (at0 { run1 with handed := [store4] }) 0).handed ≠ []) := by and_intros <;> first | decide +kernel | ((try unfold Ready); (try unfold Enterable); decide +kernel)
theorem test_witness_loadResults :
    (let s := at0 { run1 with loads := [load8] }
     Clocked s 0 ∧ (tileOf s 0).loads.find? (fun x => x.k == 0) = some load8 ∧ load8.who.bank = (tileOf s 0).cur ∧
       load8.size = 2 ^ (load8.size.log2 % 4) ∧ (readBytes s 0x20000 8).length = load8.size ∧ load8.fwd = none ∧
       load8.overload = false ∧ (tileOf s 0).sb = [] ∧ (tileOf s 0).handed = [] ∧ s.host.reqs = [] ∧
       load8.tr = .phys 0x20000 0 load8.size false false false ∧ heldByCopy s 0x20000 = false ∧ isHostPa 0x20000 = false ∧
       (refusal s (accOf s 0 load8.who.serge load8.who.inlib false) 0x20000 8).isNone) ∧
    (let l := { load8 with k := 3, size := 1, fwd := some [0x83] }
     let s := at0 { run1 with loads := [load8, l] }
     Clocked s 0 ∧ (tileOf s 0).loads.find? (fun x => x.k == 3) = some l ∧ l.fwd = some [0x83] ∧ l.tr ≠ .walking ∧ (∀ r < 256, l.tr ≠ .refused (BitVec.ofNat 8 r)) ∧
       [(0x83 : Byte)].length = l.size ∧ l.size = 2 ^ (l.size.log2 % 4)) ∧
    (let l := { load8 with tr := .phys 0x20038 0 load8.size true true false }
     let n : CLine := ⟨0x20000, 0, (List.range 64).map (BitVec.ofNat 8)⟩
     let s := at0 { run1 with loads := [l], cache := { CacheSt.zero with den := true, dlines := [n] } }
     Clocked s 0 ∧ (tileOf s 0).loads.find? (fun x => x.k == 0) = some l ∧ l.fwd = none ∧ l.overload = false ∧ (tileOf s 0).sb = [] ∧
       (tileOf s 0).handed = [] ∧ s.host.reqs = [] ∧ heldByCopy s 0x20038 = false ∧ isHostPa 0x20038 = false ∧
       (tileOf s 0).cache.reqs = [] ∧ 0x20038 % 64 + l.size ≤ 64 ∧ n ∈ (tileOf s 0).cache.dlines ∧
       findLine (tileOf s 0).cache.dlines 0x20038 = some n ∧ ((n.data.drop (0x20038 % 64)).take l.size).length = l.size) := by and_intros <;> first | decide +kernel | ((try unfold Clocked); decide +kernel)
theorem test_witness_storesPerform :
    (let s := at0 { run1 with sb := [store4] }
     Clocked s 0 ∧ store4.kind = .store ∧ store4.skip = false ∧ store4.tr = .phys 0x20010 0 4 false false false ∧ store4.data.length ≤ 4 ∧
       (tileOf s 0).sb = store4 :: [] ∧ store4.overload = false ∧ (tileOf s 0).loads = [] ∧ (∀ x ∈ ([] : List SbEntry), x.seq ≠ store4.seq)) ∧
    (let s := at0 { run1 with handed := [store4] }
     Clocked s 0 ∧ (tileOf s 0).handed = store4 :: [] ∧ heldByCopy s 0x20010 = false ∧ s.ms.bad = [] ∧ s.ms.errs = [] ∧
       (∀ j, j < 4 → paClass (0x20010 + j) = .stacked) ∧
       refusal s { accOf s 0 store4.who.serge store4.who.inlib true with write := true } 0x20010 4 = none) := by and_intros <;> first | decide +kernel | ((try unfold Clocked); decide +kernel)
theorem test_witness_linesAndWalks :
    (let r : LineReq := ⟨true, 0x20000, false⟩
     let s := withCache { CacheSt.zero with reqs := [r], ien := true }
     Clocked s 0 ∧ (tileOf s 0).cache.reqs.find? (fun x => x.code == true) = some r ∧ r.addr % 64 = 0 ∧ (tileOf s 0).handed = [] ∧
       (tileOf s 0).cache.invalidating = [] ∧ (tileOf s 0).cache.ien = true ∧
       refusal s (accOf s 0 (serge (tileOf s 0)) (bankIn s 0).inlib false) r.addr 64 = none) ∧
    ((∀ r ∈ (tileOf one 0).cache.reqs, r.code ≠ true) ∧ (tileOf one 0).fetchWalk = false ∧ (∀ l ∈ (tileOf one 0).loads, l.tr ≠ .walking) ∧ ∀ e ∈ (tileOf one 0).sb, e.tr ≠ .walking) ∧
    (let s := at0 { run1 with fetchWalk := true, pc := 0x30000 }
     Clocked s 0 ∧ (tileOf s 0).fetchWalk = true ∧ (fillTlb s 0 false true (tileOf s 0).pc).1 = none) ∧
    (let s := paged { run1 with fetchWalk := true, det := true, itlb := [] }
     Clocked s 0 ∧ (tileOf s 0).fetchWalk = true ∧ tlbFind (tileOf s 0).itlb (cxidOf s false) (tileOf s 0).pc = none ∧ (tileOf s 0).det = true ∧
       (walk s (some 0) (cxidOf s false) false (tileOf s 0).pc).toOption = some ⟨5, 0, 0, 0x20000, true, true, true, false, false⟩) ∧
    (let l := { load8 with tr := .walking, size := 1, va := 0x30000 }
     let s := paged { run1 with loads := [l] }
     Clocked s 0 ∧ (tileOf s 0).loads = [l] ∧ (tileOf s 0).sb = [] ∧ l.tr = .walking ∧ 1 ≤ l.size ∧
       (fillTlb s 0 l.who.serge false l.va).1 = none) ∧
    (let e := { store4 with tr := .walking, va := 0x30000 }
     let s := paged { run1 with sb := [e] }
     Clocked s 0 ∧ (tileOf s 0).loads = [] ∧ (tileOf s 0).sb = [e] ∧ e.tr = .walking ∧ 1 ≤ e.data.length ∧
       (fillTlb s 0 e.who.serge false e.va).1 = none) := by and_intros <;> first | decide +kernel | ((try unfold Clocked); decide +kernel)
theorem test_witness_cacheControls :
    (Ready one 0 ∧ (7 : Word).getLsbD 3 = false ∧ (tileOf one 0).det = false) ∧
    (Ready one 0 ∧ (8 : Word).getLsbD 3 = true ∧ (tileOf one 0).det = false) ∧
    (Ready (at0 { run1 with det := true }) 0 ∧ (tileOf (at0 { run1 with det := true }) 0).det = true) ∧
    (let s := withCache { CacheSt.zero with invalidating := [(5, 2)], flushing := [(4, 1)] }
     Clocked s 0 ∧ (tileOf s 0).cache.invalidating = (5, 2) :: [] ∧ (tileOf s 0).cache.flushing = (4, 1) :: [] ∧ (tileOf s 0).handed = [] ∧
       (tileOf s 0).sb = []) ∧
    (Ready one 0 ∧ (tileOf one 0).sup = true ∧ (1 : Word).toNat % 256 ≠ 0 ∧ (tileOf one 0).cache.patch = none) ∧
    (let s := withCache { CacheSt.zero with patch := some (0x10000, 0x10000) }
     Ready s 0 ∧ (tileOf s 0).cache.patch ≠ none ∧ (256 : Word).toNat % 256 = 0 ∧ Enterable (tileOf s 0) .muslin 1) := by and_intros <;> first | decide +kernel | ((try unfold Ready); (try unfold Clocked); (try unfold Enterable); decide +kernel)
theorem test_witness_systemCommands :
    (Ready one 0 ∧ (tileOf one 0).skip = 0 ∧ (tileOf one 0).sup = true ∧ 16 ≤ (16 : Word).toNat % 64 ∧ hintsOpen one = false) ∧
    (let s := { one with fr := { one.fr with inGap := true, gapCyc := 6 } }
     Ready s 0 ∧ (tileOf s 0).skip = 0 ∧ hintsOpen s = true ∧ smWf Region.zero s.regions = true) ∧
    (Ready one 0 ∧ (15 : Word).toNat % 64 < 16 ∧ serge (tileOf one 0) = false ∧ Enterable (tileOf one 0) .muslin 2) ∧
    (Ready (at0 { run1 with world := .serge }) 0 ∧ serge (tileOf (at0 { run1 with world := .serge }) 0) = true) ∧
    (let s := at0 { run1 with run := .draining }
     Clocked s 0 ∧ (tileOf s 0).run = .draining ∧ drained s 0 = true) ∧
    (let s := at0 { run1 with run := .draining, sb := [store4] }
     Clocked s 0 ∧ drained s 0 = false) ∧
    (let s := at0 { run1 with exc := { exc1 with niOpen := some (false, 0) }, hostirqs := [(9, 1, 2)] }
     Clocked s 0 ∧ (tileOf s 0).exc.niOpen ≠ none ∧ (tileOf s 0).exc.ipM &&& (tileOf s 0).exc.ieM = 0 ∧ (tileOf s 0).exc.ipS &&& (tileOf s 0).exc.ieS = 0 ∧
       (tileOf s 0).hostirqs = (9, 1, 2) :: [] ∧ (tileOf s 0).sb = [] ∧ (tileOf s 0).handed = []) := by and_intros <;> first | decide +kernel | ((try unfold Ready); (try unfold Enterable); (try unfold Clocked); decide +kernel)
theorem test_witness_handlerTables :
    (Ready one 0 ∧ (tileOf one 0).sup = true ∧ Ready (at0 { run1 with world := .serge }) 0 ∧ serge (tileOf (at0 { run1 with world := .serge }) 0) = true) ∧
    (let s := at0 { run1 with exc := { exc1 with latchPendM := some (0x10000, 3) } }
     Clocked s 0 ∧ (tileOf s 0).exc.latchPendM = some (0x10000, 3) ∧
       (tableLines s 0 false 0x10000).1 = some ((List.range 8).map fun k => 0x20000 + 64 * k) ∧
       (∀ pa ∈ (List.range 8).map fun k => 0x20000 + 64 * k, isHostPa pa = false) ∧
       hostLines (tableLines s 0 false 0x10000).2 (0, 2 ^ 40 + 3) = [] ∧
       (tableBytes (tableLines s 0 false 0x10000).2 0 false ((List.range 8).map fun k => 0x20000 + 64 * k) []).isSome) ∧
    (let s := at0 { run1 with exc := { exc1 with latchPendS := some (0x30000, 3) } }
     (tileOf s 0).exc.latchPendS = some (0x30000, 3) ∧ (tableLines s 0 true 0x30000).1 = none) := by and_intros <;> first | decide +kernel | ((try unfold Ready); (try unfold Clocked); decide +kernel)

/-- The word `imm 0x800 -> g63` in the first 16 bytes of a line, written out from the encoding of a slot. -/
def lineImm : List Byte := [0x3F, 0x00, 0x80, 0x01] ++ List.replicate 60 0

/-- The words `imm 0x800 -> g63` and `imm 0x7FF -> g1` at the start of the tile's own store, the place of its program. -/
def ownStore (t : Tile) : State :=
  putBytes (at0 { t with line0 := some (t.pc, storePa 0 0, []) }) (storePa 0 0)
    ([0x3F, 0x00, 0x80, 0x01] ++ List.replicate 12 0 ++ [0x01, 0xF0, 0x7F, 0x01] ++ List.replicate 12 0)
def wordAt (s : State) : Nat := storePa 0 0 + (tileOf s 0).pc % 64
def OwnWord (s : State) : Prop :=
  Ready s 0 ∧ (tileOf s 0).line0 = some ((tileOf s 0).pc, storePa 0 0, []) ∧ (tileOf s 0).pc < 2 ^ 52 ∧ (bankIn s 0).loops = [] ∧
    (bankIn s 0).inlib = false ∧ inPatch (tileOf s 0) (tileOf s 0).pc = false ∧
    paClass (wordAt s) = .store 0 ((tileOf s 0).pc % 64) ∧
    refusal s (accOf s 0 (serge (tileOf s 0)) false false) (wordAt s) 16 = none

theorem test_witness_wordsIssue :
    (let s := at0 { run1 with line0 := some (0x1000, 0x20000, lineImm) }
     Ready s 0 ∧ (tileOf s 0).line0 = some ((tileOf s 0).pc, 0x20000, lineImm) ∧ (tileOf s 0).pc < 2 ^ 52 ∧ (bankIn s 0).loops = [] ∧
       (bankIn s 0).inlib = false ∧ inPatch (tileOf s 0) (tileOf s 0).pc = false ∧
       leNat ((lineImm.drop ((tileOf s 0).pc % 64)).take 16) = (63 : BitVec 6).toNat + 2 ^ 12 * (0x800 : BitVec 12).toNat + 2 ^ 24 ∧
       paClass (0x20000 + (tileOf s 0).pc % 64) = .stacked ∧ (tileOf s 0).det = false) ∧
    (let s := ownStore { run1 with det := true }
     OwnWord s ∧ (tileOf s 0).det = true ∧
       leNat (readBytes s (wordAt s) 16) = (63 : BitVec 6).toNat + 2 ^ 12 * (0x800 : BitVec 12).toNat + 2 ^ 24) ∧
    (let s := ownStore { run1 with pc := 0x1010 }
     OwnWord s ∧ (tileOf s 0).pc % 32 ≠ 0 ∧
       leNat (readBytes s (wordAt s) 16) = (1 : BitVec 6).toNat + 2 ^ 12 * (0x7FF : BitVec 12).toNat + 2 ^ 24) ∧
    (let s := ownStore run1
     OwnWord s ∧ (tileOf s 0).det = false ∧ (tileOf s 0).pc % 32 = 0 ∧ inPatch (tileOf s 0) ((tileOf s 0).pc + 16) = false ∧
       paClass (wordAt s + 16) = .store 0 0x10 ∧ refusal s (accOf s 0 (serge (tileOf s 0)) false false) (wordAt s + 16) 16 = none ∧
       leNat (readBytes s (wordAt s) 16) = (63 : BitVec 6).toNat + 2 ^ 12 * (0x800 : BitVec 12).toNat + 2 ^ 24 ∧
       leNat (readBytes s (wordAt s + 16) 16) = (1 : BitVec 6).toNat + 2 ^ 12 * (0x7FF : BitVec 12).toNat + 2 ^ 24) := by and_intros <;> first | decide +kernel | ((try unfold OwnWord); (try unfold Ready); decide +kernel)

/-! ## Vector, matrix and conversion units -/

/-- A descriptor with sources v2, v3, v4 and destination v1; format 10 is INT8, 8 INT32, 1 FP32. -/
def vdesc (fmt more : Nat) : Word := wOf (1 + 32 * 2 + 1024 * 3 + 32768 * 4 + 2 ^ 25 * fmt + more)
def vop (op : Nat) (d : Word) : VxOp := ⟨op, d, 5, 1, 1, 1, 0x40, 8, 3, 0x55, false, true, 3, VxRun.zero⟩
def vxWith (q : List VxOp) : Vx := { Vx.zero with vl := 5, a := 0x100, stride := 16, k := 1, queue := q }
def withVx (q : List VxOp) : State := at0 { run1 with vx := vxWith q }
def waiting (o : VxOp) : VxOp := { o with started := false }

/-- An accumulation descriptor: bank A, INT8 operands, K steps. -/
def mdesc (fmt k more : Nat) : Word := wOf (256 * fmt + 4096 * fmt + 2 ^ 32 * k + more)
def mop (op : Nat) (d : Word) : MxOp :=
  { op := op, desc := d, aa := 0x40, aks := 16, ba := 0x80, bks := 16, asd := 0, bsd := 0, da := 0x200, drs := 128, cfg := 0
    calOpen := false, snapKind := 3, snap := [], lutA := [], lutB := [], started := true, wid := 3, run := MxRun.zero }
def mxWith (q : List MxOp) : Mx := { Mx.zero with bankA := { MxBank.zero with kind := 3, trigKind := 3 }, aks := 64, ba := 0x1000, bks := 64, da := 0x3000, drs := 128, queue := q }
def withMx (m : Mx) : State := at0 { run1 with mx := m }

def cop (op d : Nat) : CvOp := ⟨op, wOf d, 0x40, 0x80, 0x1000, 0, 5, 0x00030003, 7, true, true, 3, CvRun.zero⟩
def cvWith (q : List CvOp) : Cv := { Cv.zero with sa := 0x40, sb := 0x100, da := 0x1000, n := 5, queue := q }
def withCv (c : Cv) : State := at0 { run1 with cv := c }
theorem test_witness_vectorTriggers :
    (Ready (withVx []) 0 ∧ ∀ row ∈ vxRows, (vxIllegal row.2 (wOf (2 ^ 64 - 1)) 5 1).isSome ∧ Enterable (tileOf (withVx []) 0) .muslin 1) ∧
    (let s := withVx []
     Ready s 0 ∧ (∀ row ∈ vxRows, [vdesc 10 0, vdesc 1 0].any (fun x => (vxIllegal row.2 x 5 1).isNone && (vkind (vxFmt row.2 x)).isSome) = true) ∧
       vxHeld (tileOf s 0).vx.queue < 4 ∧ vxLdCheck s 0 false false 0x100 16 1 5 = none ∧ vxLdCheck s 0 false true 0x100 16 1 5 = none) ∧
    (let s := at0 { run1 with calen := false, vx := { vxWith [] with a := 0xBFFF0 } }
     Ready s 0 ∧ vxIllegal 0x80 (vdesc 10 0) 5 1 = none ∧ vxLdCheck s 0 false false 0xBFFF0 16 1 5 = some 0xC0000 ∧ Enterable (tileOf s 0) .muslin 8) ∧
    (let s := at0 { run1 with vx := { vxWith [] with vl := 0 } }
     Ready s 0 ∧ vxIllegal 0x20 (vdesc 10 0) 0 1 = none ∧ vkind (vxFmt 0x20 (vdesc 10 0)) = some (.int 8 true) ∧ vxN 0 (.int 8 true) = 0) ∧
    (let s := withVx (List.replicate 4 (waiting (vop 0x20 0)))
     Ready s 0 ∧ 4 ≤ vxHeld (tileOf s 0).vx.queue ∧ vxN 5 (.int 8 true) ≠ 0 ∧ Enterable (tileOf s 0) .muslin 9) ∧
    (let s := withVx [vop 0x21 0, waiting (vop 0x20 0)]
     Clocked s 0 ∧ (tileOf s 0).vx.queue = [vop 0x21 0] ++ waiting (vop 0x20 0) :: [] ∧ (∀ p ∈ [vop 0x21 0], p.started = true) ∧
       (waiting (vop 0x20 0)).started = false) := by and_intros <;> first | decide +kernel | ((try unfold Ready); (try unfold Enterable); (try unfold Clocked); decide +kernel)
theorem test_witness_vectorElements :
    (∀ row ∈ vxExactRows, ∀ fmt ∈ [8, 10, 12, 14],
       let s := withVx [vop row.1 (vdesc fmt 0x80000000)]
       Clocked s 0 ∧ (tileOf s 0).vx.queue[vxNext (tileOf s 0).vx]? = some (vop row.1 (vdesc fmt 0x80000000)) ∧ (vop row.1 (vdesc fmt 0)).started = true ∧
         (vkind (dFmt (vdesc fmt 0x80000000))).isSome ∧ dSat (vdesc fmt 0x80000000) = true) ∧
    (∀ row ∈ vxBitRows,
       let s := withVx [vop row.1 (vdesc 9 0)]
       Clocked s 0 ∧ (tileOf s 0).vx.queue[vxNext (tileOf s 0).vx]? = some (vop row.1 (vdesc 9 0)) ∧ vkind (dFmt (vdesc 9 0)) = some (.int 16 true)) ∧
    (let s := withVx [vop 0x50 (vdesc 10 0), vop 0x32 (vdesc 9 4)]
     Clocked s 0 ∧ vxNext (tileOf s 0).vx = 1 ∧ (tileOf s 0).vx.queue[vxNext (tileOf s 0).vx]? = some (vop 0x32 (vdesc 9 4)) ∧
       vkind (dFmt (vdesc 9 4)) = some (.int 16 true)) := by and_intros <;> first | decide +kernel | ((try unfold Clocked); decide +kernel)
theorem test_witness_vectorMemory :
    (∀ op ∈ [0x80, 0x81],
       let o := { vop op (vdesc 10 0) with a := 0xBFFDF, stride := 8 }
       let s := at0 { run1 with calen := false, vx := vxWith [o] }
       Clocked s 0 ∧ (tileOf s 0).vx.queue[vxNext (tileOf s 0).vx]? = some o ∧ o.started = true ∧ vkind (dFmt o.desc) = some (.int 8 true) ∧
         wBit o.desc 23 = false ∧ s.ms.bad = [] ∧
         ∀ j, j < vxN o.vl (.int 8 true) → 0 ≤ vxAddr o (vxSees o (tileOf s 0).vx) j ∧ vxAddr o (vxSees o (tileOf s 0).vx) j + 1 ≤ 0xC0000) ∧
    (let o := { vop 0x82 (vdesc 10 0) with a := 0xBFFFF }
     let s := at0 { run1 with calen := false, vx := { vxWith [o] with v := [(2048 * 3 + 4, 2), (2048 * 3 + 8, 1)] } }
     Clocked s 0 ∧ (tileOf s 0).vx.queue[vxNext (tileOf s 0).vx]? = some o ∧ o.started = true ∧ vxGthStop s 0 o (vxSees o (tileOf s 0).vx) (.int 8 true) = some (1, 2, 0xC0001)) := by and_intros <;> first | decide +kernel | ((try unfold Clocked); decide +kernel)
theorem test_witness_matrixTriggers :
    (Ready (at0 { run1 with sup := false }) 0 ∧ ∀ op ∈ [0x23, 0x24], 0x23 ≤ op ∧ Enterable (tileOf (at0 { run1 with sup := false }) 0) .muslin 2) ∧
    (let s := withMx (mxWith [])
     Ready s 0 ∧ (tileOf s 0).sup = true ∧ mxCheck s 0 0x20 (wOf (2 ^ 64 - 1)) = some (.inl 2) ∧ mxCheck s 0 0x21 0 = some (.inl 2) ∧
       mxCheck s 0 0x22 (wOf (2 ^ 64 - 1)) = some (.inr 1048575) ∧ (mxCheck s 0 0x23 (wOf (2 ^ 64 - 1))).isSome ∧
       (mxCheck s 0 0x24 (wOf (2 ^ 64 - 1))).isSome ∧ Enterable (tileOf s 0) .muslin 1 ∧ Enterable (tileOf s 0) .muslin 8) ∧
    (let s := withMx (mxWith [])
     Ready s 0 ∧ mxCheck s 0 0x20 (mdesc 10 0 0) = none ∧ mK (mdesc 10 0 0) = 0 ∧ wBit (mdesc 10 0 0) 1 = false) ∧
    (let s := withMx (mxWith (List.replicate 3 (mop 0x20 (mdesc 10 1 0))))
     Ready s 0 ∧ mxCheck s 0 0x20 (mdesc 10 1 0) = none ∧ mK (mdesc 10 1 0) ≠ 0 ∧ (tileOf s 0).mx.queue.length < 4 ∧
       mxCheck s 0 0x22 0 = none ∧ mxCheck s 0 0x23 0 = none ∧ mxCheck s 0 0x24 0 = none) ∧
    (Ready (withMx (mxWith [])) 0 ∧ mxCheck (withMx (mxWith [])) 0 0x21 (wOf 4) = none ∧ mxCheck (withMx (mxWith [])) 0 0x21 0 = some (.inl 2)) ∧
    (let s := withMx (mxWith (List.replicate 4 (mop 0x20 (mdesc 10 1 0))))
     Ready s 0 ∧ mxCheck s 0 0x20 (mdesc 10 1 0) = none ∧ 4 ≤ (tileOf s 0).mx.queue.length ∧ Enterable (tileOf s 0) .muslin 10) := by and_intros <;> first | decide +kernel | ((try unfold Ready); (try unfold Enterable); decide +kernel)
theorem test_witness_matrixStorage :
    (let o := { mop 0x20 (mdesc 10 1 2) with started := false }
     let s := withMx (mxWith [o])
     Clocked s 0 ∧ (tileOf s 0).mx.queue = [] ++ o :: [] ∧ o.started = false ∧ mxUnit o.op = (0 : BitVec 2).toNat ∧ s.ms.bad = [] ∧ mxMayStart [] o = true ∧
       wBit o.desc 1 = true) ∧
    (let p := mop 0x20 (mdesc 10 1 0)
     let o := { mop 0x21 (wOf 4) with started := false }
     let s := withMx (mxWith [p, o])
     Clocked s 0 ∧ (tileOf s 0).mx.queue = [p] ++ o :: [] ∧ mxUnit o.op = (1 : BitVec 2).toNat ∧ p.started = true ∧ s.ms.bad = [] ∧ mxMayStart [p] o = false ∧
       mxMayStart [] o = true) ∧
    (∀ op ∈ [0x22, 0x23, 0x24],
       let o := mop op (wOf 0xBE800)
       let s := withMx (mxWith [o])
       Clocked s 0 ∧ (tileOf s 0).mx.queue = [o] ∧ o.started = true ∧ s.ms.bad = [] ∧ o.desc.toNat % 2 ^ 20 + 6144 ≤ 0xC0000) := by and_intros <;> first | decide +kernel | ((try unfold Clocked); decide +kernel)

def fullBank : MxBank := { MxBank.zero with kind := 3, trigKind := 3, vals := [(0, BitVec.ofNat 96 (2 ^ 39 - 1 - 3 * 65536)), (255, BitVec.ofNat 96 (2 ^ 40 - 5))] }
def overOp : MxOp := mop 0x20 (mdesc 10 1 0)
def overState : State :=
  [0x40, 0x80].foldl (fun s a => putBytes s (storePa 0 a) (List.replicate 16 0x7B))
    (withMx { mxWith [overOp] with bankA := { fullBank with vals := [(0, BitVec.ofNat 96 (2 ^ 39 - 1))], ops := [overOp], listValid := true } })

theorem test_witness_matrixResults :
    (let o := mop 0x20 (mdesc 10 2 0)
     let s := withMx { mxWith [o] with bankA := fullBank }
     Clocked s 0 ∧ (tileOf s 0).mx.queue = [o] ∧ o.started = true ∧ o.run.issued = false ∧ s.ms.bad = [] ∧ mmaClass o.desc = some .int8 ∧ wBit o.desc 2 = false ∧
       (mxBank (tileOf s 0).mx false).sadj = 0 ∧
       ∀ e, e < 256 → (i40 (smGet 0 (mxBank (tileOf s 0).mx false).vals e)).natAbs + mK o.desc * 65536 < 2 ^ 39) ∧
    (let o := { mop 0x20 (mdesc 10 2 0) with run := { MxRun.zero with issued := true, flags := 4 } }
     let s := withMx (mxWith [o])
     Clocked s 0 ∧ (tileOf s 0).mx.queue = [o] ∧ o.started = true ∧ o.run.issued = true ∧ s.ms.bad = []) ∧
    (let o := { mop 0x21 (wOf 4) with snap := fullBank.vals, drs := 64 }
     let s := withMx (mxWith [o])
     Clocked s 0 ∧ (tileOf s 0).mx.queue = [o] ∧ o.snapKind = 3 ∧ drainBytes o.desc 3 = some 4 ∧ wBit o.desc 6 = false ∧ 16 * 4 ≤ o.drs.toNat ∧
       o.da.toNat + 15 * o.drs.toNat + 16 * 4 ≤ 0xC0000) ∧
    (Clocked overState 0 ∧ (tileOf overState 0).mx.queue = [overOp] ∧ overOp.run.issued = false ∧ overState.ms.bad = [] ∧ (mxBank (tileOf overState 0).mx false).ops.head? = some overOp ∧
       (mRun overState 0 overOp (mxBank (tileOf overState 0).mx false).sadj.toNat (mayReplay (mxBank (tileOf overState 0).mx false))
         (mxBank (tileOf overState 0).mx false).vals).1.isSome) := by and_intros <;> first | decide +kernel | ((try unfold Clocked); decide +kernel)
theorem test_witness_conversionTriggers :
    (let s := withCv (cvWith [])
     Ready s 0 ∧ cvCheck s 0 0x20 (wOf (2 ^ 64 - 1)) = some (.inl 2) ∧ cvCheck s 0 0x21 (wOf (2 ^ 64 - 1)) = some (.inl 2) ∧
       (cvCheck s 0 0x22 (wOf (2 ^ 64 - 1))).isSome ∧ Enterable (tileOf s 0) .muslin 1) ∧
    (let s := withCv { cvWith [] with da := 0xBFFF0 }
     Ready s 0 ∧ (∃ a ∈ [0xBFFF0, 0xC0000], cvCheck s 0 0x20 (wOf 33) = some (.inr a)) ∧ Enterable (tileOf s 0) .muslin 8) ∧
    (let s := withCv { cvWith [] with n := 0 }
     Ready s 0 ∧ cvCheck s 0 0x20 0 = none ∧ (tileOf s 0).cv.n = 0) ∧
    (let s := withCv (cvWith (List.replicate 3 (cop 0x20 33)))
     Ready s 0 ∧ cvCheck s 0 0x20 (wOf 33) = none ∧ cvCheck s 0 0x21 1 = none ∧ cvCheck s 0 0x23 0 = none ∧ cvCheck s 0 0x24 0 = none ∧
       (tileOf s 0).cv.queue.length < 4 ∧ (tileOf s 0).cv.n ≠ 0) ∧
    (let s := withCv (cvWith (List.replicate 4 (cop 0x20 33)))
     Ready s 0 ∧ cvCheck s 0 0x20 (wOf 33) = none ∧ 4 ≤ (tileOf s 0).cv.queue.length ∧ Enterable (tileOf s 0) .muslin 11 ∧
       Clocked s 0 ∧ (tileOf s 0).cv.queue = cop 0x20 33 :: List.replicate 3 (cop 0x20 33)) ∧
    (let o := { cop 0x21 11 with started := false }
     Clocked (withCv (cvWith [o])) 0 ∧ (tileOf (withCv (cvWith [o])) 0).cv.queue = o :: [] ∧ o.started = false) := by and_intros <;> first | decide +kernel | ((try unfold Ready); (try unfold Enterable); (try unfold Clocked); decide +kernel)
theorem test_witness_conversionResults :
    ((∀ o ∈ [cop 0x23 31, cop 0x24 (31 + 32 * 5 + 512 + 1024), cop 0x24 0],
       Clocked (withCv (cvWith [o])) 0 ∧ (tileOf (withCv (cvWith [o])) 0).cv.queue = o :: [] ∧ o.started = true ∧ o.run.bad = none ∧
         (withCv (cvWith [o])).ms.bad = []) ∧
    (let o := { cop 0x21 11 with da := 0xBFFD8 }
     let s := withCv (cvWith [o])
     Clocked s 0 ∧ (tileOf s 0).cv.queue = o :: [] ∧ o.started = true ∧ o.run.bad = none ∧ s.ms.bad = [] ∧ wBits o.desc 3 0 = 11 ∧ xaOf o.x = xbOf o.x ∧
       o.da.toNat + 8 * o.n.toNat ≤ 0xC0000)) ∧
    (let o := cop 0x20 33
     Clocked (withCv (cvWith [o])) 0 ∧ (ckind (cSf o.desc)).isSome ∧ (ckind (cDf o.desc)).isSome ∧ wBit o.desc 9 = false ∧ cBsc o.desc = 0 ∧
       ∀ dk, ckind (cDf o.desc) = some dk → o.da.toNat + o.n.toNat * (cwidth dk / 8) ≤ 0xC0000) :=
  ⟨by and_intros <;> first | decide +kernel | ((try unfold Clocked); decide +kernel),
   ⟨by unfold Clocked; decide +kernel, by decide +kernel, by decide +kernel, by decide +kernel, by decide +kernel, fun dk h => by
      have e : ckind (cDf (cop 0x20 33).desc) = some (.fp ⟨8, 7, 127, false⟩) := by decide +kernel
      rw [e] at h; cases h; decide +kernel⟩⟩

/-! ## Messages, transfers, frames, memory service -/

def withTile1 (t u : Tile) : State := let s := at0 t; { s with tiles := [(0, t), (1, u)] }
def mail (enabled slots base : Nat) : Word := wOf (enabled + 2 * slots + 2 ^ 20 * base)
def mesh (o : List MeshOp) : Mesh := { Mesh.zero with mb := [(0, mail 1 0 0x100), (1, mail 0 0 0x100)], out := o }
def sends (put remote : Bool) (x pa : Nat) : MeshOp := ⟨put, wOf x, pa, List.replicate 64 7, remote, 5, 5, false, true, 3, 7⟩
def withMesh (o : List MeshOp) : State := withTile1 { run1 with mesh := mesh o } { run1 with mesh := mesh [] }

def job (src dst len next : Nat) : DmaJob :=
  { lti := 0, serge := false, sup := true, cxid := 5, det := false, src := src, dst := dst, len := len, sg := 0x81, lc := false
    fie := true, frec := 0x400, early := false, pages := [], gens := [], frame := 3, next := next, wid := 3 }
def channel (a w : List DmaJob) (r : Option DmaJob) : State := setDmaCh one 159 3 ⟨a, w, r, [{ tlb5 with x := false }, data5], false, none⟩
def dmaEntry : SbEntry := { store4 with kind := .dma, x := wOf 0x40 }

def framed (f : Frames → Frames) : State := { one with fr := f one.fr }
def staged : Staged :=
  { fault := 0, loopen := true, calen := false, scr := 1, cdis := false, code := 0x10000, xtbm := 0x40, xspi := 0x80, latch := latches
    line := none }
def header (ver cx : Nat) : State := putBytes one 0x600000 (leBytes 64 (ver + 2 ^ 16 * cx + 2 ^ 32 * 1000000))
def baseReq (p : Path) : DReq := ⟨p, 0x20, false, false, 0x5010, 0, 9, [], none, false, 0⟩
def validating (v : Nat) (s : State) : State := { s with fr := { s.fr with validating := some (wOf v, baseReq .firmware) } }

def access (pa len : Nat) (w det : Bool) : MemReq := ⟨2, pa, len, w, 5, false, false, det, if w then List.replicate len 9 else []⟩
def queued (r : MemReq) (n : Nat) : QReq := asAccepted one n r
def withChan (c : Chan) : State := { one with ms := { one.ms with chans := [(channelAt one 0x20000, { c with nextSeq := 99 })] } }
def chan0 (s : State) : Chan := chanOf s (channelAt one 0x20000)
def idleFrames (s : State) : State := { s with fr := { s.fr with ft := none, ftPend := none, ftPend2 := none } }
theorem test_witness_sends :
    ((Ready one 0 ∧ 6 ≤ wBits (wOf (6 * 2 ^ 14)) 16 14 ∧ serge (tileOf one 0) = false ∧ Enterable (tileOf one 0) .muslin 2) ∧
    (Ready one 0 ∧ badSource one 0 .dma 1 = some 1 ∧ badSource one 0 .send (wOf (2 ^ 26)) = some 1 ∧ badSource one 0 .put (wOf (2 ^ 11)) = some 1 ∧ Enterable (tileOf one 0) .muslin 8) ∧
    (Ready one 0 ∧ (∀ row ∈ bufferedRows, badSource one 0 row.2 0 = none) ∧ (tileOf one 0).sb.length < 8 ∧ wBits 0 16 14 < 6) ∧
    (let clear := fun (a n : Nat) => a % 64 = 0 ∧ a + n ≤ 0xC0000 ∧ ((tileOf one 0).calen = false ∨ (bankIn one 0).inlib = true ∨ a + n ≤ 0xB0000)
     Ready one 0 ∧ (tileOf one 0).sb.length < 8 ∧ (tileOf one 0).calen = true ∧ clear 0xAFFC0 64 ∧ clear 0xAFF00 256 ∧ clear 0xAFC00 1024 ∧
       (wOf (2 ^ 26 * 0xAFF00 + 3 * 2 ^ 17 + 5 * 2 ^ 14)).toNat / 2 ^ 14 % 8 < 6) ∧
    (let s := at0 { run1 with sb := List.replicate 8 store4 }
     Ready s 0 ∧ (∀ row ∈ bufferedRows, badSource s 0 row.2 0 = none) ∧ 8 ≤ (tileOf s 0).sb.length) ∧
    (Ready one 0 ∧ 6 ≤ (6 : BitVec 3).toNat ∧ serge (tileOf one 0) = false ∧ Enterable (tileOf one 0) .muslin 2) ∧
    (Ready one 0 ∧ (5 : BitVec 3).toNat < 6 ∧ (mailboxBad one 0 (mail 1 15 0xBFF00)).isSome ∧ mailboxBad one 0 (mail 1 0 0x100) = none ∧
       Enterable (tileOf one 0) .muslin 8) ∧
    (let s := at0 { run1 with world := .serge }
     Ready s 0 ∧ (tileOf s 0).sup = true ∧ serge (tileOf s 0) = true ∧ mailboxBad s 0 0 = none)) ∧
    (let s := at0 { run1 with world := .serge, calen := false }
     let base := (mail 1 15 0xBF000).toNat / 2 ^ 20 % 2 ^ 20 / 256 * 256
     Ready s 0 ∧ (tileOf s 0).sup = true ∧ serge (tileOf s 0) = true ∧ base = 0xBF000 ∧ base + 4096 ≤ 0xC0000 ∧ (tileOf s 0).calen = false ∧
       ∀ off, tsinHit s 0 off = false) :=
  ⟨by and_intros <;> first | decide +kernel | ((try unfold Ready); (try unfold Enterable); decide +kernel),
   ⟨by unfold Ready; decide +kernel, by decide +kernel, by decide +kernel, by decide +kernel, by decide +kernel, by decide +kernel,
     fun off => by
       unfold tsinHit
       rw [show (entryOf (at0 { run1 with world := .serge, calen := false }) 0).tsin = 0 from by decide +kernel]
       simp⟩⟩
theorem test_witness_mesh :
    (let o := sends false false 1 0
     let s := withMesh [o]
     Clocked s 0 ∧ firstDue (deliverable s (tileOf s 0).mesh.out) = some o ∧ s.ms.bad = [] ∧ s.ms.errs = [] ∧ o.lines.length ≤ 256 ∧ o.put = false ∧ messageTile o = 1 ∧
       idxAvail s 1 = true ∧ unreachable s (some 0) 0 = false ∧ (tileOf s 1).mesh.stamp ≠ s.fr.cyc ∧ wBit (smGet 0 (tileOf s 1).mesh.mb 0) 0 = true ∧ slotPlace (tileOf s 1).mesh 0 + o.lines.length ≤ 0xC0000) ∧
    (let o := sends false false (1 + 2 ^ 14) 0
     let s := withMesh [o]
     Clocked s 0 ∧ firstDue (deliverable s (tileOf s 0).mesh.out) = some o ∧ s.ms.bad = [] ∧ s.ms.errs = [] ∧ o.lines.length ≤ 256 ∧ messageBox o = 1 ∧ idxAvail s 1 = true ∧ unreachable s (some 0) 0 = false ∧ wBit (smGet 0 (tileOf s 1).mesh.mb 1) 0 = false) ∧
    (let o := sends false false 10239 0
     let s := { withMesh [o] with dies := [(7, { dieOf one 7 with fenced := true })] }
     Clocked s 0 ∧ firstDue (deliverable s (tileOf s 0).mesh.out) = some o ∧ s.ms.bad = [] ∧ s.ms.errs = [] ∧ o.lines.length ≤ 256 ∧ o.put = false ∧ ¬(idxAvail s (messageTile o) = true ∧ unreachable s (some 0) 7 = false)) ∧
    (let o := sends true false 0 0x20040
     let s := withMesh [o]
     Clocked s 0 ∧ firstDue (deliverable s (tileOf s 0).mesh.out) = some o ∧ s.ms.bad = [] ∧ s.ms.errs = [] ∧ o.lines.length ≤ 256 ∧ o.put = true ∧ 0 < o.lines.length ∧ o.pa + o.lines.length ≤ 0x12000000000 ∧
       refusal s (putAccess o.cxid) o.pa o.lines.length = none) ∧
    (let o := sends true false 0 0x400000
     let s := withMesh [o]
     Clocked s 0 ∧ firstDue (deliverable s (tileOf s 0).mesh.out) = some o ∧ s.ms.bad = [] ∧ s.ms.errs = [] ∧ o.lines.length ≤ 256 ∧ refusal s (putAccess o.cxid) o.pa o.lines.length ≠ none) ∧
    (let s := { withMesh [sends true true 0 0] with tw := { one.tw with remote := [⟨5, 0, 2, false⟩, ⟨5, 1, 1, false⟩] } }
     Clocked s 0 ∧ s.tw.remote.find? (fun r => r.tag == 5 && r.lti == 0) = some ⟨5, 0, 2, false⟩ ∧ 1 < 2) ∧
    (let s := { withMesh [sends true true 0 0] with tw := { one.tw with remote := [⟨5, 0, 1, true⟩] } }
     s.tw.remote.find? (fun r => r.tag == 5 && r.lti == 0) = some ⟨5, 0, 1, true⟩ ∧
       (tileOf s 0).mesh.out.find? (fun o => o.remote && o.tag == 5) = some (sends true true 0 0)) ∧
    (one.tw.remote.find? (fun r => r.tag == 5 && r.lti == 0) = none) := by and_intros <;> first | decide +kernel | ((try unfold Clocked); decide +kernel)
theorem test_witness_dma :
    (let s := setDmaCh (at0 { run1 with sb := [dmaEntry, { store4 with seq := 9 }], det := true }) 0 0 ⟨[], List.replicate 4 (job 0 0 1 0), none, [], false, none⟩
     Clocked s 0 ∧ (tileOf s 0).sb = dmaEntry :: [{ store4 with seq := 9 }] ∧ dmaEntry.kind = .dma ∧ dmaEntry.skip = false ∧ s.ms.bad = [] ∧
       (∀ x ∈ [{ store4 with seq := 9 }], x.seq ≠ dmaEntry.seq) ∧ (tileOf s 0).det = true) ∧
    (let s := setDmaCh (at0 { run1 with sb := [dmaEntry] }) 0 0 ⟨[], List.replicate 3 (job 0 0 1 0), none, [], false, none⟩
     Clocked s 0 ∧ waitingOf (dmaChOf s 0 0) 0 < 4) ∧
    (∀ j ∈ [job 0x10001 0x20000 3 0, job 0x10000 0x10040 3 0, job 0x10000 0x20000 0 0, job 0x10000 0x20000 3 0],
       let s := channel [j] (List.replicate 3 (job 0 0 1 0)) none
       (159 : BitVec 8).toNat < 160 ∧ (dmaChOf s 159 3).arriving = j :: [] ∧ waitingOf (dmaChOf s 159 3) j.lti < 4 ∧ j.next = 0 ∧ j.early = false) ∧
    (descRefused (job 0x10001 0x20000 3 0) = some 9 ∧ descRefused (job 0x10000 0x10040 3 0) = some 0xB ∧
       descRefused (job 0x10000 0x20000 0 0) = none ∧ descRefused (job 0x10000 0x20000 3 0) = none) ∧
    (∀ d : Bool,
       let j := { job 0x10000 0x20000 3 0 with det := d }
       let s := channel [j] (List.replicate 4 (job 0 0 1 0)) none
       (dmaChOf s 159 3).arriving = j :: [] ∧ 4 ≤ waitingOf (dmaChOf s 159 3) j.lti) ∧
    (let s := channel [] [job 0x10000 0x20000 3 0] none
     (dmaChOf s 159 3).run = none ∧ (dmaChOf s 159 3).waiting = job 0x10000 0x20000 3 0 :: []) ∧
    (let j := job 0x10000 0x20000 3 2
     let s := channel [] [] (some j)
     let c := (unitPa s 159 3 j false (j.src + 64 * j.next)).toOption.getD (0, false, s)
     let d := (unitPa c.2.2 159 3 j true (j.dst + 64 * j.next)).toOption.getD (0, false, s)
     (dmaChOf s 159 3).run = some j ∧ j.next < j.len ∧ dmaExpired s j = false ∧ c.1 = 0x20080 ∧ d.1 = 0x30080 ∧ genOk c.2.2 j c.1 = true ∧
       genOk d.2.2 j d.1 = true ∧ heldByCopy d.2.2 c.1 = false ∧ heldByCopy d.2.2 d.1 = false ∧ refusal d.2.2 (dmaAcc j true) d.1 64 = none ∧
       (checkedRead d.2.2 (dmaAcc j false) c.1 64).toOption.isSome ∧ s.ms.bad = [] ∧ s.ms.errs = []) ∧
    (let sp : RecPage := ⟨false, 1, 0, 0x20000, true⟩
     let dp : RecPage := ⟨true, 2, 0, 0x30000, false⟩
     let j := { job 0x10000 0x20000 3 2 with early := true, pages := [sp, dp] }
     let s := channel [] [] (some j)
     let at_ := fun (p : RecPage) (va : Nat) => p.pbase + va % 2 ^ pageBits p.level
     (dmaChOf s 159 3).run = some j ∧ j.next < j.len ∧ s.fr.fnum.toNat < j.frame + 2 ∧ sp.vpage = (j.src + 64 * j.next) / 2 ^ pageBits sp.level ∧
       dp.vpage = (j.dst + 64 * j.next) / 2 ^ pageBits dp.level ∧ at_ sp (j.src + 64 * j.next) = 0x20080 ∧ at_ dp (j.dst + 64 * j.next) = 0x30080 ∧
       smGet 0 s.ms.gen 0 = smGet 0 j.gens 0 ∧ smGet 0 ({ s with ms := { s.ms with gen := [(0, 1)] } }).ms.gen 0 ≠ smGet 0 j.gens 0 ∧
       heldByCopy s 0x20080 = false ∧ heldByCopy s 0x30080 = false ∧ refusal s (dmaAcc j false) 0x20080 64 = none ∧
       refusal s (dmaAcc j true) 0x30080 64 = none ∧ s.ms.bad = [] ∧ s.ms.errs = []) ∧
    ((∀ k < 64, paClass (0x20080 + k) = .stacked ∧ paClass (0x30080 + k) = .stacked)) ∧
    (let s := channel [] [] (some (job 0x50000 0x20000 3 1))
     (match dmaUnit s 159 3 (job 0x50000 0x20000 3 1) with | .fail _ _ _ => true | _ => false) = true) ∧
    (let s := channel [] [] (some (job 0x10000 0x20000 3 3))
     (dmaChOf s 159 3).run = some (job 0x10000 0x20000 3 3) ∧ (job 0x10000 0x20000 3 3).len ≤ 3 ∧ s.fr.fnum.toNat = (job 0x10000 0x20000 3 3).frame ∧
       (job 0 0 0 0).sg.getLsbD 7 = true ∧ (job 0 0 0 0).sg.getLsbD 6 = false ∧ (job 0 0 0 0).sg.getLsbD 0 = true) ∧
    (let j := { job 0x10000 0x20000 3 0 with early := true, frame := 1 }
     (dmaChOf (channel [] [] (some j)) 159 3).run = some j ∧ dmaExpired (channel [] [] (some j)) j = true ∧ j.next < j.len) ∧
    (Untraced one) := by and_intros <;> first | decide +kernel | ((try unfold Clocked); (try unfold Untraced); decide +kernel)
theorem test_witness_ticks :
    (timerTicks one = true ∧ one.boot.ready = true ∧ suppressed one (one.fr.lastTick + periodOf one) = false) ∧
    (let s := framed fun f => { f with inGap := true, source := 1, holdover := 7 }
     s.fr.source = 1 ∧ s.boot.ready = true ∧ s.fr.ticked = true ∧ 119 + 120 < s.fr.lastTick + periodOf s ∧ s.fr.holdover ≠ 0) ∧
    (let s := framed fun f => { f with source := 2 }
     s.fr.source = 2 ∧ ({ s with tw := { s.tw with st := 2 } }).tw.st = 2) ∧
    (let s := { at0 { run1 with staged := some staged } with fr := { one.fr with inGap := true } }
     s.fr.inGap = true ∧ smWf Tile.zero s.tiles = true ∧ (∀ ft ∈ comingTable s, smWf FtEntry.zero ft.entries = true) ∧ 0 < 10240 ∧
       (dieOf s 0).clocks = true ∧ idxAvail s 0 = true ∧ (tileOf s 0).run ≠ .halted ∧ (clusterOf s 0).copying ≠ some 0 ∧
       (smGet FtEntry.zero table1.entries 0).en = true ∧ (tileOf s 0).staged = some staged ∧ staged.fault = 0) := by and_intros <;> decide +kernel
theorem test_witness_frameEvents :
    (one.fr.inGap = false ∧ one.fr.ticked = true ∧ one.fr.shootReq = false ∧ (framed fun f => { f with shootReq := true }).fr.shootReq = true ∧ smWf Tile.zero one.tiles = true) ∧
    (Clocked one 10239 ∧ (framed fun f => { f with wedgeK := 2, ovr := [(10239, 2)] }).fr.wedgeK.toNat ≤ smGet 0 [(10239, 2)] 10239 ∧ 10239 ∉ one.fr.wedgeRec ∧ one.fr.wedged = false ∧ one.dict.emergencies.length < 16) ∧
    (smGet 0 one.fr.ovr 0 < one.fr.wedgeK.toNat) := by and_intros <;> first | decide +kernel | ((try unfold Clocked); decide +kernel)
theorem test_witness_frameTables :
    (Answers one .zdp ∧ Answers one .mailbox ∧ Answers one .firmware ∧ Answers one (.twill true)) ∧
    (¬(one.fr.wedged = true ∨ one.rel.svc.toNat ≤ 1 ∨ one.rel.stRec ≠ none) ∧ (framed fun f => { f with wedged := true }).fr.wedged = true) ∧
    (let s := validating 0x600001 one
     s.fr.validating = some (wOf 0x600001, baseReq .firmware) ∧ s.dict.waiting = [] ∧ (baseReq .firmware).cmd = 0x20 ∧ (wOf 0x600001).toNat % 64 ≠ 0) ∧
    (0x12000000000 < (wOf (0x12000000000 - 0x50240 + 64)).toNat + 0x50240 ∧ (wOf (0x12000000000 - 0x50240 + 64)).toNat % 64 = 0) ∧
    ((match validate (validating 0x600000 (header 2 5)) 0x600000 with | .error (c, _) => c == 2 | .ok _ => false) = true) := by simp only [answers_iff]; and_intros <;> first | decide +kernel | ((try simp only [answers_iff]); decide +kernel)
theorem test_witness_memoryControllers :
    (∀ q ∈ [access 0x20000 64 true false, access 0x2003F 1 true false, access 0x20000 64 false true],
       let s := withChan Chan.zero
       channelAt s q.pa = channelAt one 0x20000 ∧ s.ms.held = [] ∧ s.ms.bad = [] ∧ s.ms.errs = [] ∧ reqFits q = true ∧ reqRefused s q = false ∧
         queueFull (chan0 s) q.write (badKey s q.pa) = false) ∧
    (let a := access 0x20000 8 true true
     let b := access 0x20000 8 true false
     (a.det = true ∧ b.det = false) ∧ (b.det = b.det ∧ b.path < ({ b with path := 3 }).path)) ∧
    (let h := access 0x20000 8 true false
     let s := withChan { Chan.zero with rq := List.replicate 64 (queued (access 0x20000 8 false false) 1), wq := List.replicate 63 (queued (access 0x20000 64 true false) 1), merges := [queued (access 0x20040 8 true false) 2] }
     let u := { s with ms := { s.ms with held := [h] } }
     s.ms.held = [] ∧ u.ms.held = [h] ∧ reqFits h = true ∧ reqRefused u h = false ∧ queueFull (chan0 s) true (badKey s 0x20000) = true ∧
       queueFull (chan0 s) false (badKey s 0x20000) = true) ∧
    (reqFits (access 0x2003F 2 true false) = false ∧ reqFits (access 0x400000 8 true false) = true ∧ reqRefused (withChan Chan.zero) (access 0x400000 8 true false) = true) ∧
    (let m := { queued (access 0x20010 8 true false) 1 with served := true }
     let s := withChan { Chan.zero with merges := [m] }
     readyMerge (chan0 s) = some m ∧ s.ms.held = [] ∧ inService s (channelAt one 0x20000) = true ∧ s.ms.bad = [] ∧ s.ms.errs = [] ∧
       eccAt (flipLine s m.key [1, 1]) m.key = .uncorrectable) ∧
    (let q := queued (access 0x20040 8 false true) 2
     let s := withChan { Chan.zero with rq := [queued (access 0x20000 8 false false) 1, q] }
     inService s (channelAt one 0x20000) = true ∧ s.ms.held = [] ∧ (chooseReq s (channelAt one 0x20000) (chan0 s)).1 = some q ∧
       servable (chan0 s) q = true ∧ q.req.write = false ∧ q.snap = none ∧ s.ms.bad = [] ∧ s.ms.errs = []) ∧
    (let q := { queued (access 0x20000 8 false false) 1 with snap := some (List.replicate 64 7, []) }
     let s := withChan { Chan.zero with rq := [q] }
     (chooseReq s (channelAt one 0x20000) (chan0 s)).1 = some q ∧ (List.replicate 64 (7 : Byte)).length = 64) ∧
    (let q := queued (access 0x20010 8 true false) 1
     let s := withChan { Chan.zero with merges := [q], agedWrite := true }
     (chooseReq s (channelAt one 0x20000) (chan0 s)).1 = some q ∧ mergeRead q = true) ∧
    (let q := queued { access 0x20000 8 false false with lc := true } 1
     lcReads { Chan.zero with rq := [q] } = q :: []) ∧
    ((chooseReq (withChan Chan.zero) 0 (chanOf (withChan Chan.zero) 0)).1 = none ∧ inService { one with ms := { one.ms with chans := [(0, { Chan.zero with out := true })] } } 0 = false ∧ (47 : BitVec 6).toNat < 48 ∧ 48 ≤ (48 : BitVec 6).toNat) := by and_intros <;> decide +kernel
theorem test_witness_memoryService :
    (let k := lineKey 1023 18874367
     inService one 1023 = true ∧ one.ms.scrubHours ≠ 0 ∧ 18874367 < 18874368 ∧ slotIdle one 1023 = true ∧
       smGet 0 (chanOf one 1023).refresh (16 * (rankBankRow (64 * 18874367)).1 + (rankBankRow (64 * 18874367)).2.1) = 0 ∧
       eccAt one k = .clean ∧ eccAt (flipLine one k [1]) k = .corrected 0 ∧ eccAt (flipLine one k [1, 1]) k = .uncorrectable ∧
       (∀ q ∈ (chanOf one 1023).wq ++ (chanOf one 1023).merges, q.key ≠ k) ∧ Untraced one) ∧
    (let s := idleFrames one
     Commits s .firmware ∧ noTable s = true ∧ serviceBusy s = false ∧ wBits (wOf 0x2FFF0412) 11 10 ≠ 3 ∧ wBits (wOf 0x2FFF0412) 29 16 < 12288 ∧
       smGet 0 s.ms.repairsSoft (repairKey (wOf 0x2FFF0412)) = 0 ∧ wBit (wOf 0x2FFF0412) 30 = false) ∧
    (Commits one .mailbox ∧ noTable one = false ∧ wBits (wOf 0xC00) 11 10 = 3 ∧ 12288 ≤ wBits (wOf 0x30000000) 29 16) ∧
    (({ one with ms := { one.ms with margining := some 0x12 } }).ms.margining = some 0x12 ∧ ([(3, 4)] : List (BitVec 8 × BitVec 8))[0]? = some (3, 4) ∧ (marginChans 0x12)[0 / 19]? = some 129 ∧ ({ one with ms := { one.ms with repair := some 0x412 } }).ms.repair = some 0x412) := by (try unfold Commits); simp only [answers_iff]; and_intros <;> first | decide +kernel | ((try unfold Commits); (try unfold Untraced); (try simp only [answers_iff]); decide +kernel)
theorem test_witness_retriesAndSparing :
    (one.host.heldReqs = [] ∧ Clocked one 0 ∧ (tileOf one 0).run = .running ∧ retriesOf (tileOf one 0) 9 < 1 ∧ retriesOf { run1 with retry := [⟨1, 10, 0, 1⟩] } 1 < 2 ∧ retriesOf { run1 with retry := [⟨1, 10, 0, 1⟩] } 1 = 1) ∧
    ((∀ cause, ParityFault.storeBit 8 ≠ .retires cause) ∧ (∀ cause, ParityFault.storeWord 786431 ≠ .retires cause) ∧ (786431 : BitVec 20).toNat < 786432) ∧
    ((clusterOf one 0).unavailable = false ∧ (clusterOf one 0).spareFor = none ∧ (clusterOf one 0).spareBad = false ∧ (clusterOf one 0).copying = none) ∧
    (let s := { one with clusters := [(0, { Cluster.zero with spareFor := some 3 }), (1, { Cluster.zero with unavailable := true })] }
     Clocked s 0 ∧ (clusterOf s 0).unavailable = false ∧ (clusterOf s 0).spareFor ≠ none ∧ (clusterOf s 1).unavailable = true) ∧
    (let s := { at0 { run1 with replay := true, hdr := some staged } with clusters := [(0, { Cluster.zero with copying := some 0, retired := [0] })] }
     (639 : BitVec 10).toNat < 640 ∧ s.tw.held = [] ∧ (clusterOf s 0).copying = some 0 ∧ (tileOf s (16 * 0 + 0)).replay = true ∧
       (tileOf s (16 * 0 + 0)).hdr = some staged ∧ staged.fault = 0 ∧ (clusterOf s 639).copying = none) := by and_intros <;> first | decide +kernel | ((try unfold Clocked); decide +kernel)

def entry (sev : Nat) : LogEntry := ⟨1, BitVec.ofNat 3 sev, 1, 2, 3, 4, 5, 6, 7⟩
def hot (head tail : Nat) : State :=
  { one with ms := { one.ms with hotBase := 0x20000, hotM := 2, hotHead := BitVec.ofNat _ head, hotTail := BitVec.ofNat _ tail, hotDue := [(3, 5, 7, 9)] } }

theorem test_witness_errorRecords :
    (∀ sev ∈ [3, 4],
       let s := { one with rel := { one.rel with queues := [(8, [entry sev])], log := List.replicate 1024 (entry 0), persist := List.replicate 64 (entry 5) } }
       8 < 9 ∧ (∀ p, p < 8 → smGet [] s.rel.queues p = []) ∧ smGet [] s.rel.queues 8 = entry sev :: [] ∧ 1024 ≤ s.rel.log.length) ∧
    (∀ q, q < 9 → smGet [] one.rel.queues q = []) ∧
    ((hot 6 2).ms.hotDue.find? (fun e => e.1 == 3) = some (3, 5, 7, 9) ∧ ((hot 6 2).ms.hotHead - (hot 6 2).ms.hotTail).toNat = 2 ^ (hot 6 2).ms.hotM.toNat) ∧
    (((hot 5 2).ms.hotHead - (hot 5 2).ms.hotTail).toNat ≠ 2 ^ (hot 5 2).ms.hotM.toNat ∧ (hot 5 2).ms.bad = [] ∧ (hot 5 2).ms.errs = [] ∧ 0x20000 + 16 + 16 ≤ 0x12000000000 ∧ Untraced (hot 5 2) ∧
       refusal ({ hot 5 2 with ms := { (hot 5 2).ms with owner := [] } }) (putAccess 0) (0x20000 + 16) 16 ≠ none ∧
       refusal ({ hot 5 2 with ms := { (hot 5 2).ms with owner := [(0, 0)] } }) (putAccess 0) (0x20000 + 16) 16 = none) := by and_intros <;> first | decide +kernel | ((try unfold Untraced); decide +kernel)

/-! ## A frame table that validates

The header at 0x2000 holds version 1 and a period of 0x4000 ns, every entry is 0, and the Serge context owns granule 0. -/

def tableState : State :=
  { one with ms := { one.ms with owner := [(0, 0)], mem := [(4096, 1), (4101, 0x40)] } }

theorem tableState_rest (pa : Nat) (h : 0x2040 ≤ pa) (h' : pa < 0x100000) : hubByte tableState pa = 0 := by
  have hc : paClass pa = .stacked := by unfold paClass; rw [if_pos (by omega)]
  have hk : dramKey false pa ≠ 4096 ∧ dramKey false pa ≠ 4101 := by
    unfold dramKey stackOf localOf bitsOf
    simp only [Bool.false_eq_true, if_false, Nat.shiftRight_eq_div_pow]
    omega
  have hb : tableState.ms.bad = [] := rfl
  have hm : tableState.ms.mem = [(4096, 1), (4101, 0x40)] := rfl
  have hi : tableState.fr.ilv = false := rfl
  have he : ∀ k, lineErr tableState k = [] := fun k => by unfold lineErr; simp [hb, show tableState.ms.errs = [] from rfl, smGet]
  have hr : readErr tableState pa = [] := by simp [readErr, he]
  unfold hubByte readByte memKey
  simp [hb, hm, hi, hc, smGet, hk.1.symm, hk.2.symm, hr, deliveredByte]

theorem tableState_entry (i : Nat) (h : i < 10240) : parseEntry (hubNat tableState (0x2000 + 0x40 + 32 * i) 32) = FtEntry.zero := by
  have e : (List.range 32).map (fun j => hubByte tableState (0x2000 + 0x40 + 32 * i + j)) = (List.range 32).map fun _ => 0 :=
    List.map_congr_left fun j hj => tableState_rest _ (by omega) (by have := List.mem_range.mp hj; omega)
  unfold hubNat
  rw [e]
  decide +kernel

theorem firstBad_none (n : Nat) : firstBad n (fun _ => false) = none := by simp [firstBad]

theorem getD_entries (n i : Nat) (f : Nat → FtEntry) (h : ∀ i, i < n → f i = FtEntry.zero) :
    ((List.range n).map f).getD i FtEntry.zero = FtEntry.zero := by
  rcases Nat.lt_or_ge i n with hi | hi
  · simp [List.getD_eq_getElem?_getD, hi, h i hi]
  · simp [List.getD_eq_getElem?_getD, hi]

theorem test_witness_validTable : ∃ x, validate tableState (wOf 0x2000).toNat = .ok x := by
  have hv : (wOf 0x2000).toNat = 0x2000 := by decide
  have hh : hubNat tableState 0x2000 64 = 1 + 0x40 * 2 ^ 40 := by decide +kernel
  have he := fun i => getD_entries 10240 i _ tableState_entry
  have ho : ownedBy tableState 0 0x2000 tableSize = true := by decide +kernel
  have hu : tableState.boot.upBuffer = false := rfl
  rw [hv]
  unfold validate
  simp only [hh, he, hu]
  have h2 : (FtEntry.zero.wl == 2) = false := rfl
  have h3 : (FtEntry.zero.wl == 3) = false := rfl
  have h4 : FtEntry.zero.en = false := rfl
  simp only [h2, h3, h4, Bool.false_and, Bool.or_false, firstBad_none]
  have hn : bitsOf (1 + 64 * 2 ^ 40) 69 64 = 0 := by decide +kernel
  have hp : bitsOf (1 + 64 * 2 ^ 40) 61 32 = 0x4000 := by decide +kernel
  have h7 : bitsOf (1 + 64 * 2 ^ 40) 7 0 = 1 := by decide +kernel
  have h8 : bitsOf (1 + 64 * 2 ^ 40) 29 28 = 0 := by decide +kernel
  simp only [hn, hp, h7, h8, tableSize]
  exact ⟨_, rfl⟩

theorem test_witness_zeroEntries : (wOf 0x2000).toNat % 64 = 0 ∧ (wOf 0x2000).toNat + 0x50240 ≤ 0x12000000000 ∧
    (∀ g, 0x2000 / 0x200000 ≤ g → g ≤ (0x2000 + 0x5023F) / 0x200000 → ownerOf tableState g = 0) ∧ tableState.boot.upBuffer = false ∧
    hubNat tableState 0x2000 64 = 1 + 2 ^ 16 * (0 : BitVec 12).toNat + 2 ^ 32 * 16384 ∧
    ∀ n, n < 10240 → hubNat tableState (0x2000 + 0x40 + 32 * n) 32 = 0 := by
  refine ⟨by decide, by decide, fun g _ h => ?_, rfl, by decide +kernel, fun n h => ?_⟩
  · obtain rfl : g = 0 := by omega
    decide +kernel
  · have e : (List.range 32).map (fun j => hubByte tableState (0x2000 + 0x40 + 32 * n + j)) = (List.range 32).map fun _ => 0 :=
      List.map_congr_left fun j hj => tableState_rest _ (by omega) (by have := List.mem_range.mp hj; omega)
    unfold hubNat
    rw [e]
    decide +kernel

/-! ## Dictionary, links, host, power, reset -/

def xfer (idx sub size : Nat) (data : List Byte) (last : Option Bool) (pos : Nat) : DomXfer :=
  { noXfer with idx := BitVec.ofNat 16 idx, sub := BitVec.ofNat 8 sub, size := size, data := data, lastT := last, pos := pos }
def writing (x : DomXfer) : State := { one with dict := { one.dict with domW := [(3, x)] } }
def reading (x : DomXfer) : State := { one with dict := { one.dict with domR := [(3, x)] } }

def payload1 : List Byte := List.replicate 64 7
def heartbeatWrite : List Byte := message 0x20 false false 0x1011 0 7 [9, 1]
def answer : List Byte := message 0x11 false false 0x1011 0 7 [9, 1]
/-- Flits of package 9 to package 3 with sequence number 5, as R305 lays a header out. -/
def putFlit : BitVec 256 := 0x7C4BCD3F0000000000000000000005001400000000020040490C900000000141
def putRefusedFlit : BitVec 256 := 0x18656FDF0000000000000000000005001400000000400000490C900000000141
def messageFlit : BitVec 256 := 0x9F5D155C0000000000000000000005001400000000000001490C900000000142
def droppedFlit : BitVec 256 := 0xC77E744B0000000000000000000005001400000000004001490C900000000142
def managementFlit : BitVec 256 := 0x5CD61B870000000000000000000005001400000000000000490C900000000146
/-- It brings the payload `answer`. -/
def answerFlit : BitVec 256 := 0x6D9106C10000000000000000000005001400000000000000490C900000000146
def completionFlit : BitVec 256 := 0x977A12860000000000000000000005001400000000000000490C900000000143
def up5 : Link := { Link.zero with status := 2, lanes := 16, delayPs := 3000, expSeq := 5 }
def linked (l : Link) : State :=
  { withMesh [] with tw := { one.tw with links := [(0, l)], id := 3, remote := [⟨5, 0, 2, false⟩] } }
/-- System tick flits of package 1 for tick 9, with a lead of 3001 and of 3000 ps, and the second with a wrong CRC. -/
def tick3001 : BitVec 256 := 0xEFCDCBA20000000000000000090000000000000000000BB909FC100000000004
def tick3000 : BitVec 256 := 0x1317FE4E0000000000000000090000000000000000000BB809FC100000000004
def tickBad : BitVec 256 := 0x1317FE4E0000000000000000090000000000000000000BB819FC100000000004
def twilled (f : Twill → Twill) : State :=
  { linked up5 with fr := { one.fr with source := 2 }, tw := f (linked up5).tw }
def hosted (f : HostIf → HostIf) : State := { one with host := f { one.host with cxid := 5 } }
def reqs (dn : Option (Bool × List Byte)) : List HostReq := [⟨1, false, some (0, 2), none, 0x1000, 8, [], dn, true⟩]
def powered (f : Power → Power) : State := { one with pw := f one.pw }
def resetting (f : Boot → Boot) : State := { one with boot := f one.boot }
theorem test_witness_dictionaryValues :
    (Answers one .mailbox ∧ Answers one .zdp ∧ Answers one .firmware ∧ Answers one (.twill false)) ∧
    ((match objFind 0x1234 0 with | .error c => c == 1 | .ok _ => false) = true ∧ (match objFind 0x1010 9 with | .error c => c == 2 | .ok _ => false) = true) ∧
    ((match objFind 0x3014 0 with | .ok r => r.acs == .tl && !r.srg && r.typ != 8 && !readState one 0x3014 0 | .error _ => false) = true) ∧
    ((match objFind 0xE000 0 with | .ok r => r.srg | .error _ => false) = true ∧ pathSerge .mailbox = false ∧ pathSerge .firmware = true) ∧
    (∀ p ∈ [Path.mailbox, .zdp, .firmware], ∀ v ∈ [1, 64],
       [BitVec.ofNat 8 v].length ≤ pathLimit p ∧ writeState p 0x3014 0 one = false ∧ valueOk one 0x3014 0 v = true ∧ valueOk one 0x3014 0 65 = false) ∧
    (∀ row ∈ readBackRows, (List.replicate row.2.2 (1 : Byte)).length = row.2.2 ∧ [1, 60].any (fun v => valueOk one row.1 row.2.1 v) = true) := by simp only [answers_iff]; and_intros <;> first | decide +kernel | ((try simp only [answers_iff]); decide +kernel)
theorem test_witness_domainTransfers :
    (one.dict.domW = [] ∧ Answers one .mailbox ∧ 1 ≤ (16 : BitVec 32).toNat ∧ (16 : BitVec 32).toNat ≤ 16) ∧
    (openRefused (plainReq .mailbox 0x30 0x3015 0 7 (leBytes 4 16)) 16 true one = none ∧ (openRefused (plainReq .mailbox 0x30 0x1010 1 7 (leBytes 4 16)) 16 true one).isSome) ∧
    (let x := xfer 0x3015 0 16 (List.replicate 8 4) (some true) 0
     pathNo .zdp = 3 ∧ Answers (writing x) .zdp ∧ (writing x).dict.domW.find? (fun e => e.1 == 3 && e.2.idx == 0x3015 && e.2.sub == 0) = some (3, x) ∧ nextSegment x false ∧
       smWf noXfer (writing x).dict.domW = true ∧ 16 < (x.data ++ List.replicate 9 4).length ∧ (x.data ++ List.replicate 8 (4 : Byte)).length = x.size ∧
       (List.replicate 9 (4 : Byte)).length ≤ pathLimit .zdp ∧ (objCheck (plainReq .zdp 0x32 0x3015 0 7 (List.replicate 8 4)) true).toOption.isSome ∧ x.src = none ∧ openAt (writing x).dict.domW 3 = some x) ∧
    (let x := xfer 0x4050 0 3000 (List.replicate 3000 7) none 0
     Answers (reading x) .zdp ∧ (reading x).dict.domR.find? (fun e => e.1 == 3 && e.2.idx == 0x4050 && e.2.sub == 0) = some (3, x) ∧ nextSegment x false ∧
       openAt (reading x).dict.domR 3 = some x ∧ smWf noXfer (reading x).dict.domR = true ∧ (objCheck (plainReq .zdp 0x42 0x4050 0 7 []) false).toOption.isSome ∧ ¬ x.size ≤ x.pos + ((x.data.drop x.pos).take (pathLimit .zdp)).length) ∧
    ((objCheck (plainReq .mailbox 0x42 0x1234 0 7 []) false).toOption.isNone ∧ (objCheck (plainReq .mailbox 0x32 0x1234 0 7 [1]) true).toOption.isNone ∧
       (objCheck (plainReq .mailbox 0x32 0xE000 0 7 [1]) true).toOption.isNone) ∧
    (let x := { xfer 0x3015 0 16 [] none 0 with src := some 9 }
     let s := { one with dict := { one.dict with domW := [(2, x)] } }
     Answers s (.twill false) ∧ openAt s.dict.domW (pathNo (.twill false)) = some x ∧ x.src = some 9 ∧ smWf noXfer s.dict.domW = true) ∧
    (let x := xfer 0x4050 0 70 (List.replicate 70 7) (some true) 64
     nextSegment x false ∧ x.size ≤ x.pos + ((x.data.drop x.pos).take (pathLimit .zdp)).length) := by simp only [answers_iff]; and_intros <;> first | decide +kernel | ((try unfold nextSegment); (try simp only [answers_iff]); decide +kernel)
theorem test_witness_recordWrites :
    (Commits one .mailbox ∧ Commits one .firmware ∧ pathSerge .mailbox = false ∧ pathSerge .firmware = true) ∧
    (wBits 0 11 0 = 0 ∧ wBits 0xFFF 11 0 = 0xFFF ∧ 8 * [(5 : Word)].length ≤ 32768 ∧ 0x12000000000 ≤ wBits (wOf (2 ^ 44 - 1)) 43 16 * 65536 ∧ wBit (wOf (2 ^ 44 - 1)) 12 = true) ∧
    (let r := wOf (589823 + 2 ^ 20 + 5 * 2 ^ 40)
     let s := { one with ms := { one.ms with cleared := [(552959, true), (589823, true)] } }
     Commits s .firmware ∧ ownRange r = false ∧ ownRange (wOf (589824 + 2 ^ 20)) = true ∧ ownNew 0 = 0 ∧ ownFirst r = 589823 ∧ ownCount r = 1 ∧
       granuleCleared s 589823 = true ∧ granuleFenced s (589823 * 0x200000) = false) ∧
    (dieRouteOk one 64 0 = true ∧ dieRouteOk one 1 5 = false ∧ (64 : BitVec 8).toNat ≤ 64 ∧ (0x80 : BitVec 32).getLsbD 7 = true) ∧
    (let s := { one with dict := { one.dict with armed := some (pathNo .firmware) } }
     s.dict.armed = some (pathNo .firmware) ∧ one.dict.armed ≠ some (pathNo .firmware)) ∧
    (one.dict.canTx.length < 31 ∧ one.boot.upPend = false ∧ valueOk one 0x9000 3 200 = false ∧ valueOk one 0x9000 1 0 = true) := by (try unfold Commits); simp only [answers_iff]; and_intros <;> first | decide +kernel | ((try unfold Commits); (try simp only [answers_iff]); decide +kernel)
theorem test_witness_testsImagesAttestation :
    ((Commits (idleFrames one) .firmware ∧ noTable (idleFrames one) = true ∧ serviceBusy (idleFrames one) = false ∧ (∀ sc ∈ [1, 2, 3, 4, 15], stScope (wOf (sc + 0xFF00)) = sc ∧ stDies (wOf (sc + 0xFF00)) ≠ [])) ∧
    (noTable one = false ∧ ({ one with rel := { one.rel with stRec := some 0x111 } }).rel.stRec = some 0x111 ∧ one.host.heldReqs = []) ∧
    ((imageFails one []).isSome ∧ one.boot.upStoring = none ∧ ([] : List Byte).length ≤ 16777216) ∧
    ((List.replicate 32 (7 : Byte)).length = 32 ∧ one.boot.attState ≠ 1 ∧ one.boot.nonce = [] ∧ one.boot.identOk = true) ∧
    (let pairs : List (BitVec 24) := List.replicate 64 0x011010
     3 * pairs.length ≤ 192 ∧ (∀ p ∈ pairs.map fun p => (p.toNat % 65536, p.toNat / 65536), selectable false p.1 p.2 = true) ∧ selectable false 0xE000 0 = false)) ∧
    ((resetting fun b => { b with upStoring := some Image.factory, active := true }).boot.upStoring = some Image.factory) :=
  ⟨by (try unfold Commits); simp only [answers_iff]; and_intros <;> first | decide +kernel | ((try unfold Commits); (try simp only [answers_iff]); decide +kernel),
   rfl⟩
theorem test_witness_nodeEvents :
    (one.dict.heartbeat ≠ 0 ∧ one.boot.ready = true ∧ one.dict.canSt ≠ 2 ∧ one.dict.emergencies = (5, 0, 0, 0) :: [] ∧ one.dict.canStby = false) ∧
    (Clocked one 0 ∧ (tileOf one 0).run ≠ .idle ∧ (tileOf one 0).exc.ipS.getLsbD 2 = false ∧ (tileOf one 1).run = .idle) := by and_intros <;> first | decide +kernel | ((try unfold Clocked); decide +kernel)

/-- A fold over 256 bytes, 32 by 32. -/
theorem fold_parts {α : Type} (f : α → Byte → α) (q : List Byte) (a : α) (n : Nat) : (q.take (32 * n)).foldl f a =
    (List.range n).foldl (fun x k => ((q.drop (32 * k)).take 32).foldl f x) a := by
  induction n with
  | zero => rfl
  | succ n ih => rw [List.range_succ, List.foldl_append, ← ih, Nat.mul_succ, List.take_add, List.foldl_append]; rfl

/-- The CRC of a flit: of its header, then of its payload in eight runs, whose values are given. -/
theorem crc_in_steps {h : BitVec 256} {q : List Byte} {a b c c2 c3 c4 c5 c6 c7 : BitVec 32}
    (hs : q.length = 256 ∧ (leBytes 28 h.toNat).foldl crcByte 0xFFFFFFFF = a ∧
      let run := fun (k : Nat) (x y : BitVec 32) => ((q.drop (32 * k)).take 32).foldl crcByte x = y
      run 0 a b ∧ run 1 b c ∧ run 2 c c2 ∧ run 3 c2 c3 ∧ run 4 c3 c4 ∧ run 5 c4 c5 ∧ run 6 c5 c6 ∧ run 7 c6 c7) :
    flitCrc h q = ~~~c7 := by
  obtain ⟨hq, ha, hb, hc, h2, h3, h4, h5, h6, h7⟩ := hs
  have e := fold_parts crcByte q a 8
  rw [List.take_of_length_le (by omega)] at e
  unfold flitCrc
  rw [List.foldl_append, ha, e]
  simp only [List.range_succ, List.range_zero, List.nil_append, List.cons_append, List.foldl_cons, List.foldl_nil, hb, hc, h2, h3, h4, h5, h6, h7]

theorem test_witness_put : Unanswered (linked up5) 0 putFlit payload1 := by
  unfold Unanswered InOrder
  refine ⟨⟨by decide +kernel, by
    rw [crc_in_steps (q := fullPayload payload1) (a := 0xE9C144A4) (b := 0xBA6CE037) (c := 0xD67D0289) (c2 := 0x15D04A97) (c3 := 0xC1E0B4F5) (c4 := 0xC406DB64) (c5 := 0xE0E3AC69) (c6 := 0xC90DC754) (c7 := 0x83B432C0) (by and_intros <;> decide +kernel)]
    decide +kernel, ?_⟩, ?_⟩ <;> and_intros <;> decide +kernel

theorem test_witness_putRefused : Unanswered (linked up5) 0 putRefusedFlit payload1 := by
  unfold Unanswered InOrder
  refine ⟨⟨by decide +kernel, by
    rw [crc_in_steps (q := fullPayload payload1) (a := 0x6360FF51) (b := 0x782662B4) (c := 0xF3FC0231) (c2 := 0xD48E1294) (c3 := 0xBF6B4B37) (c4 := 0x904F733C) (c5 := 0xBE88BC5E) (c6 := 0xF207F857) (c7 := 0xE79A9020) (by and_intros <;> decide +kernel)]
    decide +kernel, ?_⟩, ?_⟩ <;> and_intros <;> decide +kernel

theorem test_witness_message : Unanswered (linked up5) 0 messageFlit payload1 := by
  unfold Unanswered InOrder
  refine ⟨⟨by decide +kernel, by
    rw [crc_in_steps (q := fullPayload payload1) (a := 0xBE54B350) (b := 0x2D5DC21D) (c := 0x19C575C1) (c2 := 0x1254CF10) (c3 := 0x8A908236) (c4 := 0xA985DEF6) (c5 := 0x550A6609) (c6 := 0xB8ADB78D) (c7 := 0x60A2EAA3) (by and_intros <;> decide +kernel)]
    decide +kernel, ?_⟩, ?_⟩ <;> and_intros <;> decide +kernel

theorem test_witness_dropped : Unanswered (linked up5) 0 droppedFlit payload1 := by
  unfold Unanswered InOrder
  refine ⟨⟨by decide +kernel, by
    rw [crc_in_steps (q := fullPayload payload1) (a := 0xF35C5F78) (b := 0x7A8DC5F1) (c := 0x5D414C00) (c2 := 0xDD505CA) (c3 := 0x7FFF899E) (c4 := 0x75206F75) (c5 := 0x76EA836B) (c6 := 0x5711D7A4) (c7 := 0x38818BB4) (by and_intros <;> decide +kernel)]
    decide +kernel, ?_⟩, ?_⟩ <;> and_intros <;> decide +kernel

theorem test_witness_management : Unanswered (linked up5) 0 managementFlit heartbeatWrite := by
  unfold Unanswered InOrder
  refine ⟨⟨by decide +kernel, by
    rw [crc_in_steps (q := fullPayload heartbeatWrite) (a := 0xDDE47C62) (b := 0x6309AA77) (c := 0x9818543C) (c2 := 0xE2609CD9) (c3 := 0x5EF2E994) (c4 := 0xE617C6D1) (c5 := 0x5DC9869E) (c6 := 0x223113FF) (c7 := 0xA329E478) (by and_intros <;> decide +kernel)]
    decide +kernel, ?_⟩, ?_⟩ <;> and_intros <;> decide +kernel

theorem test_witness_answer : Unanswered (linked up5) 0 answerFlit answer := by
  unfold Unanswered InOrder
  refine ⟨⟨by decide +kernel, by
    rw [crc_in_steps (q := fullPayload answer) (a := 0xDDE47C62) (b := 0xB5381CE6) (c := 0x6EEC63CF) (c2 := 0x411030A4) (c3 := 0x2D5BFA30) (c4 := 0xED6E6F68) (c5 := 0x64745127) (c6 := 0xE2EFEC66) (c7 := 0x926EF93E) (by and_intros <;> decide +kernel)]
    decide +kernel, ?_⟩, ?_⟩ <;> and_intros <;> decide +kernel

theorem test_witness_completion : Unanswered (linked up5) 0 completionFlit [] := by
  unfold Unanswered InOrder
  refine ⟨⟨by decide +kernel, by
    rw [crc_in_steps (q := fullPayload []) (a := 0xDA86750B) (b := 0x3490C1F9) (c := 0xF36DCCB1) (c2 := 0x30D2B6C) (c3 := 0xEE4F31D7) (c4 := 0x3A6CC249) (c5 := 0x635BE876) (c6 := 0x6BF9B4AD) (c7 := 0x6885ED79) (by and_intros <;> decide +kernel)]
    decide +kernel, ?_⟩, ?_⟩ <;> and_intros <;> decide +kernel

theorem test_witness_flitsArrive :
    ((linkOf one 0).status ≠ 2 ∧ (linkOf (linked up5) 0).status = 2 ∧ hField tickBad 3 0 = 4 ∧ hField (putFlit ^^^ 2 ^ 200) 3 0 ≠ 4) ∧
    (hField putFlit 3 0 = 1 ∧ refusal (linked up5) (putAccess (BitVec.ofNat 12 (hField putFlit 147 136))) 0x20040 64 = none ∧ hField putFlit 107 64 = 0x20040 ∧
       (flitLines putFlit (fullPayload payload1)).length = 64) ∧
    (hField putRefusedFlit 3 0 = 1 ∧ (refusal (linked up5) (putAccess (BitVec.ofNat 12 (hField putRefusedFlit 147 136))) (hField putRefusedFlit 107 64) 64).isSome) ∧
    (hField messageFlit 3 0 = 2 ∧ hField messageFlit 77 64 = 1 ∧ hField messageFlit 80 78 = 0 ∧ (clusterOf (linked up5) 0).copying ≠ some 1 ∧
       messageStatus (linked up5) messageFlit = 0 ∧ wBit (smGet 0 (tileOf (linked up5) 1).mesh.mb 0) 0 = true ∧
       (tileOf (linked up5) 1).mesh.stamp ≠ (linked up5).fr.cyc ∧
       slotPlace (tileOf (linked up5) 1).mesh 0 + (flitLines messageFlit (fullPayload payload1)).length ≤ 0xC0000) ∧
    (hField droppedFlit 3 0 = 2 ∧ hField droppedFlit 80 78 = 1 ∧ messageStatus (linked up5) droppedFlit = 0 ∧
       wBit (smGet 0 (tileOf (linked up5) 1).mesh.mb 1) 0 = false) ∧
    (messageStatus (linked up5) (hSet messageFlit 77 64 12000) ≠ 0) ∧
    (let h := completionFlit
     hField h 3 0 = 3 ∧ (linked up5).tw.remote.find? (fun r => r.tag == BitVec.ofNat 12 (hField h 133 122) && r.lti == hField h 121 108) = some ⟨5, 0, 2, false⟩) ∧
    (let h := managementFlit
     let q := parseRequest (.twill (h.getLsbD 62 && (linked up5).tw.members.getLsbD (hField h 49 44))) (some (BitVec.ofNat 6 (hField h 49 44))) (flitLines h heartbeatWrite)
     hField h 3 0 = 6 ∧ (linked up5).boot.ready = true ∧ (linked up5).fr.validating = none ∧ q.cmd = 0x20 ∧ q.idx = 0x1011 ∧ q.sub = 0 ∧ q.data.length = 2) ∧
    (let r : AwayReq := ⟨.zdp, 9, 0x1011, 0, 7, none, false⟩
     let s := { linked up5 with dict := { one.dict with away := [r] } }
     let q := parseRequest (.twill (answerFlit.getLsbD 62 && s.tw.members.getLsbD (hField answerFlit 49 44))) (some (BitVec.ofNat 6 (hField answerFlit 49 44))) (flitLines answerFlit answer)
     hField answerFlit 3 0 = 6 ∧ q.cmd = 0x11 ∧ awayFor s (BitVec.ofNat 6 (hField answerFlit 49 44)) q = some r ∧
       (r.client = .zdp → s.dict.canTx.length < 32) ∧ s.ms.bad = [] ∧ s.ms.errs = []) := by and_intros <;> decide +kernel
theorem test_witness_linkEvents :
    (let l := { up5 with replay := [⟨0, [], none⟩], resends := 16 }
     (linkOf (linked l) 0).status = 2 ∧ (linkOf (linked l) 0).replay ≠ [] ∧ 16 ≤ (linkOf (linked l) 0).resends) ∧
    (let l := { up5 with replay := [⟨0, [], none⟩], resends := 15, sinceAck := 1 }
     (linkOf (linked l) 0).resends < 16 ∧ 0 < (linkOf (linked l) 0).sinceAck ∧ (linkOf (linked up5) 0).replay = [] ∧ (linkOf (linked up5) 0).sinceAck = 0) ∧
    (widest 0xFFFF = 0 ∧ widest 0x0101 = 4 ∧ widest 0x0001 = 8 ∧ widest 0 = 16 ∧ (linkOf (linked { up5 with status := 1, afresh := true }) 0).status = 1 ∧ (linkOf (linked { up5 with status := 1, afresh := true }) 0).waiting = []) ∧
    ((linkOf (linked { up5 with status := 3 }) 0).status = 3 ∧ (linkOf one 0).status = 0 ∧ one.boot.ready = true ∧ Untraced one) := by and_intros <;> first | decide +kernel | ((try unfold Untraced); decide +kernel)
theorem test_tick_crc : (flitCrc tick3001 (fullPayload [])).toNat = hField tick3001 255 224 ∧
    (flitCrc tickBad (fullPayload [])).toNat ≠ hField tickBad 255 224 := by
  constructor
  · rw [crc_in_steps (q := fullPayload []) (a := 0xEC0804CD) (b := 0x4B82A23C) (c := 0x85219B99) (c2 := 0x75B6F667) (c3 := 0x12CD28FA) (c4 := 0x8F3748C0) (c5 := 0x7247EE29) (c6 := 0x22C2CFC5) (c7 := 0x1032345D) (by and_intros <;> decide +kernel)]
    decide +kernel
  · rw [crc_in_steps (q := fullPayload []) (a := 0xC28B2D67) (b := 0xA2014325) (c := 0x673FF346) (c2 := 0x998F95C1) (c3 := 0xB1E4C9C1) (c4 := 0xE1D0F562) (c5 := 0xCD2A580E) (c6 := 0x9C0B4D0A) (c7 := 0x7841605F) (by and_intros <;> decide +kernel)]
    decide +kernel

theorem test_witness_systemTick :
    (let s := twilled fun t => { t with st := 2, releases := [(500, 8), (9000, 10)], seen := [10, 8] }
     (linkOf s 0).status = 2 ∧ hField tick3001 3 0 = 4 ∧ wOf (hField tick3001 215 152) ∉ s.tw.seen ∧
       (linkOf s 0).delayPs.toNat < hField tick3001 95 64 ∧ s.tw.st = 2 ∧ 1 < hField tick3001 61 56) ∧
    (hField tick3000 95 64 ≤ up5.delayPs.toNat) ∧
    (let s := twilled fun t => { t with st := 3, seen := [12, 11], sfn := 10 }
     s.tw.st = 3 ∧ s.tw.yielding = false ∧ (linkOf s 0).status = 2 ∧ s.tw.seen = 12 :: [11] ∧ s.tw.sfn.toNat < (12 : Word).toNat ∧
       (twilled fun t => { t with st := 3 }).tw.seen = []) ∧
    (let s := twilled fun t => { t with st := 2, releases := [(5000, 4), (9000, 5)] }
     s.fr.source = 2 ∧ s.boot.ready = true ∧ s.tw.st = 2 ∧ s.tw.releases = (5000, 4) :: [(9000, 5)]) ∧
    (let s := twilled fun t => { t with st := 1, releases := [(5000, 4), (9000, 5)], admitAt := some 5 }
     s.fr.source = 2 ∧ s.boot.ready = true ∧ s.tw.st = 1 ∧ s.tw.releases.find? (fun r => s.tw.admitAt == some r.2) = some (9000, 5)) ∧
    (one.fr.source ≠ 2 ∧ (twilled fun t => { t with st := 2 }).tw.st ≠ 3 ∧ nextRelease (twilled fun t => { t with st := 2 }) = none) ∧
    (let s := twilled fun t => { t with st := 1, candidate := true }
     s.tw.st = 1 ∧ s.tw.candidate = true) ∧
    (let s := { twilled fun t => { t with st := 2 } with fr := { one.fr with holdovers := 3 } }
     s.tw.st = 2 ∧ 3 ≤ s.fr.holdovers) := by and_intros <;> decide +kernel
theorem test_witness_membership :
    ((1 : BitVec 6).toNat ≤ 1 ∧ (twilled fun t => { t with st := 1 }).tw.st = 1 ∧ (8 : BitVec 64).getLsbD (twilled id).tw.id.toNat = true ∧ (7 : BitVec 64).getLsbD (twilled id).tw.id.toNat = false) ∧
    (let s := twilled fun t => { t with st := 3, nextSet := 0x28, members := 8, missed := [(5, 3)] }
     s.tw.st = 3 ∧ (63 : BitVec 6).toNat ≠ s.tw.id.toNat ∧ s.tw.nextSet.getLsbD 63 = false ∧ s.tw.members.getLsbD 63 = false ∧
       s.fr.sysPeriod ≤ s.fr.sysPeriod ∧ ¬(s.tw.st ≠ 3 ∨ 5 = s.tw.id.toNat ∨ s.tw.nextSet.getLsbD 5 = false) ∧ 3 ≤ smGet 0 s.tw.missed 5 ∧ smGet 0 s.tw.missed 4 < 3) ∧
    (stronger 1 9 200 3 ≠ stronger 200 9 1 3 ∧ Path.firmware ≠ .zdp ∧ one.boot.ready = true ∧ ({ one with host := { one.host with mbBusy := true } }).host.mbBusy = true ∧ one.dict.canTx.length < 32) ∧
    (let r : AwayReq := ⟨.mailbox, 9, 0x1011, 0, 7, none, false⟩
     let s := { one with host := { one.host with mbBusy := true }, dict := { one.dict with away := [r] } }
     s.boot.ready = true ∧ s.dict.away.find? (fun r => r.client == .mailbox && r.dst == 9 && r.idx == 0x1011 && r.sub == 0 && r.tag == 7) = some r ∧
       ((HubClient.mailbox = .mailbox → s.host.mbBusy = true) ∧ (HubClient.mailbox = .zdp → s.dict.canTx.length < 32)) ∧
       (∀ r ∈ one.dict.away, r ≠ ⟨.mailbox, 9, 0x1011, 0, 7, none, false⟩) ∧ one.host.mbBusy = false) := by and_intros <;> decide +kernel
theorem test_witness_hostWindows :
    (let s := hosted id
     HostServed s ∧ s.host.cxid ≠ 0xFFF ∧ bar2Pa s 0x20000 = 0x20000 ∧ refusal s (hostAcc s false) 0x20000 8 = none ∧ refusal s (hostAcc s true) 0x20000 8 = none ∧
       heldByCopy s 0x20000 = false ∧ heldByCopy s (0x20000 + 8 - 1) = false ∧ s.ms.bad = [] ∧ s.ms.errs = [] ∧ ∀ j, j < 8 → paClass (0x20000 + j) = .stacked) ∧
    (let s := hosted id
     HostServed s ∧ refusal s (hostAcc s false) (bar2Pa s 0x3FFFF8) 16 = some 3 ∧ refusal s (hostAcc s true) (bar2Pa s 0x3FFFF8) 16 = some 3) ∧
    (HostServed (hosted fun h => { h with cxid := 0xFFF }) ∧ (hosted fun h => { h with cxid := 0xFFF }).host.cxid = 0xFFF) ∧
    (let s := hosted fun h => { h with b4pg := 159 }
     HostServed s ∧ s.host.b4pg.toNat < 160 ∧ heldByCopy s (bar4Pa s 0) = false) ∧
    (let s := hosted fun h => { h with b4pg := 160 }
     HostServed s ∧ 160 ≤ s.host.b4pg.toNat ∧ hostHolds s (.bar4Read 0 8) = false ∧ hostHolds s (.bar4Write 0 [1]) = false) := by and_intros <;> first | decide +kernel | ((try unfold HostServed); decide +kernel)

theorem test_witness_plainMemory : PlainMemory 0x20000 8 ∧ PlainMemory 0x80000000000 8 :=
  ⟨fun j h => .inl (by revert j; decide +kernel), fun j h => .inr ⟨0, j, by revert j; decide +kernel⟩⟩

theorem test_witness_hostRegisters :
    (HostServed one ∧ (0 : BitVec 2) ≠ 3 ∧ one.host.nowStamp ≠ one.fr.cyc ∧ (0x010 : BitVec 18).toNat % 8 = 0 ∧ 0x58 ≤ (0xFF8 : BitVec 18).toNat ∧ (0xFF8 : BitVec 18).toNat < 0x1000 ∧ (hosted fun h => { h with linkUp := false }).host.linkUp = false ∧ (resetting fun b => { b with ready := false }).boot.ready = false ∧ one.host.linkUp = true) ∧
    ((0x57 : BitVec 18).toNat < 0x58 ∧ (0x1FF0 : BitVec 18).toNat < 0x2000 ∧ (0x1FFF : BitVec 18).toNat % 8 ≠ 0 ∧ 0x17F8 + (8 : BitVec 4).toNat ≤ 0x1800 ∧ one.host.mbBusy = false ∧ (hosted fun h => { h with mbBusy := true }).host.mbBusy = true) ∧
    (let s := hosted fun h => { h with mbReq := [(0, 0x10), (4, 0x11), (5, 0x10)] }
     leNat (smRead 0 s.host.mbReq 0 8) = 0x10 + 2 ^ 32 * 0x1011 + 2 ^ 48 * 0 ∧ s.fr.validating = none ∧
       (match objFind 0x1011 0 with | .ok r => r.typ != 8 && !r.srg && r.acs != .wo && !readState s 0x1011 0 | .error _ => false) = true) ∧
    (let s := { at0 { run1 with loads := [load8] } with host := { one.host with reqs := reqs none } }
     openReq s 1 = some ⟨1, false, some (0, 2), none, 0x1000, 8, [], none, true⟩ ∧ reqWanted s ⟨1, false, some (0, 2), none, 0x1000, 8, [], none, true⟩ = true ∧ openReq s 2 = none) := by and_intros <;> first | decide +kernel | ((try unfold HostServed); decide +kernel)
theorem test_witness_powerAndHeat :
    (one.boot.ready = true ∧ one.pw.m = 8 ∧ (∀ d, d < 8 → (dieOf one d).clamped = false)) ∧
    (let s := { powered fun p => { p with msSum := 5000, msCount := 4 } with dict := { one.dict with regulators := [1, 2] } }
     [some 3, some 4] = [3, 4].map some ∧ [3, 4].length = s.dict.regulators.length ∧ s.pw.msSum ≠ 0) ∧
    (200 ≤ (powered fun p => { p with overRun := 200, m := 2 }).pw.overRun ∧ 1 < (powered fun p => { p with overRun := 200, m := 2 }).pw.m ∧
       100 ≤ (powered fun p => { p with underRun := 100, m := 7 }).pw.underRun ∧ (powered fun p => { p with underRun := 100, m := 7 }).pw.m < 8) ∧
    (178 ≤ (178 : BitVec 8).toNat ∧ (177 : BitVec 8).toNat < 178 ∧ (175 : BitVec 8).toNat < 176 ∧ (459 : BitVec 16).toInt < tripLevel 177 ∧ tripLevel 175 ≤ (420 : BitVec 16).toInt ∧ one.pw.thermtrip = false) ∧
    (let s := powered fun p => { p with sensors := [(0, 420), (1, 419), (2, 400), (3, 399), (4, 388)] }
     420 ≤ (smGet 100 s.pw.sensors 0).toInt ∧ (smGet 100 s.pw.sensors 1).toInt < 420 ∧ 4 * (s.pw.tthr.toNat : Int) ≤ (smGet 100 s.pw.sensors 2).toInt ∧
       (smGet 100 s.pw.sensors 3).toInt < 4 * s.pw.tthr.toNat ∧ 4 * (s.pw.tthr.toNat : Int) - 12 < (smGet 100 s.pw.sensors 3).toInt ∧
       (smGet 100 s.pw.sensors 4).toInt ≤ 4 * (s.pw.tthr.toNat : Int) - 12) := by and_intros <;> decide +kernel
theorem test_witness_resetsAndPins :
    ((5 : BitVec 3).toNat ≤ 5 ∧ 5 < (6 : BitVec 3).toNat ∧ one.dict.firing = false ∧ ({ one with dict := { one.dict with firing := true } }).dict.firing = true) ∧
    (let s := resetting fun b => { b with asserted := [1], inReset := true, ready := false, slot0 := none }
     s.boot.asserted = [1] ∧ (chooseSlot s.boot).1 = none ∧ (2 : BitVec 3) ∉ s.boot.asserted) ∧
    (let s := resetting fun b => { b with asserted := [1], inReset := true, ready := false, slot0 := some { Image.factory with digest := [] } }
     s.boot.asserted = [1] ∧ (chooseSlot s.boot).1 = some false) ∧
    (one.boot.upStoring = none ∧ (resetting fun b => { b with upStoring := some Image.factory }).boot.upStoring ≠ none) ∧
    ((resetting fun b => { b with asserted := [1, 3] }).boot.asserted = [1, 3] ∧ (1 : BitVec 3) ≠ 5 ∧ (1 : BitVec 3) ≠ 3) ∧
    (589824 ≤ (589824 : BitVec 20).toNat ∧ (589823 : BitVec 20).toNat < 589824 ∧ one.boot.ready = true ∧ granuleFenced one (589823 * 0x200000) = false ∧ granuleCleared one 589823 = false ∧ smWf 0 one.ms.mem = true ∧ smWf [] one.ms.errs = true) ∧
    (8 < (9 : BitVec 4).toNat ∧ (dieOf one 7).pwren = true ∧ one.boot.pwrenMem = true ∧ (resetting fun b => { b with ready := false }).boot.recovery = false) := by and_intros <;> decide +kernel
theorem test_witness_machine :
    (one.pending = [] ∧ smWf Tile.zero one.tiles = true ∧ Memory.wf one.ms.mem = true ∧ one.host.cxid ≠ 0 ∧ startsReset (.resetAssert 1) = true ∧ startsReset .heartbeat = false) ∧
    ((framed fun f => { f with wedged := true }).fr.wedged = true) := by and_intros <;> decide +kernel

theorem test_step_idles : ∃ t, step one = .next t := ⟨_, rfl⟩

theorem test_step_next (c : Instr) : step { one with pending := [c] } = exec c one := rfl

/-! ## Ill-formed commands are refused -/

theorem test_wellFormed_tile : wellFormed (.issueWord 10240) = false ∧ wellFormed (.issueWord 10239) = true := by decide
theorem test_wellFormed_region : wellFormed (.dmaAccept 160 0) = false ∧ wellFormed (.dmaAccept 159 0) = true := by decide
theorem test_wellFormed_cluster : wellFormed (.spareRemap 640) = false ∧ wellFormed (.spareRemap 639) = true := by decide
theorem test_wellFormed_parity : wellFormed (.parityFaultRetire 0 (.storeWord 786432)) = false ∧
    wellFormed (.parityFaultRetire 0 (.storeBit 786431)) = true := by decide
theorem test_wellFormed_sensor : wellFormed (.thermalSample 178 0) = false ∧ wellFormed (.thermalSample 177 0) = true := by decide
theorem test_wellFormed_reset : wellFormed (.resetAssert 0) = false ∧ wellFormed (.resetAssert 6) = false ∧
    wellFormed (.resetAssert 5) = true := by decide
theorem test_wellFormed_granule : wellFormed (.granuleCleared 589824) = false ∧ wellFormed (.granuleCleared 589823) = true := by decide
theorem test_wellFormed_supply : wellFormed (.pgoodFall 9) = false ∧ wellFormed (.pgoodFall 8) = true := by decide
theorem test_wellFormed_flit : wellFormed (.twillPutReceive 0 0 [1]) = false ∧
    wellFormed (.twillPutReceive 0 0 (fullPayload [])) = true := by decide +kernel
theorem test_wellFormed_request : wellFormed (.memRequestAccept [⟨0, 60, 8, false, 5, false, false, false, []⟩]) = false ∧
    wellFormed (.memRequestAccept [⟨0, 56, 8, false, 5, false, false, false, []⟩]) = true := by decide
theorem test_wellFormed_hostRead : wellFormed (.bar2Read 0 0) = false ∧ wellFormed (.bar2Read 0 4097) = false ∧
    wellFormed (.bar2Read 0 4096) = true := by decide
theorem test_wellFormed_hostWrite : wellFormed (.bar4Write 0 []) = false ∧ wellFormed (.bar4Write 0 [1]) = true := by decide
theorem test_wellFormed_registerSize : wellFormed (.hostRegisterWrite 0 0 (some 0)) = false ∧ wellFormed (.hostRegisterWrite 0 8 none) = true := by
  decide
theorem test_unknownUnit_faults : exec (.thermalSample 178 0) one = .fault .noSuchUnit ∧ exec (.issueWord 10240) one = .fault .noSuchUnit :=
  ⟨by rfl, by rfl⟩

/-! ## Single steps against numbers worked out from the spec -/

/-- R76: 0x8000_0000_0000_0000 + 0x8000_0000_0000_0000 is 0 with carry and overflow: Z, C, V. -/
theorem test_add_wraps : (bankIn (stateOf (exec (.alAdd 0 false 0x8000000000000000 0) (withBank { Bank.zero with al0o := 0x8000000000000000 }))) 0).flagsNext
    = some 0xD := by decide +kernel

/-- R83: −7 divided by 2 is −3, remainder −1. -/
theorem test_division_rounds_to_zero :
    let b := bankIn (stateOf (exec (.divComplete 0) (withBank { Bank.zero with div := some ⟨true, -7, 4⟩, divd := 2 }))) 0
    (b.divq, b.divrem) = (-3, -1) := by decide +kernel

/-- R82: −1 times 2, signed by unsigned, has the high word of −2. -/
theorem test_product_high : (bankIn (stateOf (exec (.mulProduct 0) (withBank { Bank.zero with mulp := [⟨BitVec.ofInt 128 (-2), 1, 3⟩] }))) 0).mulhi
    = 0xFFFFFFFFFFFFFFFF := by decide +kernel

/-- R80: g0 discards a write. -/
theorem test_g0_reads_zero : gReg (bankIn (stateOf (exec (.registerWrite 0 0 5 0) one)) 0) 0 = 0 := by decide +kernel

/-- R86: a call links the word after it. -/
theorem test_call_links : (bankIn (stateOf (exec (.brCall 0 0x2000 0) one)) 0).link = 0x1010 := by decide +kernel

/-- R224: a trap with x[4] = 1 enters the Serge world. -/
theorem test_trap_enters_serge : (tileOf (stateOf (exec (.sysTrap 0 0x1F 0) one)) 0).world = .serge := by decide +kernel

/-- R127: a performed store is in memory, least significant byte first. -/
theorem test_store_performed : readBytes (stateOf (exec (.storePerformed 0) (at0 { run1 with handed := [store4] }))) 0x20010 5 = [1, 2, 3, 4, 0] := by
  decide +kernel

/-- R102: the word written out above writes g63 with the sign-extended 0x800. -/
theorem test_word_issues : gReg (bankIn (stateOf (exec (.issueWord 0) (at0 { run1 with line0 := some (0x1000, 0x20000, lineImm) }))) 0) 63
    = 0xFFFFFFFFFFFFF800 := by decide +kernel

/-- R148: a saturating INT8 addition of 127 and 1 stays 127. -/
theorem test_vector_saturates :
    let s := at0 { run1 with vx := { vxWith [vop 0x20 (vdesc 10 0x80000000)] with v := [(2048 * 2, 127), (2048 * 3, 1)] } }
    vGet (tileOf (stateOf (exec (.vxOpComplete 0) s)) 0).vx.v 1 8 0 = 127 := by decide +kernel

/-- R311: releases wait in the order of their instants, the earlier first. -/
theorem test_releases_in_order : insertRelease (700, 9) [(500, 8), (900, 10)] = [(500, 8), (700, 9), (900, 10)] := by decide +kernel

/-- R325: a write of 0xFFF leaves H.CXID and sets bit 5 of H.ERR. -/
theorem test_cxid_refused : ((stateOf (exec (.hCxidWrite 0xFFF) (hosted id))).host.cxid, (stateOf (exec (.hCxidWrite 0xFFF) (hosted id))).host.err)
    = (5, 0x20) := by decide +kernel

/-- R375: after 200 microseconds above the cap the slot limit falls from 8 to 7. -/
theorem test_slot_limit_falls : (stateOf (exec .memorySlotLimitStep (powered fun p => { p with overRun := 200 }))).pw.m = 7 := by
  decide +kernel

/-- The table gives no row a bit pattern. -/
theorem test_decode_none : decodeTableWord 32 5 = none := rfl

/-- R423: a reset that cuts the writing of an image short leaves its slot empty and keeps the other. -/
theorem test_reset_cuts_image :
    let s := stateOf (exec (.resetAssert 2) (resetting fun b => { b with upStoring := some Image.factory, active := false }))
    s.boot.slot1 = none ∧ s.boot.slot0.isSome = true := by decide +kernel

/-- R394: a single-bit error of a tile store stays in its word, uncounted until a read meets it, and changes no byte. -/
theorem test_store_bit_corrected :
    let s := stateOf (exec (.parityFaultRetire 0 (.storeBit 64)) one)
    s.ms.soft = [badKey one (storePa 0 64)] ∧ s.ms.bad = [] ∧ s.rel.tsCorrections = one.rel.tsCorrections ∧ s.ms.mem = one.ms.mem := by decide +kernel

/-! ## More clauses: engines, exception frames, shared counters -/

def ownPage : TlbEntry := ⟨5, 4, 0, storePa 0 0, true, false, true, false, false⟩
/-- A handler of the Muslin world that has met another exception, with its stack at an address. -/
def handling (xsp : Nat) (st : Word) (e : Exc) : State :=
  at0 { run1 with
    cur := .muslin, prim := { Bank.zero with g := [(1, 77)] }, mban := { Bank.zero with g := [(2, 88)] }, dtlb := [ownPage]
    exc := { e with msh := true, xspM := wOf xsp, recM := ⟨0x3000, st, 0, 0⟩, mpush := 1 } }
def trapCause : Cause := ⟨1, 2, 0, 0x1000, 1, false, false⟩
def landed0 (s : State) : Tile := tileOf (landAll s 0) 0
def pushCheck (s : State) : Nat × List Nat × State := frameCheck (landAll s 0) 0 .muslin (xspOf (landed0 s) .muslin - 1024).toNat true
def popCheck (s : State) : Nat × List Nat × State := frameCheck s 0 .muslin (xspOf (tileOf s 0) .muslin).toNat false

/-- Vector registers: v2 at 4096, v3 at 6144. -/
def vxState (o : VxOp) (v : SMap Byte) : State := at0 { run1 with calen := false, vx := { vxWith [o] with v := v } }
def after (o : VxOp) (v : SMap Byte) : Vx := (tileOf (stateOf (exec (.vxOpComplete 0) (vxState o v))) 0).vx
def bytesAt (p : Nat) (bs : List Byte) : SMap Byte := smWrite 0 [] p bs
def smallBfp : MxOp := mop 0x20 (mdesc 2 1 0)
def bfState : State :=
  [(0x40, [0xC0, 0x3F]), (0x80, [0x00, 0x40])].foldl (fun s e => putBytes s (storePa 0 e.1) e.2) (withMx { mxWith [smallBfp] with bankA := MxBank.zero })
/-- Granules 9 and 10 have been cleared. -/
def clean : State :=
  { one with ms := { one.ms with cleared := (localGranules one 9 ++ localGranules one 10).foldl (fun m l => smSet false m l true) [] } }
/-- A conversion unit with one operation over source bytes. -/
def cvState (o : CvOp) (c : Cv) (l : List (Nat × List Byte)) : State :=
  l.foldl (fun s e => putBytes s (storePa 0 e.1) e.2) (withCv { c with queue := [o] })

theorem test_witness_thawed :
    (Thawed (withBank bankA) 0 ∧ Thawed (at0 { run1 with loads := [load8] }) 0 ∧ Thawed (withVx [vop 0x20 0]) 0 ∧ Thawed overState 0 ∧ Thawed (withCv (cvWith [])) 0) ∧
    (0 < (tileOf (at0 { run1 with frozen := 34 }) 0).frozen) ∧
    (Ready one 0 ∧ (tileOf one 0).loopen = true ∧ (tileOf one 0).sup = true) := by and_intros <;> first | decide +kernel | ((try unfold Thawed); (try unfold Ready); (try unfold Clocked); decide +kernel)
theorem test_witness_sharedCounters :
    (Ready one 0 ∧ 24 ≤ (31 : BitVec 5).toNat ∧ (tileOf one 0).skip = 0 ∧ (bankIn one 0).mulp = [] ∧ ∀ w ∈ (tileOf one 0).words, w.1 ≠ (tileOf one 0).nextWid) ∧
    (let l : List (Nat × Bool) := [(0, true), (15, false)]
     l ≠ [] ∧ (∀ e ∈ l, e.1 / 16 = 0 / 16) ∧ (sameOf one 0 31).bumps = [] ∧ (counterOf one 0 31).toNat = 0) := by and_intros <;> first | decide +kernel | ((try unfold Ready); decide +kernel)
theorem test_witness_pushes :
    (let s := handling 0x40800 5 exc1
     Untraced s ∧ (landed0 s).exc.fatal = false ∧ wBit (latched (landed0 s) .muslin 1) 0 = true ∧ shadowUsed (landed0 s) .muslin = true ∧
       (pushCheck s).1 = 0 ∧ apart (pushCheck s).2.1) ∧
    (let s := handling 0 5 exc1
     (pushCheck s).1 ≠ 0 ∧ tsinHit (landAll s 0) 0 0 = false ∧ wBit (latched (landed0 s) .serge 0) 0 = true) ∧
    (wBit (latched (landed0 (handling 0 5 Exc.zero)) .serge 0) 0 = false ∧ wBit (latched (landed0 (handling 0 5 { exc1 with latchS := latches.drop 1 })) .serge 0) 0 = false) := by and_intros <;> first | decide +kernel | ((try unfold apart); (try unfold Untraced); decide +kernel)
theorem test_witness_returns :
    (Ready one 0 ∧ (tileOf one 0).sup = true ∧ (tileOf one 0).cur = .primary) ∧
    (let s := handling 0x40400 0x81 exc1
     Ready s 0 ∧ (tileOf s 0).sup = true ∧ wBit (recordOf (tileOf s 0) .muslin).st 7 = true) ∧
    (let s := handling 0x40400 1 exc1
     let r := recordOf (tileOf s 0) .muslin
     Ready s 0 ∧ wBits r.st 1 0 ≠ wBits r.st 3 2 ∧ ¬(wBits r.st 1 0 = 0 ∧ wBits r.st 5 4 = 0)) ∧
    (let s := handling 0x40400 0x45 exc1
     Untraced s ∧ (tileOf s 0).cur ≠ .primary ∧ wBit (recordOf (tileOf s 0) .muslin).st 6 = true ∧ (popCheck s).1 = 0 ∧ s.ms.soft = [] ∧
       (tileOf s 0).exc.ipM &&& (tileOf s 0).exc.ieM = 0 ∧ (tileOf s 0).exc.ipS &&& (tileOf s 0).exc.ieS = 0) ∧
    ((popCheck (handling 0x40402 0x45 exc1)).1 ≠ 0 ∧ tsinHit (handling 0x40402 0x45 exc1) 0 0 = false) ∧
    (let s := handling 0x40400 5 { exc1 with ipM := 4, ieM := 4, ipInfo := [(34, 255, 9)] }
     let v := tileOf s 0
     let r := recordOf v .muslin
     v.cur ≠ .primary ∧ wBit r.st 6 = false ∧ qualOf { returned v r none with landed := s.fr.cyc, resume := 3 } false = some 34 ∧
       wBit (latched v .muslin 34) 0 = true) := by and_intros <;> first | decide +kernel | ((try unfold Ready); (try unfold Untraced); decide +kernel)
theorem test_witness_walks :
    ((tileOf (at0 { run1 with fetchWalk := true, fetchOver := true }) 0).fetchOver = true) ∧
    (let l := { load8 with tr := .walking, size := 1, va := 8 }
     let s := paged { run1 with loads := [l] }
     Clocked s 0 ∧ (tileOf s 0).loads = [l] ∧ (tileOf s 0).sb = [] ∧ (tileOf s 0).handed = [] ∧ l.tr = .walking ∧
       (fillTlb s 0 l.who.serge false l.va).1.isSome) := by and_intros <;> first | decide +kernel | ((try unfold Clocked); decide +kernel)
theorem test_witness_vectorMore :
    (∀ op ∈ [(0x20, 1), (0x21, 1), (0x22, 1), (0x23, 1), (0x24, 1), (0x25, 1), (0x26, 1), (0x27, 1), (0x28, 1), (0x29, 1), (0x2A, 1), (0x2B, 1), (0x2C, 1), (0x2D, 1), (0x2E, 1), (0x32, 1), (0x40, 1), (0x50, 1), (0x51, 1), (0x52, 1), (0x71, 1)],
       let o := vop op.1 (vdesc op.2 0)
       Thawed (vxState o []) 0 ∧ (tileOf (vxState o []) 0).vx.queue[vxNext (tileOf (vxState o []) 0).vx]? = some o ∧ o.started = true ∧
         vkind (vxFmt o.op o.desc) = some (.fp fp32) ∧ (wideOf (dFmt o.desc)).bind vkind = some (.fp fp64)) ∧
    (∀ op ∈ [0x26, 0x27, 0x31, 0x40, 0x41, 0x42, 0x43, 0x44, 0x45, 0x46, 0x50, 0x51, 0x52, 0x60, 0x61, 0x62, 0x63, 0x64, 0x65, 0x70, 0x71, 0x90, 0x91],
       let d := if op < 0x90 then vdesc 10 0 else wOf (1 + 32 * 2 + 65536 * 10)
       let o := vop op d
       Thawed (vxState o []) 0 ∧ (tileOf (vxState o []) 0).vx.queue[vxNext (tileOf (vxState o []) 0).vx]? = some o ∧
         vkind (vxFmt o.op o.desc) = some (.int 8 true) ∧ (op < 0x90 → (wideOf (dFmt o.desc)).bind vkind = some (.int 16 true))) ∧
    (∀ op ∈ [0x82, 0x83],
       let o := vop op (vdesc 10 (2 ^ 23 + 2 ^ 24))
       let s := vxState o (bytesAt 6144 [0x10, 0, 0, 0])
       Thawed s 0 ∧ (tileOf s 0).vx.queue[vxNext (tileOf s 0).vx]? = some o ∧ vkind (dFmt o.desc) = some (.int 8 true) ∧ s.ms.bad = [] ∧
         s.ms.soft = [] ∧ vxGthStop s 0 o (vxSees o (tileOf s 0).vx) (.int 8 true) = none ∧
         ∀ j, j < vxN o.vl (.int 8 true) → 0 ≤ vxAddr o (vxSees o (tileOf s 0).vx) j ∧ vxAddr o (vxSees o (tileOf s 0).vx) j + 1 ≤ 0xC0000) ∧
    ((3 : Nat) ≠ 0 ∧ ((true = true) → (false = false))) := by and_intros <;> first | decide +kernel | ((try unfold Thawed); (try unfold Clocked); decide +kernel)
theorem test_witness_matrixMore :
    (Thawed bfState 0 ∧ (tileOf bfState 0).mx.queue = [smallBfp] ∧ smallBfp.started = true ∧ (∃ cl ∈ mmaClass smallBfp.desc, cl ≠ .int8) ∧
       smallBfp.run.issued = false ∧ smallBfp.run.seen = [] ∧ bfState.ms.bad = [] ∧ bfState.ms.soft = [] ∧
       (mRun bfState 0 smallBfp (mxBank (tileOf bfState 0).mx false).sadj.toNat (mayReplay (mxBank (tileOf bfState 0).mx false))
         (mxBank (tileOf bfState 0).mx false).vals).1 = none) ∧
    (let o := { mop 0x21 (wOf 0) with snapKind := 1, drs := 64 }
     let p := { mop 0x21 (wOf 64) with snapKind := 1 }
     drainBytes o.desc 1 = some 4 ∧ wBit o.desc 6 = false ∧ 16 * 4 ≤ o.drs.toNat ∧ o.da.toNat + 15 * o.drs.toNat + 16 * 4 ≤ 0xC0000 ∧
       (drainBytes p.desc 1).isSome ∧ wBit p.desc 6 = true) ∧
    ((mA (mdesc 2 1 0)).ex = 0 ∧ (mA (mdesc 6 1 65536)).ex = 1 ∧ (mB (mdesc 10 1 (2 * 2 ^ 18))).ex = 2 ∧ (mA (mdesc 4 1 (2 ^ 22))).mx = true ∧
       (mA (mdesc 1 1 0)).fmt = 1) := by and_intros <;> first | decide +kernel | ((try unfold Thawed); (try unfold Clocked); decide +kernel)
theorem test_witness_conversionMore :
    (∀ f ∈ [0, 1],
       let o := cop 0x21 f
       let s := withCv (cvWith [o])
       Thawed s 0 ∧ (tileOf s 0).cv.queue = o :: [] ∧ o.run.bad = none ∧ s.ms.bad = [] ∧ s.ms.soft = [] ∧ o.da.toNat + 8 * o.n.toNat ≤ 0xC0000) ∧
    (let o := cop 0x22 (1 + 16 * 2 + 256)
     mwuRefused o.desc = false ∧ o.sa.toNat + 6 * o.n.toNat ≤ 0xC0000 ∧ wBit o.desc 8 = true ∧ o.sa.toNat + 6 * o.n.toNat ≤ o.da.toNat ∧
       o.da.toNat + cSize 2 * o.n.toNat ≤ 0xC0000) ∧
    (∀ d ∈ [1 + 16 * 4 + 2 ^ 18, 1 + 16 * 2 + 512, 4 + 16 * 2 + 2 ^ 20],
       let o := { cop 0x20 d with sd := 0x2000 }
       let s := withCv (cvWith [o])
       let dst := (cvtFeet o.desc (cvPorts o (tileOf s 0).cv) o.n.toNat).2.1
       (ckind (cSf o.desc)).isSome ∧ (ckind (cDf o.desc)).isSome ∧ cvtRefused o.desc o.sd o.n.toNat = false ∧
         (dst.reg = true → dst.base + o.n.toNat * 2 ≤ 65536) ∧ (dst.reg = false → dst.base + o.n.toNat * 2 ≤ cSdOff o.sd) ∧
         cSdOff o.sd + 128 ≤ 0xC0000) := by and_intros <;> first | decide +kernel | ((try unfold Thawed); (try unfold Clocked); decide +kernel)
theorem test_witness_testsAndImages :
    (let f : TestFail := { scope := 2, target := 5, sig := 7, expected := 9, owner := false }
     let s := { idleFrames one with rel := { one.rel with stRec := some 0x12 } }
     s.host.heldReqs = [] ∧ s.rel.stRec = some 0x12 ∧ stScope 0x12 = 2 ∧ f.scope = 2 ∧ wBit 0x12 4 = true ∧ stRetires s 5 = true ∧
       (5 : Nat) % 17 ≠ 16 ∧ (clusterOf s 0).spareFor ≠ some 5 ∧ (clusterOf s 0).unavailable = false ∧ 16 % 17 = 16 ∧ stRetires s 16 = true) ∧
    (let s := { one with boot := { one.boot with flashWrites := [.node 9] }, rel := { one.rel with queues := [(1, [entry 3]), (8, [entry 3])] } }
     s.boot.flashWrites = .node 9 :: [] ∧ (entry 3).cyc = (entry 3).cyc ∧ (1 : Nat) < 8 ∧ s.boot.ready = true) ∧
    (ownRange (wOf (2 ^ 40 * 5 + 2 ^ 20 * 2 + 9)) = false ∧ ownNew (wOf (2 ^ 40 * 5 + 2 ^ 20 * 2 + 9)) ≠ 0 ∧ granuleCleared clean 9 = true ∧ granuleCleared clean 10 = true ∧ granuleFenced clean (9 * 0x200000) = false ∧ ownerOf clean 9 ≠ 0 ∧ pathSerge .mailbox = false ∧ Commits clean .mailbox ∧ ownRange 0 = true) := by (try unfold Commits); simp only [answers_iff]; and_intros <;> first | decide +kernel | ((try unfold Commits); (try simp only [answers_iff]); decide +kernel)

/-- R97: the flags that a word moves to SYS.flags are those of the next word. -/
theorem test_move_flags : flagsNow (bankIn (stateOf (exec (.registerWrite 0 0x3C0 0x1A 0) one)) 0) = 0xA := by decide +kernel

/-- R231: a window longer than 1,024 cycles is 1,024 long. -/
theorem test_window_bounds : readPort (stateOf (exec (.registerWrite 0 0x3CA 2047 0) one)) 0 0x3CA = 1024 := by decide +kernel

/-- R96: two increments and a decrement of one cycle count as one, whatever their order. -/
theorem test_net_sum : (counterOf ([(0, false), (15, true), (3, true)].foldl (fun s e => bumpCounter s e.1 31 e.2) one) 0 31).toNat = 1 := by
  decide +kernel

/-- R233: a push leaves g2 of the handler's bank in the second word of its frame, 1,024 bytes below XSP. -/
theorem test_push : fw (readBytes (enterExc (handling 0x40800 5 exc1) 0 .muslin trapCause) (storePa 0 0x400) 16) 8 = 88 := by decide +kernel

/-- R233: a pop restores it and XSP rises. -/
theorem test_pop :
    let s := putBytes (handling 0x40400 0x45 exc1) (storePa 0 0x408) [99]
    let t := tileOf (returnFrom s 0) 0
    gReg (bankOf t) 2 = 99 ∧ t.exc.xspM = 0x40800 ∧ t.pc = 0x3000 := by decide +kernel

/-- R147, R148: 1.0 + 2.0 is 3.0 in FP32. -/
theorem test_fp_add : vGet (after (vop 0x20 (vdesc 1 0)) (bytesAt 4096 [0, 0, 0x80, 0x3F] ++ bytesAt 6144 [0, 0, 0, 0x40])).v 1 32 0 = 0x40400000 := by
  decide +kernel

/-- R150: 1.0 < 2.0 sets bit 0 of the mask, elements of 0 are not below 0. -/
theorem test_compare :
    let v := after (vop 0x40 (vdesc 1 0 - wOf (32768 * 4) + wOf (32768 * 2))) (bytesAt 4096 [0, 0, 0x80, 0x3F] ++ bytesAt 6144 [0, 0, 0, 0x40])
    (mGet v.m 1 0, mGet v.m 1 1) = (true, false) := by decide +kernel

/-- R151: the sum of 1, 2 and 3 in INT8 is 6 as an INT32 element. -/
theorem test_sum : vGet (after (vop 0x50 (vdesc 10 0)) (bytesAt 4096 [1, 2, 3])).v 1 32 0 = 6 := by decide +kernel

/-- R152: an interleave takes A, B, A, B. -/
theorem test_interleave :
    let v := (after (vop 0x61 (vdesc 10 0)) (bytesAt 4096 [1, 2, 3] ++ bytesAt 6144 [4, 5, 6])).v
    (List.range 5).map (vGet v 1 8) = [1, 4, 2, 5, 3] := by decide +kernel

/-- R153: −1 of INT8 unpacks to −1 of INT16; 300 packs, saturated, to 127. -/
theorem test_pack_unpack : vGet (after (vop 0x71 (vdesc 10 0)) (bytesAt 4096 [255])).v 1 16 0 = 0xFFFF ∧
    vGet (after (vop 0x70 (vdesc 10 0x80000000)) (bytesAt 4096 [0x2C, 1])).v 1 8 0 = 127 := by decide +kernel

/-- R158: `ext` of element 3 of v2 as INT8 sign-extends it; `ins` writes the low byte of VX.d. -/
theorem test_ext_ins : (after (vop 0x90 (wOf (2 + 32 * 3 + 65536 * 10))) (bytesAt 4096 [1, 2, 3, 0x80])).r = 0xFFFFFFFFFFFFFF80 ∧
    vGet (after (vop 0x91 (wOf (2 + 32 * 3 + 65536 * 10))) (bytesAt 4096 [1, 2, 3, 0x80])).v 2 8 3 = 0x55 := by decide +kernel

/-- R156: a gather takes the byte at VX.a + B[0]; a scatter writes it there. -/
theorem test_gather : vGet (tileOf (stateOf (exec (.vxOpComplete 0) (putBytes (vxState (vop 0x82 (vdesc 10 0)) (bytesAt 6144 [0x10])) (storePa 0 0x50) [7]))) 0).vx.v 1 8 0
    = 7 := by decide +kernel
theorem test_scatter : readBytes (stateOf (exec (.vxOpComplete 0) (vxState (vop 0x83 (vdesc 10 0)) (bytesAt 4096 [9] ++ bytesAt 6144 [0x10])))) (storePa 0 0x50) 1
    = [9] := by decide +kernel

/-- R176, R195: an accumulation of 1.5 × 2.0 in BF16 leaves 3.0: significand 3 × 2^35, exponent 1 + 511. -/
theorem test_bf16_cell : smGet 0 (mxBank (tileOf (stateOf (exec (.mxMmaComplete 0) bfState)) 0).mx false).vals 0 = 512 * 2 ^ 37 + 3 * 2 ^ 35 := by
  decide +kernel

/-- R217: an FP32 node of exponents 0 and 1 adds 1.0 × 2^−1 to 2.0; the exponent is 1. -/
theorem test_node : (let o := { cop 0x21 1 with x := 0x10000, n := 1 }
    let t := stateOf (exec (.cvOpComplete 0) (cvState o (cvWith []) [(0x40, [0, 0, 0x80, 0x3F]), (0x80, [0, 0, 0, 0x40])]))
    (readBytes t (storePa 0 0x1000) 4, (tileOf t 0).cv.xr)) = ([0, 0, 0x20, 0x40], 1) := by decide +kernel

/-- R214, R197: with λ = 1.0 the weight 3.0 less the gradient 1.0 is 2.0. -/
theorem test_weight_update : (let o := { cop 0x22 1 with n := 1, d := 0x3F800000 }
    readBytes (stateOf (exec (.cvOpComplete 0) (cvState o (cvWith []) [(0x40, [0, 0, 0x40, 0x40, 0, 0]), (0x80, [0, 0, 0x80, 0x3F])]))) (storePa 0 0x40) 6)
    = [0, 0, 0, 0x40, 0, 0] := by decide +kernel

/-- R198, R201: FP32 1.5 scaled by 2^1 converts to BF16 3.0; CV.x names the exponent. -/
theorem test_convert : (let o := { cop 0x20 (1 + 16 * 2) with n := 1, x := 1 }
    readBytes (stateOf (exec (.cvOpComplete 0) (cvState o (cvWith []) [(0x40, [0, 0, 0xC0, 0x3F])]))) (storePa 0 0x1000) 2) = [0x40, 0x40] := by decide +kernel

/-- R274: two records of a transfer wait for the tick in order. -/
theorem test_ownership_records :
    ((stateOf (exec (.ownershipRecords .firmware [wOf (2 ^ 40 * 5 + 2 ^ 20 + 9), wOf (2 ^ 40 * 6 + 2 ^ 20 + 10)]) clean)).ms.ownNext.map fun c => (c.first, c.own))
      = [(9, 5), (10, 6)] := by decide +kernel

/-- R417: the directory copies of the reset state: the CRC of the first holds. -/
theorem test_directory_holds : dirHolds State.reset.boot.dirA = true := by decide +kernel
end Sys2Proof.Tests
end

section
/-! SUPPORT. The words of one move to a general register or to an ALU: what each does to the bank, and the two statements about
them (03_tile_isa.md). -/

namespace Sys2Proof.Machine

open Sys2Proof

/-! ## The bits of SYS.flags -/

@[simp] theorem fZ_mkFlags (z n c v : Bool) : fZ (mkFlags z n c v) = z := by revert z n c v; decide
@[simp] theorem fN_mkFlags (z n c v : Bool) : fN (mkFlags z n c v) = n := by revert z n c v; decide
@[simp] theorem fC_mkFlags (z n c v : Bool) : fC (mkFlags z n c v) = c := by revert z n c v; decide
@[simp] theorem fV_mkFlags (z n c v : Bool) : fV (mkFlags z n c v) = v := by revert z n c v; decide

@[simp] theorem toNat_bAt_zero (c : Bool) : (bAt c 0).toNat = b2n c := by cases c <;> rfl

theorem b2n_le_one (c : Bool) : b2n c ≤ 1 := by cases c <;> decide

/-- R76: an addition with a carry in overflows when the operands have one sign and the result the other. -/
theorem add_overflows_iff (a b k : Word) (hk : k.toNat ≤ 1) :
    (a.msb = b.msb ∧ (a + b + k).msb ≠ a.msb) ↔ (a + b + k).toInt ≠ a.toInt + b.toInt + k.toNat := by
  have ha := a.isLt
  have hb := b.isLt
  simp only [BitVec.msb_eq_decide, BitVec.toInt_eq_toNat_cond, BitVec.toNat_add, ne_eq, decide_eq_decide]
  omega

/-- R76: a subtraction with a borrow in overflows when the operands differ in sign and the result has not the sign of the first. -/
theorem sub_overflows_iff (a b k : Word) (hk : k.toNat ≤ 1) :
    (a.msb ≠ b.msb ∧ (a - b - k).msb ≠ a.msb) ↔ (a - b - k).toInt ≠ a.toInt - b.toInt - k.toNat := by
  have ha := a.isLt
  have hb := b.isLt
  simp only [BitVec.msb_eq_decide, BitVec.toInt_eq_toNat_cond, BitVec.toNat_sub, ne_eq, decide_eq_decide]
  omega

/-! ## The rows of the table of R81 -/

/-- Result and flags of an operation are those of a row on A, B and C (R76, R81). -/
def AluRow.Right (row : AluRow) (a b : Word) (c : Bool) (p : Word × BitVec 4) : Prop :=
  p.1 = row.result a b c ∧ aluFlagsRight row a b c p.2

section rows

variable {row : AluRow} {a b : Word} {c : Bool}

/-- R76: an addition with carry in k. -/
theorem AluRow.Right.addition {k : Bool} (hk : row.kind = .addition) (hr : row.result a b c = a + b + bAt k 0)
    (hc : row.carry c = b2n k) : row.Right a b c (addFlags a b k) := by
  have hv := add_overflows_iff a b (bAt k 0) (by simpa using b2n_le_one k)
  refine ⟨hr.symm, ?_⟩
  simp only [aluFlagsRight, hk, hr, hc, addFlags, fZ_mkFlags, fN_mkFlags, fC_mkFlags, fV_mkFlags]
  refine ⟨by simp, by simp [BitVec.msb_eq_getLsbD_last], ?_, by simpa using hv⟩
  rw [decide_eq_true_eq]
  omega

/-- R76: a subtraction with borrow in k. -/
theorem AluRow.Right.subtraction {k : Bool} (hk : row.kind = .subtraction) (hr : row.result a b c = a - b - bAt k 0)
    (hc : row.carry c = b2n k) : row.Right a b c (subFlags a b k) := by
  have hv := sub_overflows_iff a b (bAt k 0) (by simpa using b2n_le_one k)
  refine ⟨hr.symm, ?_⟩
  simp only [aluFlagsRight, hk, hr, hc, subFlags, fZ_mkFlags, fN_mkFlags, fC_mkFlags, fV_mkFlags]
  refine ⟨by simp, by simp [BitVec.msb_eq_getLsbD_last], ?_, by simpa using hv⟩
  rw [decide_eq_true_eq]
  omega

/-- R76: a logical operation, a minimum or a maximum. -/
theorem AluRow.Right.logical {r : Word} (hk : row.kind = .logical) (hr : row.result a b c = r) :
    row.Right a b c (logicFlags r) :=
  ⟨hr.symm, by simp [aluFlagsRight, hk, hr, logicFlags, BitVec.msb_eq_getLsbD_last]⟩

/-- R76: a shift to the left: C is the last bit shifted out. -/
theorem AluRow.Right.shiftLeft {r : Word} {n : Nat} (hk : row.kind = .left) (hr : row.result a b c = r)
    (hn : n = b.toNat % 64) : row.Right a b c (shiftFlags r (decide (n ≠ 0) && a.getLsbD (64 - n))) := by
  refine ⟨hr.symm, ?_⟩
  subst hn
  by_cases h : b.toNat % 64 = 0 <;> simp [aluFlagsRight, hk, hr, shiftFlags, BitVec.msb_eq_getLsbD_last, h]

/-- R76: a shift to the right: C is the last bit shifted out. -/
theorem AluRow.Right.shiftRight {r : Word} {n : Nat} (hk : row.kind = .right) (hr : row.result a b c = r)
    (hn : n = b.toNat % 64) : row.Right a b c (shiftFlags r (decide (n ≠ 0) && a.getLsbD (n - 1))) := by
  refine ⟨hr.symm, ?_⟩
  subst hn
  by_cases h : b.toNat % 64 = 0 <;> simp [aluFlagsRight, hk, hr, shiftFlags, BitVec.msb_eq_getLsbD_last, h]

end rows

/-- A weaker condition chooses the same where the choices agree when it alone holds. -/
theorem ite_eq_ite_of_imp {p q : Prop} [Decidable p] [Decidable q] {x y : Word} (hpq : p → q) (h : q → ¬p → x = y) :
    (if p then x else y) = if q then x else y := by
  by_cases hp : p
  · rw [if_pos hp, if_pos (hpq hp)]
  · by_cases hq : q
    · rw [if_neg hp, if_pos hq, h hq hp]
    · rw [if_neg hp, if_neg hq]

/-- A choice by the order of signed values (`min`, `max`). -/
theorem ite_slt_eq {a b x y : Word} (h : a = b → x = y) :
    (if a.slt b then x else y) = if a.toInt ≤ b.toInt then x else y := by
  simp only [BitVec.slt_iff_toInt_lt]
  exact ite_eq_ite_of_imp (by omega) fun hle hlt => h (BitVec.eq_of_toInt_eq (by omega))

/-- A choice by the order of unsigned values (`minu`, `maxu`). -/
theorem ite_ult_eq {a b x y : Word} (h : a = b → x = y) :
    (if a.ult b then x else y) = if a.toNat ≤ b.toNat then x else y := by
  simp only [BitVec.ult_iff_toNat_lt]
  exact ite_eq_ite_of_imp (by omega) fun hle hlt => h (BitVec.eq_of_toNat_eq (by omega))

/-- R81: the row is operation `op` of the model's ALUs: its command is a word of one move to the ALU's port for `op`, which writes
the result port when the row does, and result and flags are the row's. -/
structure AluRow.DoneBy (row : AluRow) (op : Nat) : Prop where
  lt : op < 16 := by decide
  command : ∀ lti alu b sg s, exec (row.command lti alu b sg) s = onTile lti s fun i s => issueOne s i (aluPort alu op) b sg := by
    intros; rfl
  writes : row.writes = decide (op ≠ 11) := by rfl
  right : ∀ a b c, row.Right a b c (aluOp op a b c)

/-- R81: the rows are the sixteen operations, in the order of their ports. -/
theorem aluRows_doneBy : ∀ row ∈ aluRows, ∃ op, row.DoneBy op := by
  intro row h
  simp only [aluRows, List.mem_cons, List.not_mem_nil, or_false] at h
  rcases h with rfl | rfl | rfl | rfl | rfl | rfl | rfl | rfl | rfl | rfl | rfl | rfl | rfl | rfl | rfl | rfl
  · exact ⟨0, { right := fun a b _ => .addition rfl (BitVec.add_zero (a + b)).symm rfl }⟩
  · exact ⟨1, { right := fun _ _ c => .addition rfl (by cases c <;> rfl) (by cases c <;> rfl) }⟩
  · exact ⟨2, { right := fun a b _ => .subtraction rfl (BitVec.sub_zero (a - b)).symm rfl }⟩
  · exact ⟨3, { right := fun _ _ c => .subtraction rfl (by cases c <;> rfl) (by cases c <;> rfl) }⟩
  · exact ⟨4, { right := fun _ _ _ => .logical rfl rfl }⟩
  · exact ⟨5, { right := fun _ _ _ => .logical rfl rfl }⟩
  · exact ⟨6, { right := fun _ _ _ => .logical rfl rfl }⟩
  · exact ⟨7, { right := fun _ _ _ => .logical rfl rfl }⟩
  · exact ⟨8, { right := fun _ _ _ => .shiftLeft rfl rfl rfl }⟩
  · exact ⟨9, { right := fun _ _ _ => .shiftRight rfl rfl rfl }⟩
  · exact ⟨10, { right := fun _ _ _ => .shiftRight rfl rfl rfl }⟩
  · exact ⟨11, { right := fun a b _ => .subtraction rfl (BitVec.sub_zero (a - b)).symm rfl }⟩
  · exact ⟨12, { right := fun _ _ _ => .logical rfl (ite_slt_eq id).symm }⟩
  · exact ⟨13, { right := fun _ _ _ => .logical rfl (ite_slt_eq Eq.symm).symm }⟩
  · exact ⟨14, { right := fun _ _ _ => .logical rfl (ite_ult_eq id).symm }⟩
  · exact ⟨15, { right := fun _ _ _ => .logical rfl (ite_ult_eq Eq.symm).symm }⟩

/-! ## The cycles after a word -/

theorem resume_modBank (t : Tile) (f : Bank → Bank) : (modBank t f).resume = t.resume := by
  unfold modBank setBank
  cases t.cur <;> rfl

/-- A word that begins counts its cycles from the one before, not from a return (R230). -/
theorem resume_wordOpen (s : State) (i : Nat) (sg : BitVec 8) : (tileOf (wordOpen s i sg) i).resume = 0 := by
  simp only [wordOpen, wordBegun, landAll, tileOf_setTile_self, tileOf_modTile_self]

theorem resume_passRetry (s : State) (i : Nat) (p : Retry → Bool) :
    (tileOf (passRetry s i p) i).resume = (tileOf s i).resume := by
  unfold passRetry
  dsimp only
  split
  · rfl
  · show (tileOf (modTile s i fun t => { t with retry := t.retry.filter fun r => !p r }) i).resume = _
    rw [tileOf_modTile_self]

theorem resume_wordEnd (s : State) (i pc wid : Nat) (c : Ctl) (hc : c.lib = none) :
    (tileOf (wordEnd s i pc wid c) i).resume = (tileOf s i).resume := by
  have hflags : (tileOf (withFlags s i c) i).resume = (tileOf s i).resume := by
    unfold withFlags
    split
    · rw [modBk, tileOf_modTile_self, resume_modBank]
    · rfl
  unfold wordEnd closeWord
  rw [(signalsOnly_opDone _ i wid).field Tile.resume fun _ => rfl]
  simp only [advance, hc, tileOf_modTile_self, resume_modBank, resume_passRetry, hflags]

/-- R10: the next word issues at least a cycle later, unless a return is to resume it. -/
theorem one_le_cyclesPassed {s : State} {i : Nat} (h : (tileOf s i).resume = 0) : 1 ≤ cyclesPassed s i := by
  unfold cyclesPassed
  rw [if_pos h]
  exact Nat.le_max_left 1 _

/-! ## The bank in which the move of a word is made -/

/-- What stays in flight does not depend on what the result replaces. -/
theorem landOne_snd (d : Nat) (p : Option (Word × Nat)) (v w : Word) : (landOne d p v).2 = (landOne d p w).2 := by
  unfold landOne
  rcases p with _ | ⟨x, n⟩
  · rfl
  · by_cases h : n ≤ d <;> simp only [h, if_true, if_false]

theorem landOne_landed {d n : Nat} (h : n ≤ d) (v w : Word) : (landOne d (some (v, n)) w).1 = v := by simp [landOne, h]

theorem aluReadable_wordBegun (x : Bool) (s : State) (i : Nat) :
    aluReadable x (bankIn (wordBegun s i) i) =
      (landOne (cyclesPassed s i) (aluPending x (bankIn s i)) (aluReadable x (bankIn s i))).1 := by
  cases x <;> simp [bankIn, bankOf_wordBegun, aluReadable, aluPending]

theorem aluPending_wordBegun (x : Bool) (s : State) (i : Nat) :
    aluPending x (bankIn (wordBegun s i) i) = (landOne (cyclesPassed s i) (aluPending x (bankIn s i)) 0).2 := by
  cases x <;> simp only [bankIn, bankOf_wordBegun, aluPending] <;> exact landOne_snd _ _ _ _

theorem aluOperand_wordBegun (x : Bool) (s : State) (i : Nat) :
    aluOperand x (bankIn (wordBegun s i) i) = aluOperand x (bankIn s i) := by
  cases x <;> simp only [bankIn, bankOf_wordBegun, aluOperand]

theorem flags_wordBegun (s : State) (i : Nat) : (bankIn (wordBegun s i) i).flags = flagsNow (bankIn s i) := by
  simp only [bankIn, bankOf_wordBegun]

/-! ## The bank after a word -/

/-- A bank after the end of a word: the flags that wait for the next word, its loop levels, its satisfied wait. -/
def endBank (b : Bank) (f : Option (BitVec 4)) (loops : List LoopLevel) : Bank :=
  { b with flagsNext := f, loops := loops, waited := none }

@[simp] theorem endBank_g (b : Bank) (f : Option (BitVec 4)) (l : List LoopLevel) : (endBank b f l).g = b.g := rfl
@[simp] theorem endBank_flags (b : Bank) (f : Option (BitVec 4)) (l : List LoopLevel) : (endBank b f l).flags = b.flags := rfl
@[simp] theorem gReg_endBank (b : Bank) (f : Option (BitVec 4)) (l : List LoopLevel) (n : Nat) :
    gReg (endBank b f l) n = gReg b n := rfl
@[simp] theorem aluReadable_endBank (x : Bool) (b : Bank) (f : Option (BitVec 4)) (l : List LoopLevel) :
    aluReadable x (endBank b f l) = aluReadable x b := rfl
@[simp] theorem aluPending_endBank (x : Bool) (b : Bank) (f : Option (BitVec 4)) (l : List LoopLevel) :
    aluPending x (endBank b f l) = aluPending x b := rfl
@[simp] theorem flagsNow_endBank (b : Bank) (f : BitVec 4) (l : List LoopLevel) : flagsNow (endBank b (some f) l) = f := rfl

/-! ## The move of an ALU operation -/

/-- R81: an operation's result goes in flight, but that of `cmp`. -/
def startAlu (alu : Bool) (op : Nat) (r : Word) (b : Bank) : Bank :=
  if op = 11 then b else if alu then { b with al1p := some (r, 1) } else { b with al0p := some (r, 1) }

/-- What an operation that starts leaves alone: all but the results in flight. -/
theorem startAlu_keeps {β : Type} (g : Bank → β) (h : ∀ b p p', g { b with al0p := p, al1p := p' } = g b) (alu : Bool) (op : Nat)
    (r : Word) (b : Bank) : g (startAlu alu op r b) = g b := by
  unfold startAlu
  by_cases hop : op = 11
  · rw [if_pos hop]
  · rw [if_neg hop]
    cases alu
    · exact h b (some (r, 1)) b.al1p
    · exact h b b.al0p (some (r, 1))

/-- What an operation of an ALU answers in a bank: result and flags. -/
def aluAnswer (alu : Bool) (op : Nat) (x : Word) (b : Bank) : Word × BitVec 4 := aluOp op (aluOperand alu b) x (fC b.flags)

/-- The state in which an operation of an ALU has started. -/
def aluStarted (s : State) (i : Nat) (alu : Bool) (op : Nat) (r : Word) : State :=
  if op = 11 then s else modBk s i (startAlu alu op r)

/-- What an ALU's trigger leaves and asks of the control processor. -/
theorem trigAlu_eq (s : State) (i : Nat) (alu : Bool) (m : Moved) (op : Nat) :
    trigAlu s i alu m op Ctl.none =
      (aluStarted s i alu op (aluAnswer alu op m.x (bankIn s i)).1,
        { Ctl.none with flags := some (m.slot, (aluAnswer alu op m.x (bankIn s i)).2) }) := by
  unfold trigAlu aluStarted startAlu
  by_cases h : op = 11
  · simp only [h, if_true]
    rfl
  · simp only [h, if_false]
    rfl

theorem bankIn_aluStarted (s : State) (i : Nat) (alu : Bool) (op : Nat) (r : Word) :
    bankIn (aluStarted s i alu op r) i = startAlu alu op r (bankIn s i) := by
  unfold aluStarted
  by_cases h : op = 11
  · rw [if_pos h, startAlu, if_pos h]
  · rw [if_neg h, bankIn, modBk, tileOf_modTile_self, bankOf_modBank]
    rfl

theorem resume_aluStarted (s : State) (i : Nat) (alu : Bool) (op : Nat) (r : Word) :
    (tileOf (aluStarted s i alu op r) i).resume = (tileOf s i).resume := by
  unfold aluStarted
  split
  · rfl
  · rw [modBk, tileOf_modTile_self, resume_modBank]

theorem wordFrame_aluStarted (s : State) (i : Nat) (alu : Bool) (op : Nat) (r : Word) :
    WordFrame i id s (aluStarted s i alu op r) := by
  unfold aluStarted
  split
  · exact .refl i id s
  · exact wordFrame_modTile s i id _ fun t => wordPart_modBank t _ fun b => startAlu_keeps wordBank (fun _ _ _ => rfl) alu op r b

theorem startAlu_flags (alu : Bool) (op : Nat) (r : Word) (b : Bank) : (startAlu alu op r b).flags = b.flags :=
  startAlu_keeps Bank.flags (fun _ _ _ => rfl) alu op r b

theorem aluReadable_startAlu (x alu : Bool) (op : Nat) (r : Word) (b : Bank) :
    aluReadable x (startAlu alu op r b) = aluReadable x b :=
  startAlu_keeps (aluReadable x) (fun _ _ _ => rfl) alu op r b

theorem aluPending_startAlu (x alu : Bool) (op : Nat) (r : Word) (b : Bank) :
    aluPending x (startAlu alu op r b) = if x = alu ∧ op ≠ 11 then some (r, 1) else aluPending x b := by
  unfold startAlu
  by_cases h : op = 11
  · simp [h]
  · cases x <;> cases alu <;> simp [aluPending, h]

/-! ## Ports that every program may name -/

/-- A port of level U, in a unit that cannot be disabled, that neither opens a mailbox nor branches to an absolute address. -/
def userPort (p : Nat) : Bool :=
  isPort p && portLevel p true == 0 && !inR p 0x0E0 0x0E9 && p != 0x0F0 && p != 0x0F8 && !inR p 0x810 0x817 && p != 0x0C8 && p != 0x0CA

theorem movable_of_userPort {p : Nat} (h : userPort p = true) (t : Tile) (x : Word) : Movable t p x := by
  simp only [userPort, Bool.and_eq_true, beq_iff_eq, bne_iff_ne, Bool.not_eq_true', inR, decide_eq_false_iff_not] at h
  obtain ⟨⟨⟨⟨⟨⟨⟨hport, hlevel⟩, hloop⟩, hlast⟩, hcall⟩, hbox⟩, -⟩, -⟩ := h
  have hports : inR p 0x0E0 0x0E2 = false := decide_eq_false (by omega)
  have htriggers : inR p 0x0E8 0x0E9 = false := decide_eq_false (by omega)
  exact ⟨hport, by simp [portDisabled, hports, htriggers, hlast, hcall], by simp [levelOk, hlevel], fun hp => absurd hp hcall,
    decide_eq_false hbox⟩

theorem alignExc_of_userPort {p : Nat} (h : userPort p = true) (x : Word) : alignExc (moveOf p x) = none := by
  simp only [userPort, Bool.and_eq_true, bne_iff_ne] at h
  obtain ⟨⟨_, hjump⟩, hcall⟩ := h
  simp [alignExc, moveOf, hjump, hcall]

/-! ## The word of an ALU operation -/

theorem userPort_aluPort {op : Nat} (alu : Bool) (h : op < 16) : userPort (aluPort alu op) = true := by
  have hall : ∀ (alu : Bool) (op : Fin 16), userPort (aluPort alu op) = true := by decide
  exact hall alu ⟨op, h⟩

theorem trigUnit_aluPort {op : Nat} (alu : Bool) (h : op < 16) :
    trigUnit (aluPort alu op) = some (if alu then .al1 else .al0) := by
  have hall : ∀ (alu : Bool) (op : Fin 16), trigUnit (aluPort alu op) = some (if alu then .al1 else .al0) := by decide
  exact hall alu ⟨op, h⟩

/-- The move of a word of one ALU operation starts the operation. -/
theorem wordMove_alu (s : State) (i : Nat) (alu : Bool) {op : Nat} (x : Word) (sg : BitVec 8) (h : op < 16) :
    let p := aluAnswer alu op x (bankIn (wordBegun s i) i)
    wordMove s i (aluPort alu op) x sg =
      (aluStarted (wordOpen s i sg) i alu op p.1, { Ctl.none with flags := some (0, p.2) }) := by
  have hunit := trigUnit_aluPort alu h
  have hbank : bankIn (wordOpen s i sg) i = bankIn (wordBegun s i) i := bankOf_wordOpen s i sg
  rw [wordMove_trigger _ _ _ _ _ (by rw [hunit]; rfl)]
  have htrig : ∀ pc wid st, trigger i pc wid (st, Ctl.none) (moveOf (aluPort alu op) x) =
      trigAlu st i alu (moveOf (aluPort alu op) x) op Ctl.none := by
    intro pc wid st
    unfold trigger
    simp only [moveOf, hunit]
    cases alu <;> simp [aluPort]
  rw [htrig, trigAlu_eq, hbank]
  rfl

/-- What a word of one ALU operation does to its bank: earlier results land, the operation starts, its flags wait for the next word. -/
theorem issue_alu {s : State} {lti : BitVec 14} (h : Ready s lti) (alu : Bool) {op : Nat} (hop : op < 16) (x : Word) (sg : BitVec 8) :
    let b := bankIn (wordBegun s lti.toNat) lti.toNat
    let p := aluAnswer alu op x b
    ∃ t loops, onTile lti s (fun i s => issueOne s i (aluPort alu op) x sg) = .next t ∧ WordFrame lti.toNat id s t ∧
      bankIn t lti.toNat = endBank (startAlu alu op p.1 b) (some p.2) loops ∧ 1 ≤ cyclesPassed t lti.toNat := by
  intro b p
  have hport := userPort_aluPort alu hop
  have hm := movable_of_userPort hport (tileOf s lti.toNat) x
  have ha := alignExc_of_userPort hport x
  have hw := wordMove_alu s lti.toNat alu x sg hop
  obtain ⟨t, ht, hframe, hb, -⟩ := issue_word h hm ha hw rfl rfl rfl rfl rfl rfl id (wordFrame_aluStarted _ _ _ _ _)
  have hbank : bankIn (aluStarted (wordOpen s lti.toNat sg) lti.toNat alu op p.1) lti.toNat = startAlu alu op p.1 b := by
    rw [bankIn_aluStarted, bankIn, bankOf_wordOpen]
    rfl
  refine ⟨t, _, ht, hframe, hb.trans (by rw [hbank]; rfl), one_le_cyclesPassed ?_⟩
  have he : issueOne s lti.toNat (aluPort alu op) x sg = t :=
    Host.Outcome.next.inj ((onTile_clocked h.clocked _).symm.trans ht)
  rw [← he, issueOne_plain h hm ha hw rfl rfl rfl rfl rfl, resume_wordEnd _ _ _ _ _ rfl, resume_aluStarted, resume_wordOpen]

/-- Settles O1: the word of each row lands earlier results and starts its operation (`issue_alu`), which is the row's
(`aluRows_doneBy`); the next word finds result and flags (`aluReadable_wordBegun`, `flags_wordBegun`). -/
theorem aluOperations : Obligations.AluOperations := by
  unfold Obligations.AluOperations
  intro row hrow s lti alu x sg h
  obtain ⟨op, hd⟩ := aluRows_doneBy row hrow
  obtain ⟨t, loops, ht, hframe, hb, hcycles⟩ := issue_alu h alu hd.lt x sg
  intro i a c
  obtain ⟨hresult, hflags⟩ := hd.right a x c
  have hanswer : aluAnswer alu op x (bankIn (wordBegun s i) i) = aluOp op a x c := by
    rw [aluAnswer, aluOperand_wordBegun, flags_wordBegun]
    rfl
  rw [hanswer, hresult] at hb
  have hpending : ∀ y, aluPending y (bankIn t i) =
      if y = alu ∧ row.writes = true then some (row.result a x c, 1)
      else (landOne (cyclesPassed s i) (aluPending y (bankIn s i)) 0).2 := by
    intro y
    rw [hb, aluPending_endBank, aluPending_startAlu, aluPending_wordBegun, hd.writes]
    simp only [decide_eq_true_eq]
    rfl
  have hreadable : ∀ y, aluReadable y (bankIn t i) =
      (landOne (cyclesPassed s i) (aluPending y (bankIn s i)) (aluReadable y (bankIn s i))).1 := by
    intro y
    rw [hb, aluReadable_endBank, aluReadable_startAlu, aluReadable_wordBegun]
  have hflagsNow : flagsNow (bankIn t i) = (aluOp op a x c).2 := by
    rw [hb, flagsNow_endBank]
  refine ⟨t, (aluOp op a x c).2, (hd.command ..).trans ht, hflags, ?_, hflagsNow, ?_, ?_, ?_, hreadable, ?_, ?_, hframe⟩
  · rw [hb, endBank_flags, startAlu_flags, flags_wordBegun]
  · intro hw
    rw [hpending, if_pos ⟨rfl, hw⟩]
  · rw [flags_wordBegun, hflagsNow]
  · rw [aluReadable_wordBegun]
    by_cases hw : row.writes = true
    · rw [hpending, if_pos ⟨rfl, hw⟩, landOne_landed hcycles, if_pos hw]
    · rw [if_neg hw]
  · intro y _ hw
    rw [hpending, if_neg (by simp [hw])]
  · intro y hy
    rw [hpending, if_neg (by simp [hy])]

/-! ## A move to a general register -/

theorem userPort_generalRegister {n : Nat} (h : n < 64) : userPort n = true := by
  have hall : ∀ n : Fin 64, userPort n = true := by decide
  exact hall ⟨n, h⟩

theorem trigUnit_generalRegister {n : Nat} (h : n < 64) : trigUnit n = none := by
  have hall : ∀ n : Fin 64, trigUnit n = none := by decide
  exact hall ⟨n, h⟩

/-- R80: what a register reads after a write of register n. -/
theorem gReg_setG (b : Bank) (n m : Nat) (x : Word) : gReg (setG b n x) m = if m = n ∧ n ≠ 0 then x else gReg b m := by
  by_cases hn : n = 0
  · simp [setG, hn]
  · by_cases hm : m = n
    · simp [gReg, setG, hn, hm]
    · simp [gReg, setG, hn, hm, smGet_smSet_ne]

theorem g_wordBegun (s : State) (i : Nat) : (bankIn (wordBegun s i) i).g = (bankIn s i).g := by
  simp only [bankIn, bankOf_wordBegun]

theorem gReg_wordBegun (s : State) (i m : Nat) : gReg (bankIn (wordBegun s i) i) m = gReg (bankIn s i) m := by
  rw [gReg, g_wordBegun, gReg]

/-- Two changes of the current bank, one after the other. -/
theorem modBank_modBank (t : Tile) (f g : Bank → Bank) : modBank (modBank t f) g = modBank t fun b => g (f b) := by
  have hbank : ∀ b b', setBank (setBank t b) b' = setBank t b' := by
    intro b b'
    unfold setBank
    cases t.cur <;> rfl
  rw [modBank, bankOf_modBank, modBank, hbank, modBank]

/-- A tile without what the issue of a word changes outside its current bank. -/
def outerPart (t : Tile) : Tile :=
  { signalPart t with
    nextWid := 0, landed := 0, resume := 0, pc := 0, line0 := none, missedAt := none, held := 0, retry := []
    cache := { t.cache with loopBuf := [] } }

theorem wordPart_eq (t : Tile) : wordPart t = modBank (outerPart t) wordBank := rfl

theorem outerPart_modBank (t : Tile) (f : Bank → Bank) : outerPart (modBank t f) = modBank (outerPart t) f := by
  unfold modBank setBank bankOf
  cases hc : t.cur <;> simp only [outerPart, signalPart, hc]

/-- A change of the current bank, in a frame that leaves out a part of the bank. -/
theorem modBank_wordPart_modBank (t : Tile) (f rest : Bank → Bank) (h : ∀ b, rest (wordBank (f b)) = rest (wordBank b)) :
    modBank (wordPart (modBank t f)) rest = modBank (wordPart t) rest := by
  simp only [wordPart_eq, outerPart_modBank, modBank_modBank, h]

theorem wordFrame_setG (s : State) (i n : Nat) (x : Word) : WordFrame i withoutG s (modBk s i fun b => setG b n x) := by
  have hkeep : ∀ t : Tile, withoutG (wordPart (modBank t fun b => setG b n x)) = withoutG (wordPart t) := by
    intro t
    unfold withoutG
    rw [modBank_wordPart_modBank]
    intro b
    by_cases hn : n = 0
    · rw [setG, if_pos hn]
    · rw [setG, if_neg hn]
      rfl
  exact wordFrame_modTile s i withoutG _ hkeep

/-- The move of a word that names a general register writes it. -/
theorem wordMove_generalRegister (s : State) (i : Nat) {n : Nat} (x : Word) (sg : BitVec 8) (h : n < 64) :
    wordMove s i n x sg = (modBk (wordOpen s i sg) i fun b => setG b n x, Ctl.none) := by
  have hflags : n ≠ 0x3C0 := by omega
  rw [wordMove_plain _ _ _ _ _ (trigUnit_generalRegister h) hflags]
  unfold writePort
  rw [if_pos h]

/-- What a word of one move to a general register does to its bank: earlier results land, the register is written. -/
theorem issue_generalRegister {s : State} {lti : BitVec 14} (h : Ready s lti) {n : Nat} (hn : n < 64) (x : Word) (sg : BitVec 8) :
    ∃ t f loops, onTile lti s (fun i s => issueOne s i n x sg) = .next t ∧ WordFrame lti.toNat withoutG s t ∧
      bankIn t lti.toNat = endBank (setG (bankIn (wordBegun s lti.toNat) lti.toNat) n x) f loops := by
  have hport := userPort_generalRegister hn
  obtain ⟨t, ht, hframe, hb, -⟩ := issue_word h (movable_of_userPort hport _ x) (alignExc_of_userPort hport x)
    (wordMove_generalRegister s lti.toNat x sg hn) rfl rfl rfl rfl rfl rfl withoutG (wordFrame_setG _ _ _ _)
  have hbank : bankIn (modBk (wordOpen s lti.toNat sg) lti.toNat fun b => setG b n x) lti.toNat =
      setG (bankIn (wordBegun s lti.toNat) lti.toNat) n x := by
    rw [bankIn, modBk, tileOf_modTile_self, bankOf_modBank, bankOf_wordOpen]
    rfl
  exact ⟨t, _, _, ht, hframe, hb.trans (by rw [hbank]; rfl)⟩

/-- Settles O4: the word's bank is the one before with the register written (`issue_generalRegister`), which `gReg_setG` reads. -/
theorem generalRegisters : Obligations.GeneralRegisters := by
  unfold Obligations.GeneralRegisters
  intro s lti n x sg h i
  obtain ⟨t, f, loops, ht, hframe, hb⟩ := issue_generalRegister h n.isLt x sg
  have hexec : exec (.registerWrite lti (n.setWidth 12) x sg) s = .next t := by
    have hnum : (n.setWidth 12).toNat = n.toNat := BitVec.toNat_setWidth_of_le (by decide)
    rw [← ht, ← hnum]
    rfl
  have hreg : ∀ m, gReg (bankIn t i) m = if m = n.toNat ∧ n.toNat ≠ 0 then x else gReg (bankIn s i) m := by
    intro m
    rw [hb, gReg_endBank, gReg_setG, gReg_wordBegun]
  refine ⟨t, hexec, ?_, ?_, ?_, hframe⟩
  · rw [hreg]
    by_cases hn : n = 0
    · subst hn
      rfl
    · have hn' : n.toNat ≠ 0 := fun h0 => hn (BitVec.eq_of_toNat_eq h0)
      rw [if_pos ⟨rfl, hn'⟩, if_neg hn]
  · intro m hm
    rw [hreg, if_neg fun hboth => hm hboth.1]
  · rintro rfl
    rw [hb, endBank_g]
    exact g_wordBegun s i

end Sys2Proof.Machine
end

section
/-! SUPPORT. Numbers as bytes, and the frame of the heartbeat with the statement about it (13_dictionary.md). -/

namespace Sys2Proof.Machine

open Sys2Proof

/-! ## Numbers as bytes -/

@[simp] theorem length_leBytes (n x : Nat) : (leBytes n x).length = n := by
  induction n generalizing x with
  | zero => rfl
  | succ n ih => rw [leBytes, List.length_cons, ih]

/-- Bytes that spell a number read back as the number, but for what does not fit them. -/
theorem leNat_leBytes (n x : Nat) : leNat (leBytes n x) = x % 256 ^ n := by
  induction n generalizing x with
  | zero => rw [leBytes, leNat, Nat.pow_zero, Nat.mod_one]
  | succ n ih => rw [leBytes, leNat, ih, BitVec.toNat_ofNat, Nat.pow_succ' (m := 256), Nat.mod_mul]

/-- A number's bytes spell it when it fits them. -/
theorem leNat_leBytes_of_lt {n x : Nat} (h : x < 256 ^ n) : leNat (leBytes n x) = x := by
  rw [leNat_leBytes, Nat.mod_eq_of_lt h]

/-! ## The heartbeat -/

/-- R353: a payload that fills a CAN FD data length goes out as it is. -/
theorem canPad_of_canLength {bs : List Byte} (h : canLength bs.length = bs.length) : canPad bs = bs := by
  rw [canPad, h, Nat.sub_self, List.replicate_zero, List.append_nil]

/-- R357: the eight bytes of the heartbeat. -/
def heartbeatBytes (s : State) : List Byte :=
  leBytes 1 (hStat s % 256) ++ leBytes 1 s.rel.svc.toNat ++ leBytes 4 ((timestamp s).toNat % 2 ^ 32)
    ++ leBytes 2 (s.dict.tsWraps.toNat % 65536)

@[simp] theorem length_heartbeatBytes (s : State) : (heartbeatBytes s).length = 8 := by simp [heartbeatBytes]

/-- Byte 0, which holds the low eight bits of `H.STAT`. -/
theorem heartbeatBytes_hStat (s : State) : (heartbeatBytes s).getD 0 0 = BitVec.ofNat 8 (hStat s) := by
  change BitVec.ofNat 8 (hStat s % 256) = _
  exact BitVec.eq_of_toNat_eq (by simp)

theorem heartbeatBytes_serviceLevel (s : State) : (heartbeatBytes s).getD 1 0 = BitVec.ofNat 8 s.rel.svc.toNat := rfl

theorem heartbeatBytes_timestamp (s : State) :
    leNat (((heartbeatBytes s).drop 2).take 4) = (timestamp s).toNat % 2 ^ 32 :=
  leNat_leBytes_of_lt (n := 4) (Nat.mod_lt _ (by decide))

theorem heartbeatBytes_wraps (s : State) : leNat ((heartbeatBytes s).drop 6) = s.dict.tsWraps.toNat % 65536 :=
  leNat_leBytes_of_lt (n := 2) (Nat.mod_lt _ (by decide))

/-- HEARTBEAT sends the eight bytes, but for a period of 0, a device that is not ready or a node that is bus-off. -/
theorem exec_heartbeat (s : State) :
    exec .heartbeat s =
      .next (if s.dict.heartbeat = 0 ∨ !s.boot.ready ∨ s.dict.canSt = 2 then s else canSend 7 (heartbeatBytes s) s) := rfl

theorem exec_heartbeat_of_period_zero {s : State} (h : s.dict.heartbeat = 0) : exec .heartbeat s = .next s := by
  rw [exec_heartbeat, if_pos (Or.inl h)]

theorem exec_heartbeat_on_bus {s : State} (hperiod : s.dict.heartbeat ≠ 0) (hready : s.boot.ready = true) (hbus : s.dict.canSt ≠ 2) :
    exec .heartbeat s = .next (canSend 7 (heartbeatBytes s) s) := by
  have hunready : ¬(!s.boot.ready) = true := by rw [hready]; decide
  rw [exec_heartbeat, if_neg (not_or.mpr ⟨hperiod, not_or.mpr ⟨hunready, hbus⟩⟩)]

/-- R353: the heartbeat fills a data length of 8. -/
theorem canPad_heartbeatBytes (s : State) : canPad (heartbeatBytes s) = heartbeatBytes s :=
  canPad_of_canLength (by rw [length_heartbeatBytes]; rfl)

/-- Settles O47: the frame's payload is `heartbeatBytes`, which goes out unpadded, and each field of it reads back. -/
theorem heartbeat : Obligations.Heartbeat := by
  unfold Obligations.Heartbeat
  intro s
  refine ⟨exec_heartbeat_of_period_zero, fun hperiod hready hbus => ⟨heartbeatBytes s, length_heartbeatBytes s, ?_,
    heartbeatBytes_hStat s, heartbeatBytes_serviceLevel s, heartbeatBytes_timestamp s, heartbeatBytes_wraps s⟩⟩
  rw [exec_heartbeat_on_bus hperiod hready hbus, canSend, canPad_heartbeatBytes]

end Sys2Proof.Machine
end
